-- ==== Sys2Proof/Word.lean ====
section
/-! DEFINITION. The words of the GA-7240 and their plainest arithmetic (R3, R4). -/

namespace Sys2Proof

/-- A byte. -/
abbrev Byte := BitVec 8
/-- A 16-bit word. -/
abbrev W16 := BitVec 16
/-- A 32-bit word: the value of a token. -/
abbrev W32 := BitVec 32
/-- A word of 64 bits (R4). -/
abbrev W64 := BitVec 64
/-- A 128-bit word: an element configuration word, a row of the parse table. -/
abbrev W128 := BitVec 128

/-- Bits hi:lo of x as a natural number (R3). -/
def nbits (x hi lo : Nat) : Nat := (x >>> lo) % 2 ^ (hi + 1 - lo)

/-- Bit i of x. -/
def nbit (x i : Nat) : Bool := (x >>> i) % 2 == 1

/-- The two's complement reading of the low n bits of x. -/
def sextInt (x n : Nat) : Int :=
  let y := x % 2 ^ n
  if 2 * y < 2 ^ n then (y : Int) else (y : Int) - (2 ^ n : Nat)

/-- An integer reduced modulo 2^n. -/
def wrapNat (v : Int) (n : Nat) : Nat := (v % ((2 ^ n : Nat) : Int)).toNat

/-- An integer as a 64-bit word, wrapped. -/
def wordOf (v : Int) : W64 := BitVec.ofNat 64 (wrapNat v 64)

end Sys2Proof
end

