-- ==== Sys2Proof/Syntax.lean ====
section
/-! DEFINITION. The syntax of the GA-7240: operands of block instructions (R322 to R328), the payloads the outside world
brings (frames, management messages), and Instr, one constructor for each row of spec/opcode_table.json. An event row
carries the names of the places it happens at (a region, a site, an index into the messages in flight), or none where it
takes the oldest input that waits in State; a block instruction carries its decoded fields. The rows without operands
stand last. -/

namespace Sys2Proof

/-- The type codes of block instructions (R325). -/
inductive Ty where
  | i8 | i16 | i32 | i64 | n8 | n16 | n32 | n64 | f32 | bf16 | t8
  deriving DecidableEq, Repr

/-- The special sources 0x58 to 0x5F (R342). -/
inductive Spec where
  | zero | baddr | ttl | tth | mord | drc | rid | time
  deriving DecidableEq, Repr

/-- A source operand (R323). `l k` is l(k+1). -/
inductive Src where
  | g (n : Fin 64)
  | o (n : Fin 16)
  | l (k : Fin 8)
  | spec (x : Spec)
  | imm (v : BitVec 7)
  deriving DecidableEq, Repr

/-- A destination operand (R323). -/
inductive Dst where
  | g (n : Fin 64)
  | o (n : Fin 16)
  deriving DecidableEq, Repr

/-- What a predicate byte names (R324). -/
inductive PSel where
  | o (n : Fin 16)
  | l (k : Fin 8)
  deriving DecidableEq, Repr

/-- An enabled predicate: the instruction runs when the named value's truth equals the sense (R324). -/
structure Pred where
  sense : Bool
  sel : PSel
  deriving DecidableEq, Repr

/-- The six scopes (R9). -/
inductive Scope where
  | site | cl | rg | gang | die | stn
  deriving DecidableEq, Repr

/-- The successor a chained access names (R328). -/
inductive Sck where
  | next | zero | ones
  deriving DecidableEq, Repr

/-- The operations a `tact` entry carries (R202). -/
inductive TactOp where
  | reset | emit | setimm
  deriving DecidableEq, Repr

/-- The conditions of the conditional branches (R322, CND bits 3:0). -/
inductive Cond where
  | eq | ne | lt | ge | le | gt
  deriving DecidableEq, Repr

/-- The kinds of block core (R326). -/
inductive CoreKind where
  | pergola | kiosk | lodge
  deriving DecidableEq, Repr

/-- A block core: the Pergola of region r (0 to 63), kiosk k of region r (0 to 7 of the matrix engines, 8 of the
Trellis), or Lodge core c (0 to 7). -/
inductive CoreId where
  | pergola (r : Nat)
  | kiosk (r k : Nat)
  | lodge (c : Nat)
  deriving DecidableEq, Repr

/-- A datagram as an Ethernet port delivers it: the length of its Ethernet frame, what the headers below SXT say, the
four header words of R23 and the bytes that follow them. -/
structure RawFrame where
  ethLen : Nat
  ipv6 : Bool
  fragment : Bool
  udpPort : Nat
  udpSum : Nat
  src : BitVec 128
  srcPort : Nat
  h0 : W64
  h1 : W64
  h2 : W64
  h3 : W64
  payload : List Byte
  deriving DecidableEq, Repr

/-- What an MCTP message asks of the management unit (R37). -/
inductive MctpReq where
  | control
  | sensorTemp (n : Nat)
  | sensorPower
  | sensorReg (num : Nat)
  | sensorBoot
  | clampEvent
  | other (mtype : Nat)
  deriving DecidableEq, Repr

/-- One constructor for each row of spec/opcode_table.json. -/
inductive Instr where
  | ackTimer (chan : Nat)
  | sxtRetransmitTimeout (chan : Nat)
  | remoteTimeout (k : Nat)
  | linkRetrain (link : Nat)
  | linkRetrainDone (link : Nat) (ok : Bool)
  | openRecordExpiry (k : Nat)
  | attest (sid : Nat)
  | mapwin (sid : Nat)
  | unmap (sid : Nat)
  | bindChannel (sid : Nat)
  | loadplan (sid : Nat)
  | launch (sid : Nat)
  | cancel (sid : Nat)
  | readsnap (sid : Nat)
  | readfault (sid : Nat)
  | closeSession (sid : Nat)
  | keepaliveTimeout (sid : Nat)
  | gangGrant (die : Nat) (q : Nat)
  | batPromote (die : Nat) (q : Nat)
  | isoActivation (gang : Nat)
  | budgetExpiry (gang : Nat)
  | slackPreemptTimer (gang : Nat)
  | preemptRequest (gang : Nat)
  | streamClose (r : Nat)
  | belvedereQuiescence (r : Nat)
  | saveComplete (gang : Nat)
  | drainTimeout (gang : Nat)
  | regionEnd (r : Nat)
  | faultTrap (r : Nat)
  | wedgeTimeout (r : Nat)
  | taskLongTimeout (r : Nat) (kiosk : Nat)
  | fillStart (w : Nat)
  | fillLastByte (w : Nat)
  | countedReadDeliver (k : Nat)
  | tilePlainAccess (k : Nat)
  | freedSlotNotice (k : Nat)
  | writebackComplete (w : Nat) (seq : Nat)
  | windowRetire (w : Nat)
  | windowClosed (w : Nat)
  | bufferWrite (r : Nat) (node : Nat)
  | bufferRead (r : Nat) (j : Nat)
  | prefetchDone (w : Nat)
  | presenceWrite (k : Nat)
  | presenceRead (k : Nat)
  | presenceDeferralEnd (k : Nat)
  | releaseAtHome (k : Nat)
  | acquireAtHome (k : Nat)
  | lineRequest (k : Nat)
  | atomicAtHome (k : Nat)
  | chainArrival (k : Nat)
  | chainPerformed (k : Nat)
  | gapTimeout (chain : Nat)
  | tlkTranslate (r : Nat) (t : Nat)
  | walkComplete (r : Nat) (k : Nat)
  | walkerRetry (r : Nat) (k : Nat)
  | pglimTimeout (r : Nat)
  | kvRetry (r : Nat) (t : Nat)
  | invalidationStart (k : Nat)
  | invalidationComplete (k : Nat)
  | tokenHop (r : Nat) (site : Nat) (trk : Nat)
  | elementFireOrdered (r : Nat) (site : Nat)
  | matchedStoreTake (r : Nat) (site : Nat)
  | matchedIssue (r : Nat) (site : Nat)
  | arcCompletion (k : Nat)
  | spawnCall (r : Nat) (site : Nat)
  | spawnReturn (r : Nat) (site : Nat)
  | commitRetire (r : Nat) (site : Nat)
  | mstOrderedRelease (r : Nat) (site : Nat)
  | rsvPair (r : Nat) (site : Nat)
  | rsvMark (r : Nat) (site : Nat)
  | xpsT2p (r : Nat) (site : Nat)
  | xpsP2t (r : Nat) (site : Nat)
  | belvedereStill (r : Nat)
  | swapPerform (r : Nat)
  | barrierArrive (r : Nat)
  | barrierComplete (gang : Nat)
  | markEnqueue (r : Nat)
  | parseStep (r : Nat)
  | mismatchDiscard (r : Nat)
  | recoveryReset (r : Nat)
  | doneTerminal (r : Nat)
  | actionEntryArrive (k : Nat)
  | markSyncApply (r : Nat) (site : Nat)
  | settledRaise (r : Nat)
  | blockStart (core : CoreId)
  | blockCommit (core : CoreId)
  | afterCommitReply (k : Nat)
  | postCommitFault (k : Nat)
  | taskReadyStart (r : Nat) (kiosk : Nat)
  | meOpComplete (r : Nat) (j : Nat)
  | routeDelivery (r : Nat) (pt : Nat)
  | rowDelivery (r : Nat) (pt : Nat)
  | lapStart (gang : Nat)
  | trainAtEngine (r : Nat) (j : Nat)
  | slotComplete (r : Nat) (j : Nat)
  | lapComplete (gang : Nat)
  | trellisRunEnter (r : Nat)
  | replayRemoval (k : Nat)
  | collDeadline (die : Nat) (k : Nat)
  | collResult (die : Nat) (k : Nat)
  | elementArith (r : Nat) (site : Nat)
  | elementFmaScl (r : Nat) (site : Nat)
  | elementCompareSelect (r : Nat) (site : Nat)
  | elementConvert (r : Nat) (site : Nat)
  | elementUnpk (r : Nat) (site : Nat)
  | elementPack (r : Nat) (site : Nat)
  | elementAccumulate (r : Nat) (site : Nat)
  | elementMrg (r : Nat) (site : Nat)
  | elementSteerGate (r : Nat) (site : Nat)
  | elementRpt (r : Nat) (site : Nat)
  | elementTag (r : Nat) (site : Nat)
  | elementMkgen (r : Nat) (site : Nat)
  | elementCfw (r : Nat) (site : Nat)
  | elementMrdMwr (r : Nat) (site : Nat)
  | elementMrdk (r : Nat) (site : Nat)
  | elementMrdcMwrc (r : Nat) (site : Nat)
  | elementMfen (r : Nat) (site : Nat)
  | memoryPortResponse (r : Nat) (site : Nat)
  | boxCp (r : Nat) (pt : Nat)
  | boxGath (r : Nat) (pt : Nat)
  | boxScat (r : Nat) (pt : Nat)
  | boxGl (r : Nat) (pt : Nat)
  | boxElementFault (r : Nat) (pt : Nat)
  | boxComplete (r : Nat) (pt : Nat)
  | winOpen (w : Nat)
  | winFill (w : Nat)
  | winClose (w : Nat)
  | meOp (r : Nat) (j : Nat)
  | meRd (r : Nat) (j : Nat)
  | taskArm (r : Nat) (kiosk : Nat)
  | crsRing (r : Nat)
  | crsRun (r : Nat)
  | trlCtx (r : Nat)
  | trlTab (r : Nat)
  | trlRun (r : Nat)
  | trnSet (r : Nat) (u : Nat)
  | cfgLoad (r : Nat)
  | cfgSwap (r : Nat)
  | bar (r : Nat)
  | collSum (die : Nat) (k : Nat)
  | collMax (die : Nat) (k : Nat)
  | collGath (die : Nat) (k : Nat)
  | collBcast (die : Nat) (k : Nat)
  | collRsv (die : Nat) (k : Nat)
  | add (t : Ty) (d : Dst) (a : Src) (b : Src) (p : Option Pred)
  | sub (t : Ty) (d : Dst) (a : Src) (b : Src) (p : Option Pred)
  | mul (t : Ty) (d : Dst) (a : Src) (b : Src) (p : Option Pred)
  | mulh (t : Ty) (d : Dst) (a : Src) (b : Src) (p : Option Pred)
  | div (t : Ty) (d : Dst) (a : Src) (b : Src) (p : Option Pred)
  | rem (t : Ty) (d : Dst) (a : Src) (b : Src) (p : Option Pred)
  | min (t : Ty) (d : Dst) (a : Src) (b : Src) (p : Option Pred)
  | max (t : Ty) (d : Dst) (a : Src) (b : Src) (p : Option Pred)
  | adds (t : Ty) (d : Dst) (a : Src) (b : Src) (p : Option Pred)
  | subs (t : Ty) (d : Dst) (a : Src) (b : Src) (p : Option Pred)
  | abs (t : Ty) (d : Dst) (a : Src) (p : Option Pred)
  | neg (t : Ty) (d : Dst) (a : Src) (p : Option Pred)
  | and (t : Ty) (d : Dst) (a : Src) (b : Src) (p : Option Pred)
  | or (t : Ty) (d : Dst) (a : Src) (b : Src) (p : Option Pred)
  | xor (t : Ty) (d : Dst) (a : Src) (b : Src) (p : Option Pred)
  | notb (t : Ty) (d : Dst) (a : Src) (p : Option Pred)
  | shl (t : Ty) (d : Dst) (a : Src) (b : Src) (p : Option Pred)
  | shr (t : Ty) (d : Dst) (a : Src) (b : Src) (p : Option Pred)
  | rotl (t : Ty) (d : Dst) (a : Src) (b : Src) (p : Option Pred)
  | clz (t : Ty) (d : Dst) (a : Src) (p : Option Pred)
  | popc (t : Ty) (d : Dst) (a : Src) (p : Option Pred)
  | bext (t : Ty) (d : Dst) (a : Src) (b : Src) (c : Src) (p : Option Pred)
  | bins (t : Ty) (d : Dst) (a : Src) (b : Src) (c : Src) (p : Option Pred)
  | cmpeq (t : Ty) (d : Dst) (a : Src) (b : Src) (p : Option Pred)
  | cmpne (t : Ty) (d : Dst) (a : Src) (b : Src) (p : Option Pred)
  | cmplt (t : Ty) (d : Dst) (a : Src) (b : Src) (p : Option Pred)
  | cmple (t : Ty) (d : Dst) (a : Src) (b : Src) (p : Option Pred)
  | sel (t : Ty) (d : Dst) (a : Src) (b : Src) (c : Src) (p : Option Pred)
  | ldiI64 (d : Dst) (imm : BitVec 32)
  | ldiN64 (d : Dst) (imm : BitVec 32)
  | ldhiN64 (d : Dst) (imm : BitVec 32)
  | addi (t : Ty) (d : Dst) (a : Src) (imm : BitVec 16) (p : Option Pred)
  | lea (d : Dst) (a : Src) (b : Src) (sc : BitVec 3) (p : Option Pred)
  | fadd (d : Dst) (a : Src) (b : Src) (p : Option Pred)
  | fsub (d : Dst) (a : Src) (b : Src) (p : Option Pred)
  | fmul (d : Dst) (a : Src) (b : Src) (p : Option Pred)
  | fma (d : Dst) (a : Src) (b : Src) (c : Src) (p : Option Pred)
  | fmin (d : Dst) (a : Src) (b : Src) (p : Option Pred)
  | fmax (d : Dst) (a : Src) (b : Src) (p : Option Pred)
  | fabs (d : Dst) (a : Src) (p : Option Pred)
  | fneg (d : Dst) (a : Src) (p : Option Pred)
  | fcmpeq (d : Dst) (a : Src) (b : Src) (p : Option Pred)
  | fcmplt (d : Dst) (a : Src) (b : Src) (p : Option Pred)
  | fcmple (d : Dst) (a : Src) (b : Src) (p : Option Pred)
  | frsqs (d : Dst) (a : Src) (p : Option Pred)
  | frcps (d : Dst) (a : Src) (p : Option Pred)
  | cvti (t : Ty) (d : Dst) (a : Src) (p : Option Pred)
  | cvtn (t : Ty) (d : Dst) (a : Src) (p : Option Pred)
  | cvtt (t : Ty) (d : Dst) (a : Src) (p : Option Pred)
  | cvte (t : Ty) (d : Dst) (a : Src) (p : Option Pred)
  | cvtb (t : Ty) (d : Dst) (a : Src) (p : Option Pred)
  | cvtq (t : Ty) (d : Dst) (a : Src) (b : Src) (sat : Bool) (p : Option Pred)
  | tfx (d : Dst) (a : Src) (f : BitVec 3) (p : Option Pred)
  | tfi (d : Dst) (a : Src) (b : Src) (f : BitVec 3) (p : Option Pred)
  | br (off : BitVec 24)
  | beq (t : Ty) (off : BitVec 24) (a : Src) (b : Src)
  | bne (t : Ty) (off : BitVec 24) (a : Src) (b : Src)
  | blt (t : Ty) (off : BitVec 24) (a : Src) (b : Src)
  | bge (t : Ty) (off : BitVec 24) (a : Src) (b : Src)
  | ble (t : Ty) (off : BitVec 24) (a : Src) (b : Src)
  | bgt (t : Ty) (off : BitVec 24) (a : Src) (b : Src)
  | call (d : Dst) (off : BitVec 24)
  | ret (a : Src)
  | tret (a : Src) (sup : Bool)
  | ld (t : Ty) (d : Dst) (a : Src) (b : Src) (p : Option Pred)
  | st (t : Ty) (a : Src) (b : Src) (c : Src) (p : Option Pred)
  | ldc (t : Ty) (d : Fin 64) (a : Src) (c : Src) (k : Sck) (p : Option Pred)
  | stc (t : Ty) (a : Src) (b : Src) (c : Src) (k : Sck) (p : Option Pred)
  | cnull (c : Src) (k : Sck) (p : Option Pred)
  | crel (a : Src) (b : Src) (p : Option Pred)
  | ldp (t : Ty) (d : Dst) (a : Src) (b : Src) (p : Option Pred)
  | stp (t : Ty) (a : Src) (b : Src) (c : Src) (p : Option Pred)
  | aadd (t : Ty) (d : Fin 64) (a : Src) (b : Src) (p : Option Pred)
  | aand (t : Ty) (d : Fin 64) (a : Src) (b : Src) (p : Option Pred)
  | aor (t : Ty) (d : Fin 64) (a : Src) (b : Src) (p : Option Pred)
  | axor (t : Ty) (d : Fin 64) (a : Src) (b : Src) (p : Option Pred)
  | amin (t : Ty) (d : Fin 64) (a : Src) (b : Src) (p : Option Pred)
  | amax (t : Ty) (d : Fin 64) (a : Src) (b : Src) (p : Option Pred)
  | aswp (t : Ty) (d : Fin 64) (a : Src) (b : Src) (p : Option Pred)
  | acas (t : Ty) (d : Fin 64) (a : Src) (b : Src) (c : Src) (p : Option Pred)
  | pcatt (d : Fin 64) (a : Src) (p : Option Pred)
  | pcdet (d : Fin 64) (a : Src) (p : Option Pred)
  | pcevt (d : Fin 64) (a : Src) (p : Option Pred)
  | pcfree (d : Fin 64) (a : Src) (p : Option Pred)
  | pcpub (d : Fin 64) (a : Src) (p : Option Pred)
  | acq (t : Ty) (d : Dst) (a : Src) (sc : Scope) (p : Option Pred)
  | rel (t : Ty) (a : Src) (b : Src) (sc : Scope) (p : Option Pred)
  | fence (sc : Scope) (p : Option Pred)
  | pf (a : Src) (b : Src) (c : Src) (mst : BitVec 3) (q1 : Bool) (p : Option Pred)
  | inv (a : Src) (b : Src) (sc : Scope) (p : Option Pred)
  | eng (a : Src) (doff : BitVec 16) (p : Option Pred)
  | launchInstruction (d : Fin 64) (a : Src) (p : Option Pred)
  | snap (p : Option Pred)
  | rsr (d : Dst) (n : BitVec 16) (p : Option Pred)
  | wsr (a : Src) (n : BitVec 16) (p : Option Pred)
  | tact (fn : TactOp) (a : Src) (b : Src) (c : Src) (p : Option Pred)
  | cfgLoadComplete (r : Nat)
  | repeatCountToken (r : Nat) (node : Nat)
  | bootSequence
  | powerCycle
  | clampLimitsExceeded
  | clampNeither
  | clampExcessExpiry
  | clampClearExpiry
  | clampTrip
  | bellPinEdge
  | ethLinkChange
  | macOversizeDiscard
  | dataFrameRx
  | ackfRx
  | nakRx
  | cmdFrameRx
  | rrqRx
  | rwrRx
  | ratRx
  | rrsRx
  | collRx
  | flitReceive
  | retryRequest
  | mctpMessage
  | portcfgWrite
  | flraiseWrite
  | floorFuseBlown
  | registerWrite
  | extend
  | quoteRequest
  | quoteDone
  | publicKeyRead
  | accessEntryWrite
  | openSession
  | aret
  | tend
  | abort
  | halt
  | mailboxMessage
  deriving DecidableEq, Repr

end Sys2Proof
end

