-- ==== Sys2Proof/WellFormed.lean ====
section
/-! DEFINITION. When an instruction is well formed: a block instruction when its fields have an encoding under R326 to
R328, R354, R358, R360 and R386; an event when the places it names exist (R1, R14, R164). -/

namespace Sys2Proof

/-- The integer types, codes 0x00 to 0x07 (R325). -/
def Ty.isInt : Ty → Bool
  | .i8 | .i16 | .i32 | .i64 | .n8 | .n16 | .n32 | .n64 => true
  | _ => false

/-- The types of an atomic (R327): .i32, .i64, .n32, .n64. -/
def Ty.isAtomic : Ty → Bool
  | .i32 | .i64 | .n32 | .n64 => true
  | _ => false

/-- The eight-byte integer types, codes 0x03 and 0x07. -/
def Ty.isWide : Ty → Bool
  | .i64 | .n64 => true
  | _ => false

/-- The targets of cvti, cvtn and cvtb (R358). -/
def Ty.isFloat : Ty → Bool
  | .f32 | .bf16 => true
  | _ => false

/-- The integer registers rsr and wsr of a core of a region may name, and the Lodge's copies (R387). -/
def perRegionReg (n : Nat) : Bool :=
  n == 0x0130 || n == 0x0131 || n == 0x0150 || n == 0x0160 || (0x0170 ≤ n && n ≤ 0x0177) || n == 0x0180 || n == 0x0190

/-- The registers that stand once for the station or a die (R387). -/
def sharedReg (n : Nat) : Bool :=
  n == 0x0100 || n == 0x0101 || (0x0110 ≤ n && n ≤ 0x0113) || (0x0120 ≤ n && n ≤ 0x0122) || (0x0140 ≤ n && n ≤ 0x0143)

/-- A Lodge core's number for a region's copy: 0x8000 + r × 0x100 + the low byte (R387). -/
def lodgeCopyReg (n : Nat) : Bool :=
  0x8000 ≤ n && n < 0xC000 && perRegionReg (0x0100 + n % 0x100)

/-- The register numbers a core of kind k may name (R386, R387). -/
def sysRegOk (k : CoreKind) (n : Nat) : Bool :=
  match k with
  | .lodge => sharedReg n || lodgeCopyReg n
  | _ => sharedReg n || perRegionReg n

/-- The core names a block core. -/
def CoreId.wf : CoreId → Bool
  | .pergola r => r < 64
  | .kiosk r k => r < 64 && k < 9
  | .lodge c => c < 8

/-- Well-formedness. -/
def Instr.wf : Instr → Bool
  | .ackTimer _ => true
  | .sxtRetransmitTimeout _ => true
  | .remoteTimeout _ => true
  | .linkRetrain _ => true
  | .linkRetrainDone _ _ => true
  | .openRecordExpiry _ => true
  | .attest _ => true
  | .mapwin _ => true
  | .unmap _ => true
  | .bindChannel _ => true
  | .loadplan _ => true
  | .launch _ => true
  | .cancel _ => true
  | .readsnap _ => true
  | .readfault _ => true
  | .closeSession _ => true
  | .keepaliveTimeout _ => true
  | .gangGrant die q => (die < 4) && (q < 16)
  | .batPromote die q => (die < 4) && (q < 16)
  | .isoActivation _ => true
  | .budgetExpiry _ => true
  | .slackPreemptTimer _ => true
  | .preemptRequest _ => true
  | .streamClose r => r < 64
  | .belvedereQuiescence r => r < 64
  | .saveComplete _ => true
  | .drainTimeout _ => true
  | .regionEnd r => r < 64
  | .faultTrap r => r < 64
  | .wedgeTimeout r => r < 64
  | .taskLongTimeout r kiosk => (r < 64) && (kiosk < 9)
  | .fillStart _ => true
  | .fillLastByte _ => true
  | .countedReadDeliver _ => true
  | .tilePlainAccess _ => true
  | .freedSlotNotice _ => true
  | .writebackComplete _ _ => true
  | .windowRetire _ => true
  | .windowClosed _ => true
  | .bufferWrite r node => (r < 64) && (node < 128)
  | .bufferRead r j => (r < 64) && (j < 8)
  | .prefetchDone _ => true
  | .presenceWrite _ => true
  | .presenceRead _ => true
  | .presenceDeferralEnd _ => true
  | .releaseAtHome _ => true
  | .acquireAtHome _ => true
  | .lineRequest _ => true
  | .atomicAtHome _ => true
  | .chainArrival _ => true
  | .chainPerformed _ => true
  | .gapTimeout _ => true
  | .tlkTranslate r t => (r < 64) && (t < 8)
  | .walkComplete r _ => r < 64
  | .walkerRetry r _ => r < 64
  | .pglimTimeout r => r < 64
  | .kvRetry r t => (r < 64) && (t < 8)
  | .invalidationStart _ => true
  | .invalidationComplete _ => true
  | .tokenHop r site trk => (r < 64) && (site < 1024) && (trk < 8)
  | .elementFireOrdered r site => (r < 64) && (site < 1024)
  | .matchedStoreTake r site => (r < 64) && (site < 1024)
  | .matchedIssue r site => (r < 64) && (site < 1024)
  | .arcCompletion _ => true
  | .spawnCall r site => (r < 64) && (site < 1024)
  | .spawnReturn r site => (r < 64) && (site < 1024)
  | .commitRetire r site => (r < 64) && (site < 1024)
  | .mstOrderedRelease r site => (r < 64) && (site < 1024)
  | .rsvPair r site => (r < 64) && (site < 1024)
  | .rsvMark r site => (r < 64) && (site < 1024)
  | .xpsT2p r site => (r < 64) && (site < 1024)
  | .xpsP2t r site => (r < 64) && (site < 1024)
  | .belvedereStill r => r < 64
  | .swapPerform r => r < 64
  | .barrierArrive r => r < 64
  | .barrierComplete _ => true
  | .markEnqueue r => r < 64
  | .parseStep r => r < 64
  | .mismatchDiscard r => r < 64
  | .recoveryReset r => r < 64
  | .doneTerminal r => r < 64
  | .actionEntryArrive _ => true
  | .markSyncApply r site => (r < 64) && (site < 1024)
  | .settledRaise r => r < 64
  | .blockStart core => core.wf
  | .blockCommit core => core.wf
  | .afterCommitReply _ => true
  | .postCommitFault _ => true
  | .taskReadyStart r kiosk => (r < 64) && (kiosk < 9)
  | .meOpComplete r j => (r < 64) && (j < 8)
  | .routeDelivery r pt => (r < 64) && (pt < 32)
  | .rowDelivery r pt => (r < 64) && (pt < 32)
  | .lapStart _ => true
  | .trainAtEngine r j => (r < 64) && (j < 8)
  | .slotComplete r j => (r < 64) && (j < 8)
  | .lapComplete _ => true
  | .trellisRunEnter r => r < 64
  | .replayRemoval _ => true
  | .collDeadline die k => (die < 4) && (k < 16)
  | .collResult die k => (die < 4) && (k < 16)
  | .elementArith r site => (r < 64) && (site < 1024)
  | .elementFmaScl r site => (r < 64) && (site < 1024)
  | .elementCompareSelect r site => (r < 64) && (site < 1024)
  | .elementConvert r site => (r < 64) && (site < 1024)
  | .elementUnpk r site => (r < 64) && (site < 1024)
  | .elementPack r site => (r < 64) && (site < 1024)
  | .elementAccumulate r site => (r < 64) && (site < 1024)
  | .elementMrg r site => (r < 64) && (site < 1024)
  | .elementSteerGate r site => (r < 64) && (site < 1024)
  | .elementRpt r site => (r < 64) && (site < 1024)
  | .elementTag r site => (r < 64) && (site < 1024)
  | .elementMkgen r site => (r < 64) && (site < 1024)
  | .elementCfw r site => (r < 64) && (site < 1024)
  | .elementMrdMwr r site => (r < 64) && (site < 1024)
  | .elementMrdk r site => (r < 64) && (site < 1024)
  | .elementMrdcMwrc r site => (r < 64) && (site < 1024)
  | .elementMfen r site => (r < 64) && (site < 1024)
  | .memoryPortResponse r site => (r < 64) && (site < 1024)
  | .boxCp r pt => (r < 64) && (pt < 32)
  | .boxGath r pt => (r < 64) && (pt < 32)
  | .boxScat r pt => (r < 64) && (pt < 32)
  | .boxGl r pt => (r < 64) && (pt < 32)
  | .boxElementFault r pt => (r < 64) && (pt < 32)
  | .boxComplete r pt => (r < 64) && (pt < 32)
  | .winOpen _ => true
  | .winFill _ => true
  | .winClose _ => true
  | .meOp r j => (r < 64) && (j < 8)
  | .meRd r j => (r < 64) && (j < 8)
  | .taskArm r kiosk => (r < 64) && (kiosk < 9)
  | .crsRing r => r < 64
  | .crsRun r => r < 64
  | .trlCtx r => r < 64
  | .trlTab r => r < 64
  | .trlRun r => r < 64
  | .trnSet r u => (r < 64) && (u < 4)
  | .cfgLoad r => r < 64
  | .cfgSwap r => r < 64
  | .bar r => r < 64
  | .collSum die k => (die < 4) && (k < 16)
  | .collMax die k => (die < 4) && (k < 16)
  | .collGath die k => (die < 4) && (k < 16)
  | .collBcast die k => (die < 4) && (k < 16)
  | .collRsv die k => (die < 4) && (k < 16)
  | .add t _ _ _ _ => t.isInt
  | .sub t _ _ _ _ => t.isInt
  | .mul t _ _ _ _ => t.isInt
  | .mulh t _ _ _ _ => t.isInt
  | .div t _ _ _ _ => t.isInt
  | .rem t _ _ _ _ => t.isInt
  | .min t _ _ _ _ => t.isInt
  | .max t _ _ _ _ => t.isInt
  | .adds t _ _ _ _ => t.isInt
  | .subs t _ _ _ _ => t.isInt
  | .abs t _ _ _ => t.isInt
  | .neg t _ _ _ => t.isInt
  | .and t _ _ _ _ => t.isInt
  | .or t _ _ _ _ => t.isInt
  | .xor t _ _ _ _ => t.isInt
  | .notb t _ _ _ => t.isInt
  | .shl t _ _ _ _ => t.isInt
  | .shr t _ _ _ _ => t.isInt
  | .rotl t _ _ _ _ => t.isInt
  | .clz t _ _ _ => t.isInt
  | .popc t _ _ _ => t.isInt
  | .bext t _ _ _ _ _ => t.isInt
  | .bins t _ _ _ _ _ => t.isInt
  | .cmpeq t _ _ _ _ => t.isInt
  | .cmpne t _ _ _ _ => t.isInt
  | .cmplt t _ _ _ _ => t.isInt
  | .cmple t _ _ _ _ => t.isInt
  | .sel _ _ _ _ _ _ => true
  | .ldiI64 _ _ => true
  | .ldiN64 _ _ => true
  | .ldhiN64 _ _ => true
  | .addi t _ _ _ _ => t.isInt
  | .lea _ _ _ sc _ => sc != 7
  | .fadd _ _ _ _ => true
  | .fsub _ _ _ _ => true
  | .fmul _ _ _ _ => true
  | .fma _ _ _ _ _ => true
  | .fmin _ _ _ _ => true
  | .fmax _ _ _ _ => true
  | .fabs _ _ _ => true
  | .fneg _ _ _ => true
  | .fcmpeq _ _ _ _ => true
  | .fcmplt _ _ _ _ => true
  | .fcmple _ _ _ _ => true
  | .frsqs _ _ _ => true
  | .frcps _ _ _ => true
  | .cvti t _ _ _ => t.isFloat
  | .cvtn t _ _ _ => t.isFloat
  | .cvtt t _ _ _ => t.isAtomic
  | .cvte t _ _ _ => t.isAtomic
  | .cvtb t _ _ _ => t.isFloat
  | .cvtq t _ _ _ sat _ => t == .t8 || (t == .f32 && !sat)
  | .tfx _ _ _ _ => true
  | .tfi _ _ _ _ _ => true
  | .br _ => true
  | .beq t _ _ _ => t.isInt || t == .f32
  | .bne t _ _ _ => t.isInt || t == .f32
  | .blt t _ _ _ => t.isInt || t == .f32
  | .bge t _ _ _ => t.isInt || t == .f32
  | .ble t _ _ _ => t.isInt || t == .f32
  | .bgt t _ _ _ => t.isInt || t == .f32
  | .call _ _ => true
  | .ret _ => true
  | .tret _ _ => true
  | .ld _ _ _ _ _ => true
  | .st _ _ _ _ _ => true
  | .ldc _ _ _ _ _ _ => true
  | .stc _ _ _ _ _ _ => true
  | .cnull _ _ _ => true
  | .crel _ _ _ => true
  | .ldp t _ _ _ _ => t.isWide
  | .stp t _ _ _ _ => t.isWide
  | .aadd t _ _ _ _ => t.isAtomic
  | .aand t _ _ _ _ => t.isAtomic
  | .aor t _ _ _ _ => t.isAtomic
  | .axor t _ _ _ _ => t.isAtomic
  | .amin t _ _ _ _ => t.isAtomic
  | .amax t _ _ _ _ => t.isAtomic
  | .aswp t _ _ _ _ => t.isAtomic
  | .acas t _ _ _ _ _ => t.isAtomic
  | .pcatt _ _ _ => true
  | .pcdet _ _ _ => true
  | .pcevt _ _ _ => true
  | .pcfree _ _ _ => true
  | .pcpub _ _ _ => true
  | .acq t _ _ _ _ => t.isWide
  | .rel t _ _ _ _ => t.isWide
  | .fence _ _ => true
  | .pf _ _ _ mst _ _ => mst.toNat < 6
  | .inv _ _ sc _ => sc != .site && sc != .cl
  | .eng _ _ _ => true
  | .launchInstruction _ _ _ => true
  | .snap p => p.isNone
  | .rsr _ n _ => sysRegOk .lodge n.toNat || sysRegOk .pergola n.toNat
  | .wsr _ n _ => sysRegOk .lodge n.toNat || sysRegOk .pergola n.toNat
  | .tact fn _ _ c _ => fn == .setimm || c == .g 0
  | .cfgLoadComplete r => r < 64
  | .repeatCountToken r node => (r < 64) && (node < 128)
  | .bootSequence => true
  | .powerCycle => true
  | .clampLimitsExceeded => true
  | .clampNeither => true
  | .clampExcessExpiry => true
  | .clampClearExpiry => true
  | .clampTrip => true
  | .bellPinEdge => true
  | .ethLinkChange => true
  | .macOversizeDiscard => true
  | .dataFrameRx => true
  | .ackfRx => true
  | .nakRx => true
  | .cmdFrameRx => true
  | .rrqRx => true
  | .rwrRx => true
  | .ratRx => true
  | .rrsRx => true
  | .collRx => true
  | .flitReceive => true
  | .retryRequest => true
  | .mctpMessage => true
  | .portcfgWrite => true
  | .flraiseWrite => true
  | .floorFuseBlown => true
  | .registerWrite => true
  | .extend => true
  | .quoteRequest => true
  | .quoteDone => true
  | .publicKeyRead => true
  | .accessEntryWrite => true
  | .openSession => true
  | .aret => true
  | .tend => true
  | .abort => true
  | .halt => true
  | .mailboxMessage => true

end Sys2Proof
end

