-- ==== Sys2Proof/Decode.lean ====
section
/-! DEFINITION. Decoding of block instructions (R322 to R328, R341, R359, R366, R386), of block headers and liveness
records (R318 to R320), and the encoder, from the same tables. Every definition is total and rejects by name. -/

namespace Sys2Proof

/-- Why an instruction, header or record is refused at decode; each is the fault of the same name (R320, R324). -/
inductive Reject where
  | illop | priv | illspec | undecl | rsvd
  deriving DecidableEq, Repr

/-- The eight bytes of an instruction word in the positions of format G (R322). -/
structure Fields where
  op : Byte
  fn : Byte
  d : Byte
  a : Byte
  b : Byte
  c : Byte
  p : Byte
  x : Byte
  deriving DecidableEq, Repr

def fieldsOf (w : W64) : Fields :=
  { op := w.extractLsb' 56 8, fn := w.extractLsb' 48 8, d := w.extractLsb' 40 8, a := w.extractLsb' 32 8
    b := w.extractLsb' 24 8, c := w.extractLsb' 16 8, p := w.extractLsb' 8 8, x := w.extractLsb' 0 8 }

def Fields.word (f : Fields) : W64 :=
  f.op ++ (f.fn ++ (f.d ++ (f.a ++ (f.b ++ (f.c ++ (f.p ++ f.x))))))

/-- The 16-bit immediate of format I and the DOFF of format E: bits 31:16. -/
def Fields.imm16 (f : Fields) : BitVec 16 := f.b ++ f.c
/-- The 32-bit immediate of format L: bits 47:16. -/
def Fields.imm32 (f : Fields) : BitVec 32 := f.d ++ (f.a ++ (f.b ++ f.c))
/-- The target offset of format J: bits 47:24. -/
def Fields.off24 (f : Fields) : BitVec 24 := f.d ++ (f.a ++ f.b)

/-- The formats (R322). -/
inductive Fmt where
  | G | I | L | J | M | E
  deriving DecidableEq, Repr

/-- Branch class, store class, neither (R326). -/
inductive OpClass where
  | none | branch | store
  deriving DecidableEq, Repr

/-- A row of the opcode map (R326): the format, the operand fields used, whether a P byte may be enabled, the bits of X
the row names, the class and the core kinds. -/
structure OpRow where
  fmt : Fmt
  d : Bool := false
  a : Bool := false
  b : Bool := false
  c : Bool := false
  p : Bool := true
  x : Byte := 0
  cls : OpClass := .none
  onP : Bool := true
  onK : Bool := true
  onL : Bool := true
  deriving DecidableEq, Repr

/-- Type codes (R325). -/
def Ty.code : Ty → Byte
  | .i8 => 0 | .i16 => 1 | .i32 => 2 | .i64 => 3 | .n8 => 4 | .n16 => 5 | .n32 => 6 | .n64 => 7
  | .f32 => 8 | .bf16 => 9 | .t8 => 10

def tyOfCode (v : Byte) : Option Ty :=
  match v.toNat with
  | 0 => some .i8 | 1 => some .i16 | 2 => some .i32 | 3 => some .i64 | 4 => some .n8 | 5 => some .n16
  | 6 => some .n32 | 7 => some .n64 | 8 => some .f32 | 9 => some .bf16 | 10 => some .t8
  | _ => none

def scopeCode : Scope → Byte
  | .site => 0 | .cl => 1 | .rg => 2 | .gang => 3 | .die => 4 | .stn => 5

def scopeOfCode (v : Nat) : Option Scope :=
  match v with
  | 0 => some .site | 1 => some .cl | 2 => some .rg | 3 => some .gang | 4 => some .die | 5 => some .stn
  | _ => none

def sckCode : Sck → Byte
  | .next => 0 | .zero => 8 | .ones => 16

def sckOfX (x : Byte) : Option Sck :=
  match nbits x.toNat 4 3 with
  | 0 => some .next | 1 => some .zero | 2 => some .ones
  | _ => none

def specOfCode (v : Nat) : Spec :=
  match v with
  | 0 => .zero | 1 => .baddr | 2 => .ttl | 3 => .tth | 4 => .mord | 5 => .drc | 6 => .rid | _ => .time

def specCode : Spec → Byte
  | .zero => 0x58 | .baddr => 0x59 | .ttl => 0x5A | .tth => 0x5B
  | .mord => 0x5C | .drc => 0x5D | .rid => 0x5E | .time => 0x5F

/-- A source specifier (R323); `none` is F_ILLSPEC. -/
def srcOfByte (v : Byte) : Option Src :=
  if v.toNat < 0x40 then some (.g (Fin.ofNat 64 v.toNat))
  else if v.toNat < 0x50 then some (.o (Fin.ofNat 16 (v.toNat - 0x40)))
  else if v.toNat < 0x58 then some (.l (Fin.ofNat 8 (v.toNat - 0x50)))
  else if v.toNat < 0x60 then some (.spec (specOfCode (v.toNat - 0x58)))
  else if v.toNat < 0x80 then none
  else some (.imm (BitVec.ofNat 7 v.toNat))

def srcByte : Src → Byte
  | .g n => BitVec.ofNat 8 n.val
  | .o n => BitVec.ofNat 8 (0x40 + n.val)
  | .l k => BitVec.ofNat 8 (0x50 + k.val)
  | .spec x => specCode x
  | .imm v => BitVec.ofNat 8 (0x80 + v.toNat)

/-- A destination specifier (R323); `none` is F_ILLSPEC. -/
def dstOfByte (v : Byte) : Option Dst :=
  if v.toNat < 0x40 then some (.g (Fin.ofNat 64 v.toNat))
  else if v.toNat < 0x50 then some (.o (Fin.ofNat 16 (v.toNat - 0x40)))
  else none

def dstByte : Dst → Byte
  | .g n => BitVec.ofNat 8 n.val
  | .o n => BitVec.ofNat 8 (0x40 + n.val)

/-- The selector of a predicate byte (R324); `none` is F_ILLSPEC. -/
def pselOfByte (v : Byte) : Option PSel :=
  if nbits v.toNat 5 0 < 0x10 then some (.o (Fin.ofNat 16 (nbits v.toNat 5 0)))
  else if nbits v.toNat 5 0 < 0x18 then some (.l (Fin.ofNat 8 (nbits v.toNat 5 0 - 0x10)))
  else none

/-- The P byte (R324), once it has passed the checks. -/
def predOfByte (v : Byte) : Option Pred :=
  if nbit v.toNat 7 then (pselOfByte v).map (fun s => { sense := nbit v.toNat 6, sel := s })
  else none

def predByte : Option Pred → Byte
  | none => 0
  | some p =>
    BitVec.ofNat 8 (0x80 + (if p.sense then 0x40 else 0) +
      (match p.sel with
       | .o n => n.val
       | .l k => 0x10 + k.val))

/-- The row of an opcode and its FN (R326, R327); `none` is F_ILLOP. -/
def opRow (op fn : Nat) : Option OpRow :=
  let int : Bool := fn ≤ 7
  let any : Bool := fn ≤ 10
  let zero : Bool := fn == 0
  let wide : Bool := fn == 3 || fn == 7
  let r3 : OpRow := { fmt := .G, d := true, a := true, b := true }
  let r2 : OpRow := { fmt := .G, d := true, a := true }
  let r4 : OpRow := { fmt := .G, d := true, a := true, b := true, c := true }
  let on (b : Bool) (r : OpRow) : Option OpRow := if b then some r else none
  if op == 0 then none
  else if op ≤ 0x0A then on int r3
  else if op ≤ 0x0C then on int r2
  else if op < 0x10 then none
  else if op ≤ 0x12 then on int r3
  else if op == 0x13 then on int r2
  else if op ≤ 0x16 then on int r3
  else if op ≤ 0x18 then on int r2
  else if op ≤ 0x1A then on int r4
  else if op < 0x20 then none
  else if op ≤ 0x23 then on int r3
  else if op == 0x24 then on any r4
  else if op < 0x28 then none
  else if op ≤ 0x2A then some { fmt := .L, d := true, p := false }
  else if op == 0x2B then on int { fmt := .I, d := true, a := true }
  else if op == 0x2C then on (fn == 7) { r3 with x := 7 }
  else if op < 0x30 then none
  else if op ≤ 0x32 then on (fn == 8) r3
  else if op == 0x33 then on (fn == 8) r4
  else if op ≤ 0x35 then on (fn == 8) r3
  else if op ≤ 0x37 then on (fn == 8) r2
  else if op ≤ 0x3A then on (fn == 8) r3
  else if op ≤ 0x3C then on (fn == 8) r2
  else if op < 0x40 then none
  else if op ≤ 0x41 then on (fn == 8 || fn == 9) r2
  else if op ≤ 0x43 then on (fn == 2 || fn == 3 || fn == 6 || fn == 7) r2
  else if op == 0x44 then on (fn == 8 || fn == 9) r2
  else if op == 0x45 then on (fn == 8 || fn == 10) { r3 with x := 1 }
  else if op < 0x48 then none
  else if op == 0x48 then on (fn == 7) { r2 with x := 7 }
  else if op == 0x49 then on (fn == 7) { r3 with x := 7 }
  else if op < 0x50 then none
  else if op == 0x50 then some { fmt := .J, p := false, cls := .branch }
  else if op == 0x51 then some { fmt := .J, a := true, b := true, c := true, p := false, cls := .branch }
  else if op == 0x52 then some { fmt := .J, d := true, p := false, cls := .branch }
  else if op == 0x53 then on zero { fmt := .G, a := true, p := false, cls := .branch }
  else if op == 0x54 then on zero { fmt := .G, p := false, cls := .branch, onK := false, onL := false }
  else if op == 0x55 then on zero { fmt := .G, p := false, cls := .branch, onP := false, onL := false }
  else if op == 0x56 then on zero { fmt := .G, a := true, p := false, x := 1, cls := .branch, onK := false }
  else if op == 0x57 then on zero { fmt := .G, p := false, cls := .branch }
  else if op == 0x58 then on zero { fmt := .G, p := false, cls := .branch }
  else if op < 0x60 then none
  else if op == 0x60 then on any { r3 with fmt := .M }
  else if op == 0x61 then on any { fmt := .M, a := true, b := true, c := true, cls := .store }
  else if op == 0x62 then on any { fmt := .M, d := true, a := true, c := true, x := 0x18 }
  else if op == 0x63 then on any { fmt := .M, a := true, b := true, c := true, x := 0x18, cls := .store }
  else if op == 0x64 then on zero { fmt := .M, c := true, x := 0x18, cls := .store }
  else if op == 0x65 then on zero { fmt := .M, a := true, b := true, cls := .store }
  else if op == 0x66 then on wide { r3 with fmt := .M }
  else if op == 0x67 then on wide { fmt := .M, a := true, b := true, c := true, cls := .store }
  else if op == 0x68 then
    let ty := fn / 16
    let f := fn % 16
    if f ≤ 6 then on (ty == 2 || ty == 3 || ty == 6 || ty == 7) { r3 with fmt := .M, cls := .store }
    else if f == 7 then on (ty == 2 || ty == 3 || ty == 6 || ty == 7) { r4 with fmt := .M, cls := .store }
    else if f ≤ 12 then on (ty == 7) { r2 with fmt := .M, cls := .store }
    else none
  else if op == 0x69 then on wide { fmt := .M, d := true, a := true, x := 7 }
  else if op == 0x6A then on wide { fmt := .M, a := true, b := true, x := 7, cls := .store }
  else if op == 0x6B then on zero { fmt := .M, x := 7 }
  else if op == 0x6C then on zero { fmt := .M, a := true, b := true, c := true, x := 0x0F }
  else if op == 0x6D then on zero { fmt := .M, a := true, b := true, x := 7 }
  else if op < 0x70 then none
  else if op == 0x70 then on zero { fmt := .E, a := true }
  else if op == 0x71 then on zero { fmt := .G, d := true, a := true, onL := false }
  else if op == 0x72 then on zero { fmt := .G, p := false }
  else if op == 0x73 then none
  else if op == 0x74 then on zero { fmt := .I, d := true, a := false }
  else if op == 0x75 then on zero { fmt := .I, a := true }
  else if op == 0x7A then on (fn ≤ 2) { fmt := .G, a := true, b := true, c := fn == 2, onK := false, onL := false }
  else none

/-- The operations whose result arrives after the commit (R366): ldc, the atomics, launch. -/
def lateOp (op : Nat) : Bool := op == 0x62 || op == 0x68 || op == 0x71

/-- What the l-slot of an earlier instruction of the block may give (R341, R366). -/
inductive LSlot where
  | value | none | late
  deriving DecidableEq, Repr

/-- Where an instruction stands when it is decoded: the core's kind, its index, the block's MASK, the l-slots of the
instructions before it (the nearest first) and the tag fields the plan declares, as a mask (R171). -/
structure DecCtx where
  kind : CoreKind
  idx : Nat
  mask : W64
  slots : List LSlot
  tagFields : Nat
  deriving DecidableEq, Repr

def lslotOf (f : Fields) : LSlot :=
  match opRow f.op.toNat f.fn.toNat with
  | some r => if lateOp f.op.toNat then .late else if r.d then .value else .none
  | none => if f.op.toNat == 0x52 then .value else .none

/-- The row of a word. Formats J and L have no FN: the byte at 55:48 is D there. -/
def rowOf (f : Fields) : Option OpRow := opRow f.op.toNat f.fn.toNat

/-- Step 1 of R324: OP, FN, core kind; the conditions and types of a conditional branch (R322, R360). -/
def illop (k : CoreKind) (f : Fields) (r : OpRow) : Bool :=
  (match k with
   | .pergola => !r.onP
   | .kiosk => !r.onK
   | .lodge => !r.onL) ||
  (f.op.toNat == 0x51 && (nbits f.c.toNat 3 0 > 5 || nbits f.c.toNat 7 4 > 8))

/-- Step 2 of R324: halt, and the Lodge's register numbers, elsewhere than on a Lodge core (R326, R386). -/
def privOp (k : CoreKind) (f : Fields) : Bool :=
  k != .lodge && (f.op.toNat == 0x58 ||
    ((f.op.toNat == 0x74 || f.op.toNat == 0x75) && 0x8000 ≤ f.imm16.toNat && f.imm16.toNat < 0xC000))

/-- An l-slot read by instruction idx (R341, R366). -/
def lOk (c : DecCtx) (k : Fin 8) : Bool :=
  k.val < c.idx && (match c.slots[k.val]? with
    | some .value => true
    | _ => false)

/-- A source byte at step 3. -/
def srcBad (c : DecCtx) (v : Byte) : Bool :=
  match srcOfByte v with
  | none => true
  | some (.l k) => !lOk c k
  | some _ => false

/-- A predicate byte at step 3. -/
def predBad (c : DecCtx) (v : Byte) : Bool :=
  nbit v.toNat 7 && (match pselOfByte v with
    | none => true
    | some (.l k) => !lOk c k
    | some (.o _) => false)

/-- The byte that holds D: bits 55:48 in formats L and J, 47:40 elsewhere (R322). -/
def dByte (f : Fields) (r : OpRow) : Byte :=
  if r.fmt == .L || r.fmt == .J then f.fn else f.d

/-- The bytes that hold A and B: bits 15:8 and 7:0 in format J. -/
def aByte (f : Fields) (r : OpRow) : Byte := if r.fmt == .J then f.p else f.a
def bByte (f : Fields) (r : OpRow) : Byte := if r.fmt == .J then f.x else f.b

/-- Step 3 of R324 for D: F_ILLSPEC, or F_UNDECL for a g-register whose MASK bit is clear (R323, R366). -/
def dstBad (c : DecCtx) (f : Fields) (r : OpRow) : Option Reject :=
  if !r.d then none
  else match dstOfByte (dByte f r) with
    | none => some .illspec
    | some (.o _) => if lateOp f.op.toNat then some .illspec else none
    | some (.g n) => if c.mask.getLsbD n.val then none else some .undecl

/-- Step 3 of R324 for the sources and the predicate. -/
def srcsBad (c : DecCtx) (f : Fields) (r : OpRow) : Bool :=
  (r.a && srcBad c (aByte f r)) || (r.b && srcBad c (bByte f r)) ||
  (r.c && r.fmt != .J && srcBad c f.c) ||
  (r.p && predBad c f.p)

/-- What a row's own rule refuses in X, IMM or C at step 4 of R324. -/
def xBad (c : DecCtx) (f : Fields) : Bool :=
  match f.op.toNat with
  | 0x2C => f.x.toNat == 7
  | 0x45 => f.fn.toNat == 8 && f.x.toNat != 0
  | 0x48 | 0x49 => !nbit c.tagFields f.x.toNat
  | 0x62 | 0x63 | 0x64 => nbits f.x.toNat 4 3 == 3
  | 0x69 | 0x6A | 0x6B => 5 < f.x.toNat
  | 0x6C => if c.kind == .lodge then f.x.toNat != 0 else 5 < nbits f.x.toNat 2 0
  | 0x6D => if c.kind == .lodge then f.x.toNat != 5 else (f.x.toNat < 2 || 5 < f.x.toNat)
  | 0x74 | 0x75 => !sysRegOk c.kind f.imm16.toNat
  | _ => false

/-- Step 4 of R324: fields that are not used, and reserved bits. -/
def rsvdBad (c : DecCtx) (f : Fields) (r : OpRow) : Bool :=
  (match r.fmt with
   | .G | .M =>
     (!r.d && f.d != 0) || (!r.a && f.a != 0) || (!r.b && f.b != 0) || (!r.c && f.c != 0) || f.x &&& ~~~r.x != 0
   | .I | .E => (!r.d && f.d != 0) || (!r.a && f.a != 0) || f.x != 0
   | .L => f.p != 0 || f.x != 0
   | .J => (!r.d && f.fn != 0) || (!r.a && f.p != 0) || (!r.b && f.x != 0) || (!r.c && f.c != 0)) ||
  (r.fmt != .L && r.fmt != .J &&
    (if r.p then !nbit f.p.toNat 7 && f.p != 0 else f.p != 0)) ||
  xBad c f

/-- Assemble the instruction of fields that passed the checks. -/
def build (f : Fields) : Option Instr := do
  let p := predOfByte f.p
  let off := f.off24
  match f.op.toNat with
  | 0x01 => return .add (← tyOfCode f.fn) (← dstOfByte f.d) (← srcOfByte f.a) (← srcOfByte f.b) p
  | 0x02 => return .sub (← tyOfCode f.fn) (← dstOfByte f.d) (← srcOfByte f.a) (← srcOfByte f.b) p
  | 0x03 => return .mul (← tyOfCode f.fn) (← dstOfByte f.d) (← srcOfByte f.a) (← srcOfByte f.b) p
  | 0x04 => return .mulh (← tyOfCode f.fn) (← dstOfByte f.d) (← srcOfByte f.a) (← srcOfByte f.b) p
  | 0x05 => return .div (← tyOfCode f.fn) (← dstOfByte f.d) (← srcOfByte f.a) (← srcOfByte f.b) p
  | 0x06 => return .rem (← tyOfCode f.fn) (← dstOfByte f.d) (← srcOfByte f.a) (← srcOfByte f.b) p
  | 0x07 => return .min (← tyOfCode f.fn) (← dstOfByte f.d) (← srcOfByte f.a) (← srcOfByte f.b) p
  | 0x08 => return .max (← tyOfCode f.fn) (← dstOfByte f.d) (← srcOfByte f.a) (← srcOfByte f.b) p
  | 0x09 => return .adds (← tyOfCode f.fn) (← dstOfByte f.d) (← srcOfByte f.a) (← srcOfByte f.b) p
  | 0x0A => return .subs (← tyOfCode f.fn) (← dstOfByte f.d) (← srcOfByte f.a) (← srcOfByte f.b) p
  | 0x0B => return .abs (← tyOfCode f.fn) (← dstOfByte f.d) (← srcOfByte f.a) p
  | 0x0C => return .neg (← tyOfCode f.fn) (← dstOfByte f.d) (← srcOfByte f.a) p
  | 0x10 => return .and (← tyOfCode f.fn) (← dstOfByte f.d) (← srcOfByte f.a) (← srcOfByte f.b) p
  | 0x11 => return .or (← tyOfCode f.fn) (← dstOfByte f.d) (← srcOfByte f.a) (← srcOfByte f.b) p
  | 0x12 => return .xor (← tyOfCode f.fn) (← dstOfByte f.d) (← srcOfByte f.a) (← srcOfByte f.b) p
  | 0x13 => return .notb (← tyOfCode f.fn) (← dstOfByte f.d) (← srcOfByte f.a) p
  | 0x14 => return .shl (← tyOfCode f.fn) (← dstOfByte f.d) (← srcOfByte f.a) (← srcOfByte f.b) p
  | 0x15 => return .shr (← tyOfCode f.fn) (← dstOfByte f.d) (← srcOfByte f.a) (← srcOfByte f.b) p
  | 0x16 => return .rotl (← tyOfCode f.fn) (← dstOfByte f.d) (← srcOfByte f.a) (← srcOfByte f.b) p
  | 0x17 => return .clz (← tyOfCode f.fn) (← dstOfByte f.d) (← srcOfByte f.a) p
  | 0x18 => return .popc (← tyOfCode f.fn) (← dstOfByte f.d) (← srcOfByte f.a) p
  | 0x19 => return .bext (← tyOfCode f.fn) (← dstOfByte f.d) (← srcOfByte f.a) (← srcOfByte f.b) (← srcOfByte f.c) p
  | 0x1A => return .bins (← tyOfCode f.fn) (← dstOfByte f.d) (← srcOfByte f.a) (← srcOfByte f.b) (← srcOfByte f.c) p
  | 0x20 => return .cmpeq (← tyOfCode f.fn) (← dstOfByte f.d) (← srcOfByte f.a) (← srcOfByte f.b) p
  | 0x21 => return .cmpne (← tyOfCode f.fn) (← dstOfByte f.d) (← srcOfByte f.a) (← srcOfByte f.b) p
  | 0x22 => return .cmplt (← tyOfCode f.fn) (← dstOfByte f.d) (← srcOfByte f.a) (← srcOfByte f.b) p
  | 0x23 => return .cmple (← tyOfCode f.fn) (← dstOfByte f.d) (← srcOfByte f.a) (← srcOfByte f.b) p
  | 0x24 => return .sel (← tyOfCode f.fn) (← dstOfByte f.d) (← srcOfByte f.a) (← srcOfByte f.b) (← srcOfByte f.c) p
  | 0x28 => return .ldiI64 (← dstOfByte f.fn) f.imm32
  | 0x29 => return .ldiN64 (← dstOfByte f.fn) f.imm32
  | 0x2A => return .ldhiN64 (← dstOfByte f.fn) f.imm32
  | 0x2B => return .addi (← tyOfCode f.fn) (← dstOfByte f.d) (← srcOfByte f.a) f.imm16 p
  | 0x2C => return .lea (← dstOfByte f.d) (← srcOfByte f.a) (← srcOfByte f.b) (f.x.extractLsb' 0 3) p
  | 0x30 => return .fadd (← dstOfByte f.d) (← srcOfByte f.a) (← srcOfByte f.b) p
  | 0x31 => return .fsub (← dstOfByte f.d) (← srcOfByte f.a) (← srcOfByte f.b) p
  | 0x32 => return .fmul (← dstOfByte f.d) (← srcOfByte f.a) (← srcOfByte f.b) p
  | 0x33 => return .fma (← dstOfByte f.d) (← srcOfByte f.a) (← srcOfByte f.b) (← srcOfByte f.c) p
  | 0x34 => return .fmin (← dstOfByte f.d) (← srcOfByte f.a) (← srcOfByte f.b) p
  | 0x35 => return .fmax (← dstOfByte f.d) (← srcOfByte f.a) (← srcOfByte f.b) p
  | 0x36 => return .fabs (← dstOfByte f.d) (← srcOfByte f.a) p
  | 0x37 => return .fneg (← dstOfByte f.d) (← srcOfByte f.a) p
  | 0x38 => return .fcmpeq (← dstOfByte f.d) (← srcOfByte f.a) (← srcOfByte f.b) p
  | 0x39 => return .fcmplt (← dstOfByte f.d) (← srcOfByte f.a) (← srcOfByte f.b) p
  | 0x3A => return .fcmple (← dstOfByte f.d) (← srcOfByte f.a) (← srcOfByte f.b) p
  | 0x3B => return .frsqs (← dstOfByte f.d) (← srcOfByte f.a) p
  | 0x3C => return .frcps (← dstOfByte f.d) (← srcOfByte f.a) p
  | 0x40 => return .cvti (← tyOfCode f.fn) (← dstOfByte f.d) (← srcOfByte f.a) p
  | 0x41 => return .cvtn (← tyOfCode f.fn) (← dstOfByte f.d) (← srcOfByte f.a) p
  | 0x42 => return .cvtt (← tyOfCode f.fn) (← dstOfByte f.d) (← srcOfByte f.a) p
  | 0x43 => return .cvte (← tyOfCode f.fn) (← dstOfByte f.d) (← srcOfByte f.a) p
  | 0x44 => return .cvtb (← tyOfCode f.fn) (← dstOfByte f.d) (← srcOfByte f.a) p
  | 0x45 => return .cvtq (← tyOfCode f.fn) (← dstOfByte f.d) (← srcOfByte f.a) (← srcOfByte f.b) (f.x.getLsbD 0) p
  | 0x48 => return .tfx (← dstOfByte f.d) (← srcOfByte f.a) (f.x.extractLsb' 0 3) p
  | 0x49 => return .tfi (← dstOfByte f.d) (← srcOfByte f.a) (← srcOfByte f.b) (f.x.extractLsb' 0 3) p
  | 0x50 => return .br off
  | 0x51 =>
    let t ← tyOfCode (BitVec.ofNat 8 (nbits f.c.toNat 7 4))
    let a ← srcOfByte f.p
    let b ← srcOfByte f.x
    match nbits f.c.toNat 3 0 with
    | 0 => return .beq t off a b
    | 1 => return .bne t off a b
    | 2 => return .blt t off a b
    | 3 => return .bge t off a b
    | 4 => return .ble t off a b
    | 5 => return .bgt t off a b
    | _ => none
  | 0x52 => return .call (← dstOfByte f.fn) off
  | 0x53 => return .ret (← srcOfByte f.a)
  | 0x54 => return .aret
  | 0x55 => return .tend
  | 0x56 => return .tret (← srcOfByte f.a) (f.x.getLsbD 0)
  | 0x57 => return .abort
  | 0x58 => return .halt
  | 0x60 => return .ld (← tyOfCode f.fn) (← dstOfByte f.d) (← srcOfByte f.a) (← srcOfByte f.b) p
  | 0x61 => return .st (← tyOfCode f.fn) (← srcOfByte f.a) (← srcOfByte f.b) (← srcOfByte f.c) p
  | 0x62 =>
    match dstOfByte f.d with
    | some (.g n) => return .ldc (← tyOfCode f.fn) n (← srcOfByte f.a) (← srcOfByte f.c) (← sckOfX f.x) p
    | _ => none
  | 0x63 => return .stc (← tyOfCode f.fn) (← srcOfByte f.a) (← srcOfByte f.b) (← srcOfByte f.c) (← sckOfX f.x) p
  | 0x64 => return .cnull (← srcOfByte f.c) (← sckOfX f.x) p
  | 0x65 => return .crel (← srcOfByte f.a) (← srcOfByte f.b) p
  | 0x66 => return .ldp (← tyOfCode f.fn) (← dstOfByte f.d) (← srcOfByte f.a) (← srcOfByte f.b) p
  | 0x67 => return .stp (← tyOfCode f.fn) (← srcOfByte f.a) (← srcOfByte f.b) (← srcOfByte f.c) p
  | 0x68 =>
    match dstOfByte f.d with
    | some (.g n) =>
      let t ← tyOfCode (BitVec.ofNat 8 (nbits f.fn.toNat 7 4))
      let a ← srcOfByte f.a
      match nbits f.fn.toNat 3 0 with
      | 0 => return .aadd t n a (← srcOfByte f.b) p
      | 1 => return .aand t n a (← srcOfByte f.b) p
      | 2 => return .aor t n a (← srcOfByte f.b) p
      | 3 => return .axor t n a (← srcOfByte f.b) p
      | 4 => return .amin t n a (← srcOfByte f.b) p
      | 5 => return .amax t n a (← srcOfByte f.b) p
      | 6 => return .aswp t n a (← srcOfByte f.b) p
      | 7 => return .acas t n a (← srcOfByte f.b) (← srcOfByte f.c) p
      | 8 => return .pcatt n a p
      | 9 => return .pcdet n a p
      | 10 => return .pcevt n a p
      | 11 => return .pcfree n a p
      | 12 => return .pcpub n a p
      | _ => none
    | _ => none
  | 0x69 => return .acq (← tyOfCode f.fn) (← dstOfByte f.d) (← srcOfByte f.a) (← scopeOfCode f.x.toNat) p
  | 0x6A => return .rel (← tyOfCode f.fn) (← srcOfByte f.a) (← srcOfByte f.b) (← scopeOfCode f.x.toNat) p
  | 0x6B => return .fence (← scopeOfCode f.x.toNat) p
  | 0x6C =>
    return .pf (← srcOfByte f.a) (← srcOfByte f.b) (← srcOfByte f.c) (f.x.extractLsb' 0 3) (f.x.getLsbD 3) p
  | 0x6D => return .inv (← srcOfByte f.a) (← srcOfByte f.b) (← scopeOfCode f.x.toNat) p
  | 0x70 => return .eng (← srcOfByte f.a) f.imm16 p
  | 0x71 =>
    match dstOfByte f.d with
    | some (.g n) => return .launchInstruction n (← srcOfByte f.a) p
    | _ => none
  | 0x72 => return .snap p
  | 0x74 => return .rsr (← dstOfByte f.d) f.imm16 p
  | 0x75 => return .wsr (← srcOfByte f.a) f.imm16 p
  | 0x7A =>
    match f.fn.toNat with
    | 0 => return .tact .reset (← srcOfByte f.a) (← srcOfByte f.b) (← srcOfByte f.c) p
    | 1 => return .tact .emit (← srcOfByte f.a) (← srcOfByte f.b) (← srcOfByte f.c) p
    | 2 => return .tact .setimm (← srcOfByte f.a) (← srcOfByte f.b) (← srcOfByte f.c) p
    | _ => none
  | _ => none

/-- Decode one instruction, with the checks of R324 in their order. -/
def decodeFields (c : DecCtx) (f : Fields) : Except Reject Instr :=
  match rowOf f with
  | none => .error .illop
  | some r =>
    if illop c.kind f r then .error .illop
    else if privOp c.kind f then .error .priv
    else match dstBad c f r with
      | some e => .error e
      | none =>
        if srcsBad c f r then .error .illspec
        else if rsvdBad c f r then .error .rsvd
        else match build f with
          | some i => .ok i
          | none => .error .illop

def decodeAt (c : DecCtx) (w : W64) : Except Reject Instr := decodeFields c (fieldsOf w)

/-- A place that refuses nothing for where it stands: index 8, every l-slot a value, every g-register declared, every tag
field declared. -/
def openCtx (k : CoreKind) : DecCtx :=
  { kind := k, idx := 8, mask := BitVec.allOnes 64, slots := List.replicate 8 .value, tagFields := 255 }

/-- The kind of core on which a word alone is decoded: a kiosk for tend, a Lodge core for halt and for the Lodge's
register numbers, the Pergola otherwise. -/
def wordKind (w : W64) : CoreKind :=
  let f := fieldsOf w
  if f.op.toNat == 0x55 then .kiosk
  else if f.op.toNat == 0x58 then .lodge
  else if (f.op.toNat == 0x74 || f.op.toNat == 0x75) && 0x8000 ≤ f.imm16.toNat then .lodge
  else .pergola

/-- The instruction of one word, wherever it may stand. -/
def decodeWord (w : W64) : Option Instr :=
  match decodeAt (openCtx (wordKind w)) w with
  | .ok i => some i
  | .error _ => none

/-- The decoder on the opcode table's numbering: the instruction whose low nbits bits are w, the bits above zero. A block
instruction is one 64-bit little-endian word (R4, R322); a row of the table that is no block instruction has no word. -/
def decodeTableWord (nbits w : Nat) : Option Instr :=
  if nbits ≤ 64 then decodeWord (BitVec.ofNat 64 (w % 2 ^ nbits)) else decodeWord (BitVec.ofNat 64 w)

/- The encoder. -/

/-- A word in the positions of formats G and M. -/
def encG (op fn d a b c : Byte) (p : Option Pred) (x : Byte) : Option Fields :=
  some { op := op, fn := fn, d := d, a := a, b := b, c := c, p := predByte p, x := x }

/-- A word of format I or E. -/
def encI (op fn d a : Byte) (imm : BitVec 16) (p : Option Pred) : Option Fields :=
  some { op := op, fn := fn, d := d, a := a, b := imm.extractLsb' 8 8, c := imm.extractLsb' 0 8, p := predByte p, x := 0 }

/-- A word of format L. -/
def encL (op d : Byte) (imm : BitVec 32) : Option Fields :=
  some { op := op, fn := d, d := imm.extractLsb' 24 8, a := imm.extractLsb' 16 8, b := imm.extractLsb' 8 8
         c := imm.extractLsb' 0 8, p := 0, x := 0 }

/-- A word of format J. -/
def encJ (op d : Byte) (off : BitVec 24) (cnd a b : Byte) : Option Fields :=
  some { op := op, fn := d, d := off.extractLsb' 16 8, a := off.extractLsb' 8 8, b := off.extractLsb' 0 8
         c := cnd, p := a, x := b }

/-- CND of a conditional branch. -/
def cndByte (t : Ty) (c : Nat) : Byte := BitVec.ofNat 8 (t.code.toNat * 16 + c)

/-- FN of an atomic (R327). -/
def atomFn (t : Ty) (f : Nat) : Byte := BitVec.ofNat 8 (t.code.toNat * 16 + f)

/-- The fields of an instruction; `none` for a row that is no block instruction. -/
def encFields : Instr → Option Fields
  | .add t d a b p => encG 0x01 t.code (dstByte d) (srcByte a) (srcByte b) 0 p 0
  | .sub t d a b p => encG 0x02 t.code (dstByte d) (srcByte a) (srcByte b) 0 p 0
  | .mul t d a b p => encG 0x03 t.code (dstByte d) (srcByte a) (srcByte b) 0 p 0
  | .mulh t d a b p => encG 0x04 t.code (dstByte d) (srcByte a) (srcByte b) 0 p 0
  | .div t d a b p => encG 0x05 t.code (dstByte d) (srcByte a) (srcByte b) 0 p 0
  | .rem t d a b p => encG 0x06 t.code (dstByte d) (srcByte a) (srcByte b) 0 p 0
  | .min t d a b p => encG 0x07 t.code (dstByte d) (srcByte a) (srcByte b) 0 p 0
  | .max t d a b p => encG 0x08 t.code (dstByte d) (srcByte a) (srcByte b) 0 p 0
  | .adds t d a b p => encG 0x09 t.code (dstByte d) (srcByte a) (srcByte b) 0 p 0
  | .subs t d a b p => encG 0x0A t.code (dstByte d) (srcByte a) (srcByte b) 0 p 0
  | .abs t d a p => encG 0x0B t.code (dstByte d) (srcByte a) 0 0 p 0
  | .neg t d a p => encG 0x0C t.code (dstByte d) (srcByte a) 0 0 p 0
  | .and t d a b p => encG 0x10 t.code (dstByte d) (srcByte a) (srcByte b) 0 p 0
  | .or t d a b p => encG 0x11 t.code (dstByte d) (srcByte a) (srcByte b) 0 p 0
  | .xor t d a b p => encG 0x12 t.code (dstByte d) (srcByte a) (srcByte b) 0 p 0
  | .notb t d a p => encG 0x13 t.code (dstByte d) (srcByte a) 0 0 p 0
  | .shl t d a b p => encG 0x14 t.code (dstByte d) (srcByte a) (srcByte b) 0 p 0
  | .shr t d a b p => encG 0x15 t.code (dstByte d) (srcByte a) (srcByte b) 0 p 0
  | .rotl t d a b p => encG 0x16 t.code (dstByte d) (srcByte a) (srcByte b) 0 p 0
  | .clz t d a p => encG 0x17 t.code (dstByte d) (srcByte a) 0 0 p 0
  | .popc t d a p => encG 0x18 t.code (dstByte d) (srcByte a) 0 0 p 0
  | .bext t d a b c p => encG 0x19 t.code (dstByte d) (srcByte a) (srcByte b) (srcByte c) p 0
  | .bins t d a b c p => encG 0x1A t.code (dstByte d) (srcByte a) (srcByte b) (srcByte c) p 0
  | .cmpeq t d a b p => encG 0x20 t.code (dstByte d) (srcByte a) (srcByte b) 0 p 0
  | .cmpne t d a b p => encG 0x21 t.code (dstByte d) (srcByte a) (srcByte b) 0 p 0
  | .cmplt t d a b p => encG 0x22 t.code (dstByte d) (srcByte a) (srcByte b) 0 p 0
  | .cmple t d a b p => encG 0x23 t.code (dstByte d) (srcByte a) (srcByte b) 0 p 0
  | .sel t d a b c p => encG 0x24 t.code (dstByte d) (srcByte a) (srcByte b) (srcByte c) p 0
  | .ldiI64 d imm => encL 0x28 (dstByte d) imm
  | .ldiN64 d imm => encL 0x29 (dstByte d) imm
  | .ldhiN64 d imm => encL 0x2A (dstByte d) imm
  | .addi t d a imm p => encI 0x2B t.code (dstByte d) (srcByte a) imm p
  | .lea d a b sc p => encG 0x2C 7 (dstByte d) (srcByte a) (srcByte b) 0 p (sc.setWidth 8)
  | .fadd d a b p => encG 0x30 8 (dstByte d) (srcByte a) (srcByte b) 0 p 0
  | .fsub d a b p => encG 0x31 8 (dstByte d) (srcByte a) (srcByte b) 0 p 0
  | .fmul d a b p => encG 0x32 8 (dstByte d) (srcByte a) (srcByte b) 0 p 0
  | .fma d a b c p => encG 0x33 8 (dstByte d) (srcByte a) (srcByte b) (srcByte c) p 0
  | .fmin d a b p => encG 0x34 8 (dstByte d) (srcByte a) (srcByte b) 0 p 0
  | .fmax d a b p => encG 0x35 8 (dstByte d) (srcByte a) (srcByte b) 0 p 0
  | .fabs d a p => encG 0x36 8 (dstByte d) (srcByte a) 0 0 p 0
  | .fneg d a p => encG 0x37 8 (dstByte d) (srcByte a) 0 0 p 0
  | .fcmpeq d a b p => encG 0x38 8 (dstByte d) (srcByte a) (srcByte b) 0 p 0
  | .fcmplt d a b p => encG 0x39 8 (dstByte d) (srcByte a) (srcByte b) 0 p 0
  | .fcmple d a b p => encG 0x3A 8 (dstByte d) (srcByte a) (srcByte b) 0 p 0
  | .frsqs d a p => encG 0x3B 8 (dstByte d) (srcByte a) 0 0 p 0
  | .frcps d a p => encG 0x3C 8 (dstByte d) (srcByte a) 0 0 p 0
  | .cvti t d a p => encG 0x40 t.code (dstByte d) (srcByte a) 0 0 p 0
  | .cvtn t d a p => encG 0x41 t.code (dstByte d) (srcByte a) 0 0 p 0
  | .cvtt t d a p => encG 0x42 t.code (dstByte d) (srcByte a) 0 0 p 0
  | .cvte t d a p => encG 0x43 t.code (dstByte d) (srcByte a) 0 0 p 0
  | .cvtb t d a p => encG 0x44 t.code (dstByte d) (srcByte a) 0 0 p 0
  | .cvtq t d a b sat p => encG 0x45 t.code (dstByte d) (srcByte a) (srcByte b) 0 p (if sat then 1 else 0)
  | .tfx d a f p => encG 0x48 7 (dstByte d) (srcByte a) 0 0 p (f.setWidth 8)
  | .tfi d a b f p => encG 0x49 7 (dstByte d) (srcByte a) (srcByte b) 0 p (f.setWidth 8)
  | .br off => encJ 0x50 0 off 0 0 0
  | .beq t off a b => encJ 0x51 0 off (cndByte t 0) (srcByte a) (srcByte b)
  | .bne t off a b => encJ 0x51 0 off (cndByte t 1) (srcByte a) (srcByte b)
  | .blt t off a b => encJ 0x51 0 off (cndByte t 2) (srcByte a) (srcByte b)
  | .bge t off a b => encJ 0x51 0 off (cndByte t 3) (srcByte a) (srcByte b)
  | .ble t off a b => encJ 0x51 0 off (cndByte t 4) (srcByte a) (srcByte b)
  | .bgt t off a b => encJ 0x51 0 off (cndByte t 5) (srcByte a) (srcByte b)
  | .call d off => encJ 0x52 (dstByte d) off 0 0 0
  | .ret a => encG 0x53 0 0 (srcByte a) 0 0 none 0
  | .aret => encG 0x54 0 0 0 0 0 none 0
  | .tend => encG 0x55 0 0 0 0 0 none 0
  | .tret a sup => encG 0x56 0 0 (srcByte a) 0 0 none (if sup then 1 else 0)
  | .abort => encG 0x57 0 0 0 0 0 none 0
  | .halt => encG 0x58 0 0 0 0 0 none 0
  | .ld t d a b p => encG 0x60 t.code (dstByte d) (srcByte a) (srcByte b) 0 p 0
  | .st t a b c p => encG 0x61 t.code 0 (srcByte a) (srcByte b) (srcByte c) p 0
  | .ldc t d a c k p => encG 0x62 t.code (dstByte (.g d)) (srcByte a) 0 (srcByte c) p (sckCode k)
  | .stc t a b c k p => encG 0x63 t.code 0 (srcByte a) (srcByte b) (srcByte c) p (sckCode k)
  | .cnull c k p => encG 0x64 0 0 0 0 (srcByte c) p (sckCode k)
  | .crel a b p => encG 0x65 0 0 (srcByte a) (srcByte b) 0 p 0
  | .ldp t d a b p => encG 0x66 t.code (dstByte d) (srcByte a) (srcByte b) 0 p 0
  | .stp t a b c p => encG 0x67 t.code 0 (srcByte a) (srcByte b) (srcByte c) p 0
  | .aadd t d a b p => encG 0x68 (atomFn t 0) (dstByte (.g d)) (srcByte a) (srcByte b) 0 p 0
  | .aand t d a b p => encG 0x68 (atomFn t 1) (dstByte (.g d)) (srcByte a) (srcByte b) 0 p 0
  | .aor t d a b p => encG 0x68 (atomFn t 2) (dstByte (.g d)) (srcByte a) (srcByte b) 0 p 0
  | .axor t d a b p => encG 0x68 (atomFn t 3) (dstByte (.g d)) (srcByte a) (srcByte b) 0 p 0
  | .amin t d a b p => encG 0x68 (atomFn t 4) (dstByte (.g d)) (srcByte a) (srcByte b) 0 p 0
  | .amax t d a b p => encG 0x68 (atomFn t 5) (dstByte (.g d)) (srcByte a) (srcByte b) 0 p 0
  | .aswp t d a b p => encG 0x68 (atomFn t 6) (dstByte (.g d)) (srcByte a) (srcByte b) 0 p 0
  | .acas t d a b c p => encG 0x68 (atomFn t 7) (dstByte (.g d)) (srcByte a) (srcByte b) (srcByte c) p 0
  | .pcatt d a p => encG 0x68 (atomFn .n64 8) (dstByte (.g d)) (srcByte a) 0 0 p 0
  | .pcdet d a p => encG 0x68 (atomFn .n64 9) (dstByte (.g d)) (srcByte a) 0 0 p 0
  | .pcevt d a p => encG 0x68 (atomFn .n64 10) (dstByte (.g d)) (srcByte a) 0 0 p 0
  | .pcfree d a p => encG 0x68 (atomFn .n64 11) (dstByte (.g d)) (srcByte a) 0 0 p 0
  | .pcpub d a p => encG 0x68 (atomFn .n64 12) (dstByte (.g d)) (srcByte a) 0 0 p 0
  | .acq t d a sc p => encG 0x69 t.code (dstByte d) (srcByte a) 0 0 p (scopeCode sc)
  | .rel t a b sc p => encG 0x6A t.code 0 (srcByte a) (srcByte b) 0 p (scopeCode sc)
  | .fence sc p => encG 0x6B 0 0 0 0 0 p (scopeCode sc)
  | .pf a b c mst q1 p =>
    encG 0x6C 0 0 (srcByte a) (srcByte b) (srcByte c) p (BitVec.ofNat 8 (mst.toNat + if q1 then 8 else 0))
  | .inv a b sc p => encG 0x6D 0 0 (srcByte a) (srcByte b) 0 p (scopeCode sc)
  | .eng a doff p => encI 0x70 0 0 (srcByte a) doff p
  | .launchInstruction d a p => encG 0x71 0 (dstByte (.g d)) (srcByte a) 0 0 p 0
  | .snap p => encG 0x72 0 0 0 0 0 p 0
  | .rsr d n p => encI 0x74 0 (dstByte d) 0 n p
  | .wsr a n p => encI 0x75 0 0 (srcByte a) n p
  | .tact .reset a b c p => encG 0x7A 0 0 (srcByte a) (srcByte b) (srcByte c) p 0
  | .tact .emit a b c p => encG 0x7A 1 0 (srcByte a) (srcByte b) (srcByte c) p 0
  | .tact .setimm a b c p => encG 0x7A 2 0 (srcByte a) (srcByte b) (srcByte c) p 0
  | _ => none

/-- The word of a block instruction; `none` for every other row. -/
def encode (i : Instr) : Option W64 := (encFields i).map Fields.word

/-- The kind of core a word of this instruction is decoded on when it stands alone. -/
def homeKind : Instr → CoreKind
  | .tend => .kiosk
  | .halt => .lodge
  | .rsr _ n _ | .wsr _ n _ => if 0x8000 ≤ n.toNat then .lodge else .pergola
  | _ => .pergola

/- Blocks. -/

/-- A decoded block header (R318). -/
structure BlockHeader where
  count : Nat
  nst : Nat
  pp : Bool
  loff : Nat
  mask : W64
  deriving DecidableEq, Repr

/-- The offset, in 16-byte units, of the liveness record of a block of n instructions (R318). -/
def recordOff (n : Nat) : Nat := (16 + 8 * n + 15) / 16

/-- The header checks of R320. -/
def decodeHeader (w0 w1 : W64) : Except Reject BlockHeader :=
  let x := w0.toNat
  let n := nbits x 22 16 + 1
  let pp := nbit x 30
  if nbits x 15 0 != 0xB10C then .error .illop
  else if nbits x 63 48 != 0 || nbit x 31 || nbit x 23 || 32 < nbits x 29 24 ||
      nbits x 47 32 != (if pp then recordOff n else 0) then .error .rsvd
  else .ok { count := n, nst := nbits x 29 24, pp := pp, loff := nbits x 47 32, mask := w1 }

/-- A decoded liveness record (R319): the g-registers saved and the scratch ranges, as (OFF, LEN). -/
structure Liveness where
  gmask : W64
  ranges : List (Nat × Nat)
  deriving DecidableEq, Repr

/-- The record checks of R320: `ws` holds the record's words from word 0. -/
def decodeRecord (ws : List W64) : Except Reject Liveness :=
  let w1 := (ws.getD 1 0).toNat
  let n := nbits w1 3 0
  let rs := ((ws.drop 2).take n).map (·.toNat)
  if nbits w1 63 4 != 0 || 8 < n then .error .rsvd
  else if rs.any (fun r => nbits r 63 46 != 0 || nbits r 45 23 == 0 || 0x600000 < nbits r 22 0 + nbits r 45 23) then
    .error .rsvd
  else .ok { gmask := ws.getD 0 0, ranges := rs.map (fun r => (nbits r 22 0, nbits r 45 23)) }

/-- The bytes of a liveness record before padding. -/
def recordLen (w1 : W64) : Nat := 16 + 8 * nbits w1.toNat 3 0

/-- The offset from a block's address to the next block in section order (R318). -/
def nextBlockOff (h : BlockHeader) (recLen : Nat) : Nat :=
  let e := if h.pp then 16 * h.loff + recLen else 16 + 8 * h.count
  (e + 15) / 16 * 16

/-- Decode the instructions of a block in index order; the first refusal is the fault, with its index (R320). -/
def decodeInstrs (k : CoreKind) (mask : W64) (tagFields : Nat) : Nat → List LSlot → List W64 → Except (Reject × Nat) (List Instr)
  | _, _, [] => .ok []
  | i, slots, w :: ws =>
    match decodeAt { kind := k, idx := i, mask := mask, slots := slots, tagFields := tagFields } w with
    | .error e => .error (e, i)
    | .ok x =>
      match decodeInstrs k mask tagFields (i + 1) (lslotOf (fieldsOf w) :: slots.take 7) ws with
      | .error e => .error e
      | .ok xs => .ok (x :: xs)

/-- The class of a word (R326). -/
def wordClass (w : W64) : OpClass :=
  match rowOf (fieldsOf w) with
  | some r => r.cls
  | none => .none

end Sys2Proof
end

