-- ==== Sys2Proof/Machine/FMap.lean ====
section
/-! DEFINITION. Finite maps as lists of (key, value) pairs with strictly rising keys, and the operations over the one
memory: bytes, poison per aligned 4-byte word (R55), full bits per 8-byte word (R146). -/

namespace Sys2Proof.Machine

/-- A finite map: keys strictly rising. -/
abbrev FMap (ν : Type) := List (Nat × ν)

/-- The value at a key, if listed. -/
def fget {ν : Type} : FMap ν → Nat → Option ν
  | [], _ => none
  | (k, v) :: m, a => if k == a then some v else if a < k then none else fget m a

/-- The value at a key, or a default. -/
def fgetD {ν : Type} (m : FMap ν) (k : Nat) (d : ν) : ν := (fget m k).getD d

/-- Set the value at a key. -/
def fset {ν : Type} : FMap ν → Nat → ν → FMap ν
  | [], a, x => [(a, x)]
  | (k, v) :: m, a, x =>
    if a < k then (a, x) :: (k, v) :: m else if k == a then (a, x) :: m else (k, v) :: fset m a x

/-- Remove a key. -/
def ferase {ν : Type} : FMap ν → Nat → FMap ν
  | [], _ => []
  | (k, v) :: m, a => if a < k then (k, v) :: m else if k == a then m else (k, v) :: ferase m a

/-- Keys strictly rising. -/
def frising {ν : Type} : FMap ν → Bool
  | [] => true
  | [_] => true
  | (a, _) :: (b, y) :: m => a < b && frising ((b, y) :: m)

/-- Change the value at a key, where it is listed. -/
def fmodify {ν : Type} (m : FMap ν) (k : Nat) (f : ν → ν) : FMap ν :=
  match fget m k with
  | some v => fset m k (f v)
  | none => m

/- Sorted lists of numbers, as sets. -/

def smem : List Nat → Nat → Bool
  | [], _ => false
  | k :: m, a => if k == a then true else if a < k then false else smem m a

def sinsert : List Nat → Nat → List Nat
  | [], a => [a]
  | k :: m, a => if a < k then a :: k :: m else if k == a then k :: m else k :: sinsert m a

def serase : List Nat → Nat → List Nat
  | [], _ => []
  | k :: m, a => if a < k then k :: m else if k == a then m else k :: serase m a

/- Memory. -/

/-- The one memory: addresses strictly rising, and no entry equal to what an unlisted address reads as. -/
abbrev Memory := List Host.Cell

/-- What an address reads as that nothing has written. -/
def Memory.blank : Byte := 0

/-- The canonical form. -/
def Memory.wf (m : Memory) : Bool := frising m && m.all (fun c => c.2 != Memory.blank)

def readByte (m : Memory) (a : Nat) : Byte := fgetD m a Memory.blank

def writeByte (m : Memory) (a : Nat) (v : Byte) : Memory :=
  if v == Memory.blank then ferase m a else fset m a v

/-- n bytes from address a upwards. -/
def readBytes (m : Memory) (a : Nat) : Nat → List Byte
  | 0 => []
  | n + 1 => readByte m a :: readBytes m (a + 1) n

def writeBytes (m : Memory) (a : Nat) : List Byte → Memory
  | [] => m
  | v :: vs => writeBytes (writeByte m a v) (a + 1) vs

/-- Little-endian bytes as a number (R4). -/
def leNat : List Byte → Nat
  | [] => 0
  | v :: vs => v.toNat + 256 * leNat vs

/-- The n little-endian bytes of a number (R4). -/
def leBytes (x : Nat) : Nat → List Byte
  | 0 => []
  | n + 1 => BitVec.ofNat 8 x :: leBytes (x / 256) n

def readLe (m : Memory) (a n : Nat) : Nat := leNat (readBytes m a n)

def readWord (m : Memory) (a : Nat) : W64 := BitVec.ofNat 64 (readLe m a 8)

def writeLe (m : Memory) (a n x : Nat) : Memory := writeBytes m a (leBytes x n)

/-- n words of 64 bits. -/
def readWords (m : Memory) (a : Nat) : Nat → List W64
  | 0 => []
  | n + 1 => readWord m a :: readWords m (a + 8) n

/- Poison, per aligned 4-byte word: a sorted list of word indices (R55). -/

/-- A read of n bytes at a delivers poison when any 4-byte word it reads from is poisoned. -/
def poisonRead (p : List Nat) (a n : Nat) : Bool := n != 0 && p.any (fun w => a / 4 ≤ w && w ≤ (a + n - 1) / 4)

/-- Words lo to lo + n − 1 set poisoned. -/
def poisonSet (p : List Nat) (lo : Nat) : Nat → List Nat
  | 0 => p
  | n + 1 => poisonSet (sinsert p lo) (lo + 1) n

/-- Words lo to lo + n − 1 cleared. -/
def poisonClear (p : List Nat) (lo : Nat) : Nat → List Nat
  | 0 => p
  | n + 1 => poisonClear (serase p lo) (lo + 1) n

/-- A store of n bytes at a: a poisoned value poisons every word it writes any byte of; a clean store clears the words of
which it writes all four bytes (R55). -/
def poisonWrite (p : List Nat) (a n : Nat) (bad : Bool) : List Nat :=
  if n == 0 then p
  else if bad then poisonSet p (a / 4) ((a + n - 1) / 4 + 1 - a / 4)
  else
    let lo := (a + 3) / 4
    let hi := (a + n) / 4
    poisonClear p lo (hi - lo)

end Sys2Proof.Machine
end

