-- ==== Sys2Proof/Machine/Types.lean ====
section
/-! DEFINITION. The pieces of the machine's state that memory accesses, block cores and faults are made of: fault names and
records (R95, R96), targets and accesses (R51, R101, R120, R121), windows and tiles (R99, R103), the block cores' registers,
caches and running blocks (R97, R340 to R347, R365, R370). -/

namespace Sys2Proof.Machine

/-- The faults of R96. -/
inductive FCode where
  | illop | illspec | rsvd | blkinc | undecl | otwice | poison | priv | divz
  | tagdup | tagskew | markskew
  | rdexcess | rdshort | cntpart
  | access | presence | gap | tsfull | noncanon | straddle | xlate | eccu | remtmo | align | pgtmo
  | stray | cfgop | fanin
  | mismatch | stackovf
  | wedge | drainovr | tasklong | colltmo | budget | trapnest | faultovf
  | desc | winstate
  deriving DecidableEq, Repr

/-- The fault record of R95. -/
structure FaultRec where
  code : Nat := 0
  mid : Nat := 0
  x : Nat := 0xFF
  y : Nat := 0xFF
  flg : Nat := 0
  yng : Nat := 0
  tag : W64 := 0
  opa : W64 := 0
  opb : W64 := 0
  ord : Nat := 0
  pos : W64 := 0
  time : W64 := 0
  aux : BitVec 32 := 0
  lidl : BitVec 32 := 0
  deriving DecidableEq, Repr

/-- Where a translated access goes (R97, R101, R120, R121, R123): a Commons window of a die at a byte of its range, HBM at
a physical address, a remote window over a peer channel, the scratchpad of a region, the Lodge's code store, or a Commons
byte named outright (a sync variable's or a tile's own home). -/
inductive Tgt where
  | win (die w : Nat) (off : Nat)
  | hbm (a : Nat)
  | remote (die w chan : Nat) (off : Nat)
  | scratch (r : Nat) (off : Nat)
  | code (off : Nat)
  | cmn (die : Nat) (a : Nat)
  deriving DecidableEq, Repr

/-- The kinds of access of R51; `readCounted` is the kind logged for R109. -/
inductive AKind where
  | read | write | fetch | cfill | cread | chRead | chWrite | atomic | pRead | pWrite | readCounted
  deriving DecidableEq, Repr

/-- A tile's state (R103). FREE tiles are those not listed. -/
inductive TileSt where
  | fill | cnt | res | wb
  deriving DecidableEq, Repr

/-- A tile that is held: its state, reader count, DIRTY, while it fills the bytes written so far, counted reads of it in
progress, the master that filled it, and the cycle and master of its latest event (R111). -/
structure Tile where
  st : TileSt := .fill
  c : Nat := 0
  dirty : Bool := false
  got : Nat := 0
  rd : Nat := 0
  by_ : Nat := 0
  ev : Option (Nat × Nat) := none
  deriving DecidableEq, Repr

/-- The tile that a counted read in progress takes: which opening of its window the read found, the tile's bytes and the poisoned 4-byte words
among them, as the read found them (R105, R156). -/
structure TileCopy where
  gen : Nat := 0
  bytes : List Byte := []
  poi : List Nat := []
  deriving DecidableEq, Repr

/-- Who fills or reads a window, or waits on it: a port tile of a region, a session's channel, a prefetch or a win.fill of a
core, an engine of a region; `away` a pre-empted launch's party, as unit u of its region i (R85). -/
inductive Party where
  | port (r y : Nat)
  | chan (c : Nat)
  | core (k : Nat)
  | engine (r j : Nat)
  | mst (r m : Nat)
  | carousel (r : Nat)
  | lodge (sid : Nat)
  | away (sid lid i u : Nat)
  | none
  deriving DecidableEq, Repr

/-- The fill stream of a window (R102): its producer, the declared reader count (0 plain), the sequence of the tile being
filled, tiles filled; `pf` a prefetch with the last tile of its range and the token it sends at its end as region, site, queue
and tag (R115, R381), `nt` the tiles that a win.fill fills (R435); `want` says that the first byte of the next tile has arrived or is to be
brought, `ok` that the home and the backing place permit that tile, `first` the first bytes from a remote backing place; `blocked` the tile whose
freed-slot notice it waits for (R102, R106), `bad` a refusal at the home, `addr` the address of its command (a prefetch: of its first byte), `idx`
and `baddr` the instruction of a prefetch (R367), `paused` that a pre-emption has closed it at a tile boundary (R85); of a counter dump the ring's
BELLSQ and what that ring latched (R239). -/
structure FillStream where
  by_ : Party
  mid : Nat
  cnt : Nat
  pf : Bool := false
  last : Option Nat := none
  nt : Option Nat := none
  filled : Nat := 0
  tok : Option (Nat × Nat × Nat × W64) := none
  seq : Option Nat := none
  addr : Nat := 0
  idx : Nat := 0
  baddr : W64 := 0
  want : Bool := false
  ok : Bool := false
  first : Option (List Byte) := none
  blocked : Option Nat := none
  bad : Option Nat := none
  paused : Bool := false
  bell : Nat := 0
  dump : List Byte := []
  deriving DecidableEq, Repr

/-- STATE of a window descriptor (R99, R100). -/
inductive WinSt where
  | closed | opened | retiring
  deriving DecidableEq, Repr

/-- A window: the fields of its descriptor (R99), its held tiles, its fill streams in arrival order, who owns it, and what
its retirement serves (R100, R108), `closing` that a win.close retires it (R435), the element size of the binding that writes its mark ring;
`gen` counts its openings. -/
structure Window where
  st : WinSt := .closed
  kind : Nat := 0
  tsz : Nat := 0
  prc : Bool := false
  prs : Bool := false
  mkd : Bool := false
  depth : Nat := 1
  fillv : BitVec 32 := 0
  rbase : Nat := 0
  mkbase : Nat := 0
  mkl : Nat := 0
  prod : Nat := 0xFFFF
  bbase : Nat := 0
  blen : Nat := 0
  head : Nat := 0
  peer : Nat := 0
  mkh : Nat := 0
  mkt : Nat := 0
  tiles : FMap Tile := []
  fills : List FillStream := []
  owner : Nat := 0
  closer : Party := .none
  closing : Bool := false
  short : Nat := 0
  shortDue : Bool := false
  besz : Nat := 1
  gen : Nat := 0
  deriving DecidableEq, Repr

/-- A g-register: its value, its poison bit (R340), and whether a reply is awaited (R366). -/
structure GReg where
  val : W64 := 0
  poi : Bool := false
  pend : Bool := false
  deriving DecidableEq, Repr

/-- A line of a block core's data cache (R370): the line's virtual address divided by 64, where it goes, its bytes, the
valid and the dirty bytes as masks, the poisoned 4-byte words as a mask, the epochs in which the line was dirtied (R147). -/
structure CLine where
  va : Nat
  tgt : Tgt
  bytes : List Byte
  valid : W64
  dirty : W64
  poi : W16
  epochs : List Nat
  deriving DecidableEq, Repr

/-- An entry of a translation cache: the 64 KiB page of the virtual address, the leaf, whether the leaf stands at L1. -/
structure TEntry where
  page : Nat
  leaf : W64
  l1 : Bool
  deriving DecidableEq, Repr

/-- The chain fields of a chained access (R151, R328). -/
structure Chain4 where
  ch : Nat
  sq : Nat
  pd : Nat
  sc : Nat
  deriving DecidableEq, Repr

/-- An operation that acts at commit or delivers after it (R365). -/
inductive OutOp where
  | st (va : W64) (n : Nat) (v : W64) (poi : Bool) (tgt : Tgt)
  | stp (va : W64) (v : W64) (poi : Bool) (tgt : Tgt)
  | ldc (g : Nat) (t : Ty) (va : W64) (n : Nat) (tgt : Tgt) (c : Chain4)
  | stc (va : W64) (n : Nat) (v : W64) (poi : Bool) (tgt : Tgt) (c : Chain4)
  | cnull (c : Chain4)
  | crel (va : W64) (tgt : Tgt)
  | atomic (fn : Nat) (t : Ty) (g : Nat) (va : W64) (tgt : Tgt) (b c : W64)
  | rel (va : W64) (tgt : Tgt) (v : W64) (poi : Bool) (sc : Scope)
  | fence (sc : Scope)
  | pf (va : W64) (tgt : Tgt) (len : W64) (tag : W64) (mst : Nat) (q1 : Bool)
  | inv (va : W64) (len : W64) (sc : Scope)
  | eng (d : W64) (tgt : Tgt)
  | launch (g : Nat) (va : W64) (tgt : Tgt)
  | snap
  | wsr (n : Nat) (v : W64)
  | tact (site m : Nat) (fn : TactOp) (v : Nat)
  deriving DecidableEq, Repr

/-- An operation waiting to leave its core: the instruction's index and its block (R365, R367). `stale`: an invalidation has made its translation
dead, and it is translated afresh before it leaves (R136). -/
structure Out where
  idx : Nat
  baddr : W64
  op : OutOp
  stale : Bool := false
  deriving DecidableEq, Repr

/-- What a branch-class instruction does at the commit (R360 to R362, R388 to R391). -/
inductive BrAct where
  | fall
  | goto (a : W64)
  | aret
  | tend
  | tret (sup : Bool) (a : W64)
  | abort
  | halt
  deriving DecidableEq, Repr

/-- One instruction of a running block: the word of the core's own copy (R321), whether it has fired and in which cycle,
whether it is off (R344), the cycle from which its result is available, the result and its poison, its fault (the number
and the F_XLATE cause), the operands it read, what it does at commit, whether an at-fire access of it
is in flight, whether its translation is withheld (R131), whether an invalidation has made the translation of what it laid aside dead (R136). -/
structure Slot where
  word : W64
  fired : Bool := false
  at_ : Nat := 0
  off : Bool := false
  ready : Option Nat := none
  val : W64 := 0
  poi : Bool := false
  fault : Option (Nat × Nat) := none
  opa : Option W64 := none
  opb : Option W64 := none
  op : Option OutOp := none
  br : Option BrAct := none
  flight : Bool := false
  stall : Bool := false
  stale : Bool := false
  deriving DecidableEq, Repr

/-- The special sources latched when the block starts (R342). -/
structure Latched where
  baddr : W64 := 0
  ttl : W64 := 0
  tth : W64 := 0
  mord : W64 := 0
  drc : W64 := 0
  rid : W64 := 0
  time : W64 := 0
  deriving DecidableEq, Repr

/-- A block in execution. `o` names the instruction that wrote each o-slot; `pre` holds the o-slots given before the block
starts (the trap block's record, R93); `cursor` is the instruction that fires next. -/
structure BlockRun where
  mask : W64 := 0
  nst : Nat := 0
  pp : Bool := false
  live : Option Liveness := none
  nextAddr : W64 := 0
  slots : List Slot := []
  o : FMap Nat := []
  pre : FMap W64 := []
  cyc : Nat := 0
  issued : Nat := 0
  divFree : Nat := 0
  spec : Latched := {}
  cursor : Nat := 0
  startCyc : Nat := 0
  trap : Bool := false
  deriving DecidableEq, Repr

/-- What a block core is doing: nothing; about to start the block at an address; running a block; holding back what its
last block's branch does until the block's operations have left; stopped by halt, by a freeze (R94), or by a pre-emption. -/
inductive Phase where
  | idle
  | start (a : W64)
  | running
  | ending (b : BrAct)
  | halted (next : W64)
  | frozen
  | reset
  deriving DecidableEq, Repr

/-- The fault that a Lodge core's handler handles: where the core goes on after it, the record, and whether it came after its block's commit
(R367, R389). -/
structure LodgeTrap where
  resume : Phase
  rcd : FaultRec
  post : Bool := false
  deriving DecidableEq, Repr

/-- A block core. `buffer` holds whole blocks, the latest first (R199); `pre` the record a trap block reads (R93); `failed` counts the failed
residue checks of the block that starts (R56); `inTrap` that it runs a trap block, a Lodge core for the fault `trapped`. -/
structure Core where
  g : FMap GReg := []
  phase : Phase := .idle
  run : BlockRun := {}
  outq : List Out := []
  cache : List CLine := []
  epoch : Nat := 0
  tcache : List TEntry := []
  pre : FMap W64 := []
  failed : Nat := 0
  buffer : List (Nat × List W64) := []
  post : List FaultRec := []
  invs : Nat := 0
  inTrap : Bool := false
  trapped : Option LodgeTrap := none
  deriving DecidableEq, Repr

/-- Who made an access, and where its answer goes: an instruction of a running block, a register after commit (R366), an
operation with no result, a write-back, a memory-port request, a unit of a region, a peer channel's request, nobody. -/
inductive Who where
  | slot (core idx : Nat)
  | reg (core g idx : Nat) (baddr : W64)
  | op (core idx : Nat) (baddr : W64)
  | wb (core : Nat)
  | port (r y id : Nat)
  | unit (r u : Nat)
  | peer (chan fsq : Nat)
  | tile (w seq : Nat)
  | none
  deriving DecidableEq, Repr

/-- What a peer station's request over several tiles still has to do at the next one (R32): the rest's place, bytes and data, and what has been read
so far, with its poison. -/
structure PeerRest where
  at_ : Tgt
  n : Nat := 0
  data : List Byte := []
  got : List Byte := []
  poi : Bool := false
  deriving DecidableEq, Repr

/-- An access on its way to its target. `fn`, `t`, `b`, `c` belong to atomics (R376); `chain` to chained accesses (R151);
`since` is the instant from which it waits; `back` that a chained access was permitted at its window's backing place (R51); `line` the bytes that a load takes which has set out for its whole cache line (R370); `rest` what a peer station's request does
after this (R32). -/
structure Access where
  who : Who
  kind : AKind
  mid : Nat
  tgt : Tgt
  va : W64 := 0
  n : Nat := 0
  data : List Byte := []
  poi : Bool := false
  fn : Nat := 0
  t : Ty := .n64
  b : W64 := 0
  c : W64 := 0
  scope : Scope := .site
  chain : Option Chain4 := none
  gang : Nat := 0
  epoch : Option Nat := none
  since : Nat := 0
  back : Bool := false
  line : Option Nat := none
  rest : Option PeerRest := none
  deriving DecidableEq, Repr

/-- An access as a thing that waits at its target (R51, R52, R111): who made it, its master, its kind, its first byte and its bytes. -/
structure Arrival where
  who : Who
  mid : Nat
  kind : AKind
  tgt : Tgt
  n : Nat
  deriving DecidableEq, Repr

def Access.key (a : Access) : Arrival := { who := a.who, mid := a.mid, kind := a.kind, tgt := a.tgt, n := a.n }

/-- A held entry or an open chain at its Turnstile (R152): the last performed sequence, its successor field, whether an
access of the chain is in flight, the held accesses in order of arrival, and the refused accesses, those that trap blocks must still answer for with
their issuer (R155). -/
structure ChainSt where
  l : Nat := 0
  sl : Nat := 0xFFFFFF
  flying : Bool := false
  held : List Access := []
  waitFault : List Access := []
  deriving DecidableEq, Repr

/-- A record of a sync variable (R147): the releaser, the epoch, the scope. -/
structure SyncRec where
  core : Nat
  epoch : Nat
  scope : Scope
  deriving DecidableEq, Repr

end Sys2Proof.Machine
end

