-- ==== Sys2Proof/Machine/FabricTypes.lean ====
section
/-! DEFINITION. Tokens, plane records, tag layouts and sites of a fabric region (R160 to R176, R178, R329). -/

namespace Sys2Proof.Machine

/-- KIND of a token (R162). -/
inductive TokKind where
  | data | mark | ctl | fault
  deriving DecidableEq, Repr

/-- A token (R162). LVL is the mark level or the control subtype. `cause` is the model's own: the F_XLATE cause of a fault token, which its record
shows in AUX (R126). -/
structure Token where
  kind : TokKind := .data
  v : W32 := 0
  tag : W64 := 0
  vc : Nat := 0
  lvl : Nat := 0
  poi : Bool := false
  cause : Nat := 0
  deriving DecidableEq, Repr

/-- A field of a tag layout (R171). -/
structure TagField where
  width : Nat
  guarded : Bool
  colour : Bool
  deriving DecidableEq, Repr

/-- A plane record (R178, R329, R332): the configuration word, the VC table, the tile extension, each as its bits. -/
structure PlaneRec where
  word : W128 := 0
  vct : List W16 := []
  ext : BitVec 384 := 0
  pid : Nat := 0
  deriving DecidableEq, Repr

/-- A token in an incoming track's buffer, with the destinations that have not taken it yet: outgoing tracks 0 to 7, input
queues 8 to 11 (R164). -/
structure Buffered where
  tok : Token
  left : List Nat
  deriving DecidableEq, Repr

/-- A token to be emitted on the tracks that carry the element's output; `sec` sends it to the secondary output of a special
function tile (R420); `left` are the outgoing tracks that have not taken it; `colour` the spawn colour that is free once it has left (R174). -/
structure Emission where
  tok : Token
  sec : Bool := false
  left : List Nat := []
  colour : Option Nat := none
  deriving DecidableEq, Repr

/-- An entry of a matching store (R169): a tag and a slot for each used queue. -/
structure MatchEntry where
  tag : W64
  slots : List (Option Token)
  deriving DecidableEq, Repr

/-- An entry that the Pergola sends to a mark-sync element (R202, R203); `gen` is the ordinal of the last mark matched when it was
sent. -/
structure ActEntry where
  ord : Nat
  fn : TactOp
  v : Nat
  poison : Bool := false
  gen : Nat := 0
  deriving DecidableEq, Repr

/-- What a memory-port element's request is (R411 to R418); `null` stands for an access whose place a token has taken: it completes the access's
arcs, or waits for the null link that its chain treats it as (R144, R155). -/
inductive ReqKind where
  | read | write | cread | chRead | chWrite | fence (pass : Bool) | drain | null
  deriving DecidableEq, Repr

/-- Where a request stands: it waits to issue, it is in flight, it is performed with its answer, it was refused with a fault
number and an F_XLATE cause. -/
inductive ReqSt where
  | waiting | flight | done (ws : List (W32 × Bool)) | refused (code cause : Nat)
  deriving DecidableEq, Repr

/-- A request of a memory-port element, in stream order (R418): the address word it names, the tag of its set and the tag
its answer takes; the TLK entry it holds pinned as TLK × 512 + ENT; `sent` that its performance has been noted (R144, R129); for a
fence the tags of what its TLK had received and not yet translated (R137); the window and tile of a counted read, with the opening of the window. -/
structure MemReq where
  id : Nat
  kind : ReqKind
  st : ReqSt := .waiting
  addr : Nat := 0
  tag : W64
  otag : W64
  val : W32 := 0
  poi : Bool := false
  chain : Option Chain4 := none
  pinned : Option Nat := none
  sent : Bool := false
  hold : List W64 := []
  tile : Option (Nat × Nat) := none
  gen : Nat := 0
  deriving DecidableEq, Repr

/-- The fault register of a frozen site (R93): the number, the operands, the tag, AUX, whether poison was seen, the fault
number of a token that was consumed, and the younger unchained accesses performed (R95); `qs` the queues whose heads caused it, `issued`
that the first issued entry did (R169), `stale` the ordinal at which a mark-sync element met a stale entry (R202). -/
structure SiteFault where
  code : Nat
  opa : W64 := 0
  opb : W64 := 0
  tag : W64 := 0
  aux : Nat := 0
  poi : Bool := false
  valid : Nat := 3
  yng : Option Nat := none
  qs : List Nat := []
  issued : Bool := false
  stale : Option Nat := none
  deriving DecidableEq, Repr

/-- A site of the grid. `bufs` is keyed by incoming track × 32 + VC, tracks in the order N0, N1, E0, E1, S0, S1, W0, W1;
`q` holds the four input queues; `out` the emissions; `rr` the round-robin pointer of each outgoing track; `acc` the
accumulator's lanes; `cnt` the count of the Count policy, of mkgen's run, of a tile's collection; `marks` mkgen's mark
counter or the ordinals a site has seen; `store` the matching store and `issue` the completed sets in issue order;
`coll` tokens collected by pack, by xps and by the reservoirs; `s0`, `s1` the sides of cfw; `last` the queue mrg took last;
`aq` the action queue; `reqs` the requests of a memory port; `arc` the unconsumed completions of an arc; `strayTok` a token
that arrived on a VC the site does not name (R163); `regs` the registers of a special function tile; `accPoi` the poison of what the
accumulator has taken (R55); `run` mkgen's count; `copies` the copies of `s0` that rpt still emits, `copyNo` the next copy's number. -/
structure Site where
  act : PlaneRec := {}
  sha : PlaneRec := {}
  bufs : FMap (List Buffered) := []
  q : FMap (List Token) := []
  out : List Emission := []
  rr : FMap Nat := []
  frozen : Option SiteFault := none
  acc : List Nat := []
  cnt : Nat := 0
  marks : Nat := 0
  store : List MatchEntry := []
  issue : List MatchEntry := []
  coll : List Token := []
  s0 : Option Token := none
  s1 : Option Token := none
  last : Nat := 0
  aq : List ActEntry := []
  immSet : Option Nat := none
  reqs : List MemReq := []
  arc : List W64 := []
  strayTok : Option Token := none
  regs : FMap Nat := []
  moved : Option Nat := none
  aqWait : List ActEntry := []
  accPoi : Bool := false
  run : Nat := 0
  copies : Nat := 0
  copyNo : Nat := 0
  deriving DecidableEq, Repr

end Sys2Proof.Machine
end

