-- ==== Sys2Proof/Machine/Numbers.lean ====
section
/-! DEFINITION. Number formats and arithmetic (R272 to R282): exact values, rounding, the formats' encodings and decodings,
T8, the seed tables. -/

namespace Sys2Proof.Machine

/-- An exact value: NaN, an infinity, or (-1)^neg × m × 2^e (R273, R275). A zero keeps its sign. -/
inductive Exact where
  | nan
  | inf (neg : Bool)
  | num (neg : Bool) (m : Nat) (e : Int)
  deriving DecidableEq, Repr

/-- The significand of a finite value as an integer. -/
def signedOf (neg : Bool) (m : Nat) : Int := if neg then -(m : Int) else (m : Int)

/-- m × 2^k for an exponent difference known to be at least 0. -/
def scaleUp (m : Int) (k : Int) : Int := m * (2 ^ k.toNat : Nat)

/-- m × 2^s, divided down with nearest-even rounding where s is negative. -/
def shiftRne (m : Nat) (s : Int) : Nat :=
  if 0 ≤ s then m * 2 ^ s.toNat
  else
    let k := (-s).toNat
    let q := m / 2 ^ k
    let r := m % 2 ^ k
    if 2 * r < 2 ^ k then q
    else if 2 * r > 2 ^ k then q + 1
    else if q % 2 == 0 then q else q + 1

/-- m × 2^s, truncated where s is negative. -/
def shiftTrunc (m : Nat) (s : Int) : Nat :=
  if 0 ≤ s then m * 2 ^ s.toNat else m / 2 ^ (-s).toNat

/-- The magnitude bits of m × 2^e in a binary format of `prec` significant bits whose smallest subnormal is 2^qmin. -/
def magBits (m : Nat) (e : Int) (prec : Nat) (qmin : Int) : Nat :=
  if m == 0 then 0
  else
    let top : Int := e + ((Nat.log2 m + 1 : Nat) : Int) - (prec : Int)
    let q := if top < qmin then qmin else top
    (q - qmin).toNat * 2 ^ (prec - 1) + shiftRne m (e - q)

/-- Encode into a binary format of `width` bits (R274). -/
def encBinary (width prec : Nat) (qmin : Int) (infBits nanBits : Nat) (sat : Bool) : Exact → Nat
  | .nan => nanBits
  | .inf neg => (if neg then 2 ^ (width - 1) else 0) + infBits
  | .num neg m e =>
    let b := magBits m e prec qmin
    (if neg then 2 ^ (width - 1) else 0) + (if infBits ≤ b then (if sat then infBits - 1 else infBits) else b)

/-- RNE_f32, and the .f32 encoding with SAT (R273, R274). -/
def encF32 (sat : Bool) (v : Exact) : Nat := encBinary 32 24 (-149) 0x7F800000 0x7FC00000 sat v

/-- The .bf16 encoding (R274). -/
def encBf16 (sat : Bool) (v : Exact) : Nat := encBinary 16 8 (-133) 0x7F80 0x7FC0 sat v

/-- RNE_f32(v) as a 32-bit pattern. -/
def rneF32 (v : Exact) : Nat := encF32 false v

/-- Decode .f32. -/
def decF32 (b : Nat) : Exact :=
  let neg := nbit b 31
  let ex := nbits b 30 23
  let fr := nbits b 22 0
  if ex == 255 then (if fr == 0 then .inf neg else .nan)
  else if ex == 0 then .num neg fr (-149)
  else .num neg (fr + 2 ^ 23) ((ex : Int) - 150)

/-- Decode .bf16: the value of the binary32 whose high half it is (R272). -/
def decBf16 (b : Nat) : Exact := decF32 (b % 2 ^ 16 * 2 ^ 16)

/-- An integer as an exact value. -/
def exactOfInt (v : Int) : Exact := .num (v < 0) v.natAbs 0

def Exact.isNan : Exact → Bool
  | .nan => true
  | _ => false

def Exact.neg : Exact → Exact
  | .nan => .nan
  | .inf s => .inf (!s)
  | .num s m e => .num (!s) m e

/-- v × 2^k, exactly. -/
def Exact.scale (v : Exact) (k : Int) : Exact :=
  match v with
  | .num s m e => .num s m (e + k)
  | x => x

/-- The exact sum; a zero sum is +0 unless both addends are negative zeros (R273). -/
def Exact.add : Exact → Exact → Exact
  | .nan, _ => .nan
  | _, .nan => .nan
  | .inf s, .inf t => if s == t then .inf s else .nan
  | .inf s, _ => .inf s
  | _, .inf t => .inf t
  | .num s m e, .num t n f =>
    let q := if e < f then e else f
    let x := scaleUp (signedOf s m) (e - q) + scaleUp (signedOf t n) (f - q)
    if x == 0 then .num (s && t && m == 0 && n == 0) 0 q else .num (x < 0) x.natAbs q

/-- The exact product (R273). -/
def Exact.mul : Exact → Exact → Exact
  | .nan, _ => .nan
  | _, .nan => .nan
  | .inf s, .inf t => .inf (s != t)
  | .inf s, .num t n _ => if n == 0 then .nan else .inf (s != t)
  | .num s m _, .inf t => if m == 0 then .nan else .inf (s != t)
  | .num s m e, .num t n f => .num (s != t) (m * n) (e + f)

/-- a < b; false with a NaN, and −0 equals +0 (R273). -/
def Exact.lt : Exact → Exact → Bool
  | .nan, _ => false
  | _, .nan => false
  | .inf s, .inf t => s && !t
  | .inf s, .num _ _ _ => s
  | .num _ _ _, .inf t => !t
  | .num s m e, .num t n f =>
    let q := if e < f then e else f
    scaleUp (signedOf s m) (e - q) < scaleUp (signedOf t n) (f - q)

/-- a = b; false with a NaN, and −0 equals +0 (R273). -/
def Exact.eqv (a b : Exact) : Bool := !a.isNan && !b.isNan && !Exact.lt a b && !Exact.lt b a

/-- The operations of R355 on .f32 patterns. -/
def f32Add (a b : Nat) : Nat := rneF32 (Exact.add (decF32 a) (decF32 b))
def f32Sub (a b : Nat) : Nat := rneF32 (Exact.add (decF32 a) (decF32 b).neg)
def f32Mul (a b : Nat) : Nat := rneF32 (Exact.mul (decF32 a) (decF32 b))
def f32Fma (a b c : Nat) : Nat := rneF32 (Exact.add (Exact.mul (decF32 a) (decF32 b)) (decF32 c))

/-- fmin, with −0 below +0; a NaN operand gives the canonical NaN (R355). -/
def f32Min (a b : Nat) : Nat :=
  let x := decF32 a
  let y := decF32 b
  if x.isNan || y.isNan then 0x7FC00000
  else if Exact.lt x y then a
  else if Exact.lt y x then b
  else if nbit a 31 then a else b

/-- fmax, with −0 below +0 (R355). -/
def f32Max (a b : Nat) : Nat :=
  let x := decF32 a
  let y := decF32 b
  if x.isNan || y.isNan then 0x7FC00000
  else if Exact.lt x y then b
  else if Exact.lt y x then a
  else if nbit a 31 then b else a

def f32Abs (a : Nat) : Nat := if (decF32 a).isNan then 0x7FC00000 else a % 2 ^ 31
def f32Neg (a : Nat) : Nat :=
  if (decF32 a).isNan then 0x7FC00000 else if nbit a 31 then a % 2 ^ 31 else a % 2 ^ 31 + 2 ^ 31

/-- The range of an integer format of n bits. -/
def intMin (signed : Bool) (n : Nat) : Int := if signed then -((2 ^ (n - 1) : Nat) : Int) else 0
def intMax (signed : Bool) (n : Nat) : Int :=
  if signed then ((2 ^ (n - 1) : Nat) : Int) - 1 else ((2 ^ n : Nat) : Int) - 1

/-- Clamp to the range of an integer format. -/
def clampInt (signed : Bool) (n : Nat) (v : Int) : Int :=
  if v < intMin signed n then intMin signed n else if intMax signed n < v then intMax signed n else v

/-- Read the low n bits under an integer format. -/
def readInt (signed : Bool) (n : Nat) (v : Nat) : Int := if signed then sextInt v n else ((v % 2 ^ n : Nat) : Int)

/-- A conversion from .f32 to an integer format, saturating, NaN to 0 (R276). -/
def exactToInt (nearest signed : Bool) (n : Nat) : Exact → Int
  | .nan => 0
  | .inf neg => if neg then intMin signed n else intMax signed n
  | .num neg m e =>
    clampInt signed n (signedOf neg (if nearest then shiftRne m e else shiftTrunc m e))

/-- Encode into an integer lane of n bits under a scale (R275). -/
def encLaneInt (signed : Bool) (n : Nat) (scale : Int) (sat : Bool) : Exact → Nat
  | .nan => 0
  | .inf neg => if sat then wrapNat (if neg then intMin signed n else intMax signed n) n else 0
  | .num neg m e =>
    let y := signedOf neg (shiftRne m (e - scale))
    wrapNat (if sat then clampInt signed n y else y) n

/-- Decode an integer lane under a scale (R275). -/
def decLaneInt (signed : Bool) (n : Nat) (scale : Int) (v : Nat) : Exact :=
  let x := readInt signed n v
  .num (x < 0) x.natAbs scale

/-- Leading zeros of x as an n-bit field; n when x is zero. -/
def leadZeros (x n : Nat) : Nat := if x == 0 then n else n - 1 - Nat.log2 x

/-- Decode a T8 code under a channel scale (R277); NaR is read as NaN. -/
def decT8 (scale : Int) (code : Nat) : Exact :=
  let s := nbit code 7
  let b := code % 128
  if b == 0 then (if s then .nan else .num false 0 0)
  else
    let z := leadZeros b 7
    let n := 6 - z
    if 2 ≤ n then
      let l : Int := if nbit b (n - 2) then 1 else 0
      let w := n - 2
      let f := b % 2 ^ w
      let e : Int := if nbit b (n - 1) then 2 * (z : Int) + l else -(2 * (z : Int) + 2) + l
      .num s (2 ^ w + f) (e + scale - (w : Int))
    else if n == 1 then .num s 1 ((if nbit b 0 then 10 else -11) + scale)
    else .num s 1 (-12 + scale)

/-- The fraction width of binade B (R277). -/
def t8Width (b : Int) : Nat :=
  let k := if 0 ≤ b then (b / 2).toNat else ((-b - 1) / 2).toNat
  4 - k

/-- The body of (B, f) (R277 inverted). -/
def t8Body (b : Int) (f : Nat) : Nat :=
  if 10 ≤ b then 3
  else if b ≤ -12 then 1
  else if b == -11 then 2
  else
    let z := if 0 ≤ b then (b / 2).toNat else ((-b - 1) / 2).toNat
    let n := 6 - z
    let h := if 0 ≤ b then 1 else 0
    let l := (b % 2).toNat
    2 ^ n + h * 2 ^ (n - 1) + l * 2 ^ (n - 2) + f

/-- Encode into T8 under a channel scale and SAT (R278). -/
def encT8 (scale : Int) (sat : Bool) : Exact → Nat
  | .nan => 0x80
  | .inf neg => if sat then (if neg then 0x83 else 0x03) else 0x80
  | .num neg m e0 =>
    let e := e0 - scale
    let sg := if neg then 128 else 0
    if m == 0 then 0
    else
      let top : Int := e + (Nat.log2 m : Int)
      if Exact.lt (.num false m e) (.num false 1 (-13)) then 0
      else if Exact.lt (.num false 1536 0) (.num false m e) then (if sat then sg + 3 else 0x80)
      else if top < -12 then sg + 1
      else if 10 ≤ top then sg + 3
      else
        let w := t8Width top
        -- y = |x| × 2^(w - B) lies in [2^w, 2^(w+1))
        let k := e + (w : Int) - top
        let lo := shiftTrunc m k
        let tie := shiftTrunc m (k + 1) == 2 * lo + 1 && Exact.eqv (.num false m k) (.num false (2 * lo + 1) (-1))
        let up :=
          if tie then (if w == 0 then top % 2 != 0 else lo % 2 == 1)
          else shiftTrunc m (k + 1) == 2 * lo + 1
        let r := if up then lo + 1 else lo
        if r == 2 ^ (w + 1) then sg + t8Body (top + 1) 0 else sg + t8Body top (r - 2 ^ w)

/-- The integer square root, digit by digit: the largest r below 2^k with r² ≤ n. -/
def isqrtBits (n : Nat) : Nat → Nat → Nat
  | 0, r => r
  | k + 1, r => let t := r + 2 ^ k; isqrtBits n k (if t * t ≤ n then t else r)

def isqrt (n : Nat) : Nat := isqrtBits n (Nat.log2 n / 2 + 1) 0

/-- 4096 + F for entry (p, j) of the reciprocal square-root table: 8192/√c to the nearest, c = 2^p(1025 + 2j)/1024 (R282). -/
def rsqEntry (p j : Nat) : Nat := (isqrt (4 * 262144 ^ 2 / (2 ^ p * (1025 + 2 * j))) + 1) / 2

/-- 4096 + F for entry j of the reciprocal table: 8192/c to the nearest (R282). -/
def rcpEntry (j : Nat) : Nat := (2 * 8388608 / (1025 + 2 * j) + 1) / 2

/-- The top nine fraction bits of m normalised to [1, 2). -/
def topNine (m : Nat) : Nat :=
  let l := Nat.log2 m
  (if 9 ≤ l then m / 2 ^ (l - 9) else m * 2 ^ (9 - l)) % 512

/-- RSQSEED on .f32 patterns (R282). -/
def rsqSeed (x : Nat) : Nat :=
  match decF32 x with
  | .nan => 0x7FC00000
  | .inf neg => if neg then 0x7FC00000 else 0
  | .num neg m e =>
    if m == 0 then (if neg then 0xFF800000 else 0x7F800000)
    else if neg then 0x7FC00000
    else
      let ex : Int := e + (Nat.log2 m : Int)
      let p := (ex % 2).toNat
      let q := (ex - (p : Int)) / 2
      rneF32 (.num false (rsqEntry p (topNine m)) (-13 - q))

/-- RCPSEED on .f32 patterns (R282). -/
def rcpSeed (x : Nat) : Nat :=
  match decF32 x with
  | .nan => 0x7FC00000
  | .inf neg => if neg then 0x80000000 else 0
  | .num neg m e =>
    if m == 0 then (if neg then 0xFF800000 else 0x7F800000)
    else rneF32 (.num neg (rcpEntry (topNine m)) (-13 - (e + (Nat.log2 m : Int))))

end Sys2Proof.Machine
end

