-- ==== Sys2Proof/Machine/ElemOps.lean ====
section
/-! DEFINITION. What the element operations compute (R168, R170 to R172, R393 to R409), as functions of a configuration and
of the tokens consumed. -/

namespace Sys2Proof.Machine

/-- An entry of the VC table (R168). -/
structure VcEntry where
  fmt : Nat
  scale : Int
  sat : Bool
  ntc : Bool
  deriving DecidableEq, Repr

def vcEntryOf (w : W16) : VcEntry :=
  { fmt := nbits w.toNat 3 0, scale := sextInt (nbits w.toNat 11 4) 8, sat := nbit w.toNat 12, ntc := nbit w.toNat 13 }

/-- The entry of VC c of a record. -/
def PlaneRec.vc (p : PlaneRec) (c : Nat) : VcEntry := vcEntryOf (p.vct.getD c 0)

/-- Fields of a configuration word (R329, R166). -/
def PlaneRec.fop (p : PlaneRec) : Nat := nbits p.word.toNat 7 0
def PlaneRec.matched (p : PlaneRec) : Bool := nbits p.word.toNat 9 8 == 1
def PlaneRec.mode (p : PlaneRec) : Nat := nbits p.word.toNat 9 8
def PlaneRec.arity (p : PlaneRec) : Nat := nbits p.word.toNat 11 10 + 1
def PlaneRec.ty (p : PlaneRec) : Nat := nbits p.word.toNat 15 12
def PlaneRec.qsel (p : PlaneRec) (n : Nat) : Nat := nbits p.word.toNat (8 * n + 23) (8 * n + 16)
def PlaneRec.sw (p : PlaneRec) (t : Nat) : Nat := nbits p.word.toNat (4 * t + 51) (4 * t + 48)
def PlaneRec.tagop (p : PlaneRec) : Nat := nbits p.word.toNat 87 80
def PlaneRec.ovc (p : PlaneRec) : Nat := nbits p.word.toNat 92 88
def PlaneRec.ovcByte (p : PlaneRec) : Nat := nbits p.word.toNat 95 88
def PlaneRec.mkByte (p : PlaneRec) : Nat := nbits p.word.toNat 103 96
def PlaneRec.policy (p : PlaneRec) : Nat := nbits p.word.toNat 98 96
def PlaneRec.level (p : PlaneRec) : Nat := nbits p.word.toNat 101 99
def PlaneRec.imm (p : PlaneRec) : Nat := nbits p.word.toNat 127 104

/-- The VC a queue accepts, its port (N E S W) and its track (R166). -/
def PlaneRec.qvc (p : PlaneRec) (n : Nat) : Nat := nbits (p.qsel n) 4 0
def PlaneRec.qport (p : PlaneRec) (n : Nat) : Nat := nbits (p.qsel n) 7 6
def PlaneRec.qtrack (p : PlaneRec) (n : Nat) : Nat := nbits (p.qsel n) 5 5

/-- Lanes of a format code (R168, R272). -/
def fmtLanes (f : Nat) : Nat := if f ≤ 2 then 1 else if f == 4 || f == 5 || f == 6 then 4 else 2
def fmtWidth (f : Nat) : Nat := 32 / fmtLanes f
def fmtIsInt (f : Nat) : Bool := f == 0 || f == 1 || (5 ≤ f && f ≤ 8)
def fmtSigned (f : Nat) : Bool := f == 0 || f == 5 || f == 7

/-- Lane i of a token's value under a format. -/
def laneBits (f : Nat) (v : Nat) (i : Nat) : Nat := nbits v ((i + 1) * fmtWidth f - 1) (i * fmtWidth f)

/-- The exact value of a lane's bits under an entry (R274, R275, R277). -/
def decLane (e : VcEntry) (b : Nat) : Exact :=
  match e.fmt with
  | 2 => decF32 b
  | 3 => decBf16 b
  | 4 => decT8 e.scale b
  | _ => decLaneInt (fmtSigned e.fmt) (fmtWidth e.fmt) (if e.fmt == 5 || e.fmt == 6 then e.scale else 0) b

/-- The bits of an exact value encoded into a lane of an entry (R274, R275, R278). -/
def encLane (e : VcEntry) (v : Exact) : Nat :=
  match e.fmt with
  | 2 => encF32 e.sat v
  | 3 => encBf16 e.sat v
  | 4 => encT8 e.scale e.sat v
  | _ => encLaneInt (fmtSigned e.fmt) (fmtWidth e.fmt) (if e.fmt == 5 || e.fmt == 6 then e.scale else 0) e.sat v

/-- Put lanes together, lane 0 lowest. -/
def joinLanes (w : Nat) : List Nat → Nat
  | [] => 0
  | x :: xs => x + 2 ^ w * joinLanes w xs

/-- An operand lane as the operation sees it (R394): of another format, or scaled under an integer TYPE, it is brought into the TYPE
lane. DEDUCED (log 45): the listing encodes an operand of another format under a floating TYPE too. -/
def operand (ty : Nat) (e : VcEntry) (b : Nat) : Exact :=
  let v := decLane e b
  if e.fmt != ty || (fmtIsInt ty && e.scale != 0) then
    let plain : VcEntry := { fmt := ty, scale := 0, sat := false, ntc := false }
    decLane plain (encLane plain v)
  else v

/-- The integer an operand of an integer TYPE is. -/
def Exact.toInt : Exact → Int
  | .num s m e => signedOf s (shiftTrunc m e)
  | _ => 0

/-- min and max of a floating TYPE: −0 below +0, NaN if either is NaN (R397). -/
def exactLess (a b : Exact) : Bool :=
  Exact.lt a b || (Exact.eqv a b && (match a, b with
    | .num true 0 _, .num false 0 _ => true
    | _, _ => false))

def exactMin (a b : Exact) : Exact := if a.isNan || b.isNan then .nan else if exactLess b a then b else a
def exactMax (a b : Exact) : Exact := if a.isNan || b.isNan then .nan else if exactLess a b then b else a

/-- −v and |v| of a floating lane. -/
def Exact.abs : Exact → Exact
  | .nan => .nan
  | .inf _ => .inf false
  | .num _ m e => .num false m e

/-- A bitwise operation on the TYPE bits of two lanes. -/
def laneBitwise (ty : Nat) (f : Nat → Nat → Nat) (a b : Int) : Int :=
  readInt (fmtSigned ty) (fmtWidth ty) (f (wrapNat a (fmtWidth ty)) (wrapNat b (fmtWidth ty)))

/-- The result of an arithmetic, compare or conversion opcode on the operands of one lane (R397 to R400). `imm` is IMM. -/
def laneOp (fop ty imm : Nat) (v0 v1 v2 : Exact) : Exact :=
  let w := fmtWidth ty
  let sg := fmtSigned ty
  let a := v0.toInt
  let b := v1.toInt
  let m : Int := if sg then sextInt imm 24 else (imm : Int)
  let one : Exact := .num false 1 0
  let zero : Exact := .num false 0 0
  if fmtIsInt ty then
    match fop with
    | 0x01 => exactOfInt (a + b)
    | 0x02 => exactOfInt (a - b)
    | 0x03 => exactOfInt (a * b)
    | 0x04 => exactOfInt (if b < a then b else a)
    | 0x05 => exactOfInt (if a < b then b else a)
    | 0x06 => exactOfInt (laneBitwise ty (· &&& ·) a b)
    | 0x07 => exactOfInt (laneBitwise ty (· ||| ·) a b)
    | 0x08 => exactOfInt (laneBitwise ty (· ^^^ ·) a b)
    | 0x09 => if b < 0 || (w : Int) ≤ b then zero
              else exactOfInt (readInt sg w (wrapNat (a * (2 ^ b.toNat : Nat)) w))
    | 0x0A => if b < 0 || (w : Int) ≤ b then exactOfInt (if sg && a < 0 then -1 else 0)
              else exactOfInt (a / (2 ^ b.toNat : Nat))
    | 0x0B => exactOfInt (clampInt sg w (a + b))
    | 0x0C => exactOfInt (clampInt sg w (a - b))
    | 0x0D => exactOfInt (if a < 0 then -a else a)
    | 0x0E => exactOfInt (-a)
    | 0x0F => exactOfInt (a + m)
    | 0x10 => exactOfInt (a * m)
    | 0x12 => if a == b then one else zero
    | 0x13 => if a < b then one else zero
    | 0x14 => if a == 0 then v2 else v1
    | _ => v0
  else
    match fop with
    | 0x01 => Exact.add v0 v1
    | 0x02 => Exact.add v0 v1.neg
    | 0x03 => Exact.mul v0 v1
    | 0x04 => exactMin v0 v1
    | 0x05 => exactMax v0 v1
    | 0x0D => v0.abs
    | 0x0E => v0.neg
    | 0x11 => Exact.add (Exact.mul v0 v1) v2
    | 0x12 => if Exact.eqv v0 v1 then one else zero
    | 0x13 => if Exact.lt v0 v1 then one else zero
    | 0x14 => if Exact.eqv v0 zero then v2 else v1
    | 0x15 => v0.scale (-(sextInt imm 8))
    | 0x19 => decF32 (rsqSeed (rneF32 v0))
    | 0x1A => decF32 (rcpSeed (rneF32 v0))
    | _ => v0

/-- The value of lane i of the token on queue k. -/
def laneVal (p : PlaneRec) (toks : List Token) (k i : Nat) : Exact :=
  match toks[k]? with
  | some t => operand p.ty (p.vc (p.qvc k)) (laneBits (p.vc (p.qvc k)).fmt t.v.toNat i)
  | none => .num false 0 0

/-- The V a lane-by-lane opcode gives (R394). -/
def computeV (p : PlaneRec) (imm : Nat) (toks : List Token) : W32 :=
  let e := p.vc p.ovc
  let n := fmtLanes p.ty
  BitVec.ofNat 32 (joinLanes (32 / n)
    ((List.range n).map (fun i =>
      encLane e (laneOp p.fop p.ty imm (laneVal p toks 0 i) (laneVal p toks 1 i) (laneVal p toks 2 i)))))

/- Accumulators (R402, R403). -/

/-- Opcodes that hold an accumulator. -/
def hasAcc (fop : Nat) : Bool := 0x20 ≤ fop && fop ≤ 0x24

/-- The reset value of an accumulator lane, as 32 bits. -/
def accReset (fop ty : Nat) : Nat :=
  if fmtIsInt ty then
    match fop with
    | 0x22 => if fmtSigned ty then 0x80000000 else 0
    | 0x23 => if fmtSigned ty then 0x7FFFFFFF else 0xFFFFFFFF
    | _ => 0
  else
    match fop with
    | 0x22 => 0xFF800000
    | 0x23 => 0x7F800000
    | _ => 0

/-- The accumulator's lanes at their reset value. -/
def accResetLanes (p : PlaneRec) : List Nat :=
  if hasAcc p.fop then List.replicate (fmtLanes p.ty) (accReset p.fop p.ty) else []

/-- One lane's update (R402). -/
def accLane (fop ty : Nat) (a : Nat) (v0 v1 : Exact) : Nat :=
  if fmtIsInt ty then
    let sg := fmtSigned ty
    let x := readInt sg 32 a
    match fop with
    | 0x20 => wrapNat (x + v0.toInt) 32
    | 0x21 => wrapNat (x + v0.toInt * v1.toInt) 32
    | 0x22 => if x < v0.toInt then wrapNat v0.toInt 32 else a
    | 0x23 => if v0.toInt < x then wrapNat v0.toInt 32 else a
    | _ => a ||| wrapNat v0.toInt (fmtWidth ty)
  else
    let x := decF32 a
    match fop with
    | 0x20 => rneF32 (Exact.add x v0)
    | 0x21 => rneF32 (Exact.add x (Exact.mul v0 v1))
    | 0x22 => rneF32 (exactMax x v0)
    | _ => rneF32 (exactMin x v0)

def accUpdate (p : PlaneRec) (acc : List Nat) (toks : List Token) : List Nat :=
  (List.range (fmtLanes p.ty)).map (fun i =>
    accLane p.fop p.ty (acc.getD i (accReset p.fop p.ty)) (laneVal p toks 0 i) (laneVal p toks 1 i))

/-- The V of the accumulated value, encoded into the OVC entry (R403). -/
def accV (p : PlaneRec) (acc : List Nat) : W32 :=
  let e := p.vc p.ovc
  BitVec.ofNat 32 (joinLanes (fmtWidth p.ty)
    ((List.range (fmtLanes p.ty)).map (fun i =>
      let a := acc.getD i (accReset p.fop p.ty)
      encLane e (if fmtIsInt p.ty then exactOfInt (readInt (fmtSigned p.ty) 32 a) else decF32 a))))

/- Tags (R171, R172). -/

/-- The lowest bit of field f of a layout. -/
def fieldLow (l : List TagField) (f : Nat) : Nat :=
  64 - ((l.take (f + 1)).map (·.width)).foldl (· + ·) 0

def fieldWidth (l : List TagField) (f : Nat) : Nat := ((l[f]?).map (·.width)).getD 0
def fieldGuarded (l : List TagField) (f : Nat) : Bool := ((l[f]?).map (·.guarded)).getD false

/-- Field f of a tag. -/
def getField (l : List TagField) (f : Nat) (tag : W64) : Nat :=
  nbits tag.toNat (fieldLow l f + fieldWidth l f - 1) (fieldLow l f)

/-- A tag with field f replaced by the low bits of v. -/
def setField (l : List TagField) (f : Nat) (tag : W64) (v : Nat) : W64 :=
  if fieldWidth l f == 0 then tag
  else
    let lo := fieldLow l f
    let w := fieldWidth l f
    BitVec.ofNat 64 (tag.toNat - nbits tag.toNat (lo + w - 1) lo * 2 ^ lo + v % 2 ^ w * 2 ^ lo)

/-- A tag with the fields from f on zeroed. -/
def zeroFrom (l : List TagField) (f : Nat) (tag : W64) : W64 :=
  (List.range 8).foldl (fun t i => if f ≤ i && i < l.length then setField l i t 0 else t) tag

/-- The colour field of a layout. -/
def colourField (l : List TagField) : Option Nat := (List.range l.length).find? (fun i => ((l[i]?).map (·.colour)).getD false)

/-- Parts of TAGOP (R172). -/
def tagopOp (t : Nat) : Nat := nbits t 7 5
def tagopF (t : Nat) : Nat := nbits t 4 2
def tagopK (t : Nat) : Nat := nbits t 1 0

/-- TAGOP draws from the allocator of a guarded field (R172). -/
def tagopDraws (l : List TagField) (t : Nat) : Bool :=
  (tagopOp t == 1 || tagopOp t == 3) && fieldGuarded l (tagopF t)

/-- The output tag of TAGOP on T (R172): `issued` is the allocator's value where TAGOP draws one, `toks` the inputs, `j` the
copy number under an unguarded INC of an opcode that emits several (R401, R406). An input k that the set does not have gives V 0 and T. DESIGN
CHOICE, log 47. -/
def applyTag (l : List TagField) (t : Nat) (tag : W64) (toks : List Token) (issued : Nat) (j : Nat) : W64 :=
  let f := tagopF t
  match tagopOp t with
  | 1 => setField l f tag (if fieldGuarded l f then issued else getField l f tag + 1 + j)
  | 2 => setField l f tag (((toks[tagopK t]?).map (·.v.toNat)).getD 0)
  | 3 => zeroFrom l (f + 1) (setField l f tag (if fieldGuarded l f then issued else 0))
  | 4 => zeroFrom l f tag
  | 5 => setField l f tag 0
  | 6 => ((toks[tagopK t]?).map (·.tag)).getD tag
  | _ => tag

/-- The tag of a mark or control token: INC and PUSH of a guarded field act as PASS (R172). -/
def markTag (l : List TagField) (t : Nat) (tag : W64) (toks : List Token) : W64 :=
  if tagopDraws l t then tag else applyTag l t tag toks 0 0

/- Compare-and-forward (R409). -/

/-- Rank of a score: 2 a number, 1 NaN, 0 removed. -/
def cfwRank (v : W32) : Nat :=
  if v == 0xFFFFFFFF then 0 else if (decF32 v.toNat).isNan then 1 else 2

/-- The winner of two sides; ids are field f of the tags. -/
def cfwWinner (l : List TagField) (f : Nat) (a b : Token) : Token :=
  let ra := cfwRank a.v
  let rb := cfwRank b.v
  let lower := if getField l f a.tag ≤ getField l f b.tag then a else b
  if rb < ra then a
  else if ra < rb then b
  else if ra == 2 then
    (if Exact.lt (decF32 b.v.toNat) (decF32 a.v.toNat) then a
     else if Exact.lt (decF32 a.v.toNat) (decF32 b.v.toNat) then b else lower)
  else lower

end Sys2Proof.Machine
end

