-- ==== Sys2Proof/Config.lean ====
section
/-! DEFINITION. What an implementation fixes and what the manual leaves open. An `opaque` constant has no value that a proof
could see: a statement holds whatever it is. -/

namespace Sys2Proof.Config

/-- The silicon stepping fused into PKGID.STEP (R19). -/
opaque stepping : BitVec 4

/-- ETHP: 0xF on every GA-7240 as shipped (R19, R22). -/
def ethp : Nat := 0xF

/-- S of R62: the features this station has; all nine are present on a part with nothing fused off. DESIGN CHOICE, log 12. -/
def features : BitVec 128 := 0x1FF

/-- A value the manual leaves undefined, numbered by State.free (R86). -/
opaque freeWord : Nat → W64

/-- The vendor's public key, held in the boot ROM (R40). Log 11. -/
opaque vendorKey : Vector Byte 64

/-- SLH-DSA-SHAKE-256s of FIPS 205 (R40, R46): verification of a signature under a public key, and the signature of 29,792 bytes by the
station's identity key, as functions of the bytes. Log 11. -/
opaque slhVerify (key : Vector Byte 64) (message signature : List Byte) : Bool
opaque slhSign (message : List Byte) : Vector Byte 29792

/-- The station's public key: 64 bytes (R45). Log 11. -/
opaque identityKey : Vector Byte 64

/-- The boot-ROM region of the Lodge's address space (R40, R47): its first byte, and its bytes. DESIGN CHOICE, log 40: the spec places it
nowhere. -/
def romBase : Nat := 2 ^ 41
opaque romSize : Nat

/-- Where Thiben's handler of a Lodge core's own faults starts (R389). Log 17. -/
opaque lodgeHandler : W64

/-- The Lodge's addresses of Commons windows: window w of die d has 2^32 bytes from 2^46 + (d × 4096 + w) × 2^32. DESIGN CHOICE, log 18. -/
def lodgeWindows : Nat := 2 ^ 46

/-- STRAP2:0 (R37). Log 41. -/
opaque strap : BitVec 3

/-- The fields of a RAT frame's payload, the atomic descriptor: function, type code, operands (R24 names it and gives no
layout). Log 13. -/
opaque ratFields (payload : List Byte) : Nat × Nat × W64 × W64

/-- The payload of an RAT frame for an atomic: the same layout. -/
opaque ratPayload (fn ty : Nat) (b c : W64) : List Byte

/-- The payload of an RRS frame: the FSQ of its request, the data, or the fault number and cause of a fault token (R32). Log 13. -/
opaque rrsPayload (fsq : Nat) (data : List Byte) (fault : Option (Nat × Nat)) : List Byte
opaque rrsFields (payload : List Byte) : Nat × List Byte × Option (Nat × Nat)

/-- What a COLL message carries: the region it is for, KIND, NPART, TY, NEL, CID, index, data, whether it is a fault token (R24, R446). -/
opaque collFields (payload : List Byte) : Nat × Nat × Nat × Nat × Nat × W64 × Nat × List Byte × Bool
opaque collPayload (r kind npart ty nel : Nat) (cid : W64) (idx : Nat) (data : List Byte) (fault : Bool) : List Byte

/-- The layout of a region's snapshot registers in the body of READSNAP (R69), from the values latched. Log 13. -/
opaque snapBytes (rcnt rsum : List (Nat × Nat)) (dups : Nat) (skips : List (Nat × Nat)) (bell : Nat) : List Byte

/-- Sensors of the management unit's table beyond those of the clamp. -/
opaque sensorFree : Nat → Nat

end Sys2Proof.Config
end

