-- ==== Sys2Proof/Machine/UnitTypes.lean ====
section
/-! DEFINITION. The units of a region off the grid, and what the grid's special tiles keep: the parser (R191 to R212), box
streams and port tiles (R426 to R434), memory nodes (R113, R222 to R224), matrix engines (R213 to R226), kiosk tasks (R219 to
R221), the Carousel station (R227 to R241), the Trellis (R254 to R271), replay units (R442), the configuration bus and the
Belvedere (R177 to R190), the TLKs and the walker (R128 to R137, R244, R245). -/

namespace Sys2Proof.Machine

/-- Who issued an engine command: the core, the instruction's index and its block (R367, R424). -/
structure Issuer where
  core : Nat := 0
  idx : Nat := 0
  baddr : W64 := 0
  deriving DecidableEq, Repr

/-- A descriptor that a unit has read whole (R335): its words, its address, its issuer; `told` once its completion has been sent while the next
descriptor of its chain is still to be read (R424). -/
structure Desc where
  words : List W64 := []
  addr : W64 := 0
  by_ : Issuer := {}
  told : Bool := false
  deriving DecidableEq, Repr

/-- An entry of the mark queue (R193): the terminal (0 DR, 1 to 7 a mark), its ordinal, its count, and the lead-stream data
tokens before it (R210). -/
structure MqEntry where
  term : Nat
  ord : Nat
  cnt : Nat
  pos : Nat
  deriving DecidableEq, Repr

/-- STATE of the parser (R201). -/
inductive PgState where
  | idle | parse | action | done | mismatch | trap
  deriving DecidableEq, Repr

/-- The parser (R197, R202, R207 to R209). Symbols are coded as in R210, the top of the stack first. `settled` is `none` when
unbounded; `raises` are the ordinals it rises to, one after another, as the entries sent by then are delivered; `ovf` says that an
overflow's trap block has returned (R197); `afterDr` and `discEnd` are the flags of R86; `resetAt` is the mark that ended a discard; `back` is the state that the end
of the action in progress returns to (R389). -/
structure Parser where
  st : PgState := .idle
  stack : List Nat := []
  mq : List MqEntry := []
  ord : Nat := 0
  drc : Nat := 0
  afterDr : Bool := false
  discEnd : Bool := false
  settled : Option Nat := some 0
  raises : List Nat := []
  ovf : Bool := false
  resetAt : Option Nat := none
  recovering : Bool := false
  back : PgState := .parse
  deriving DecidableEq, Repr

/-- A box stream in progress (R428 to R434): the descriptor, the visit index it has reached, elements read or written, the
tokens it still sends, the list entries read (R431), the value for skipped faulting elements after tret, whether its shape is
exhausted, whether a pre-emption has closed it, its entries in the current route group; `mkNext` the next mark-ring entry; `committed`
a counted tile whose last element has still to leave; `asked` that it awaits another station; `got` an element that has been read and waits for its
destination: its bytes, poison, window and place there; `later` elements still to skip, with the value for them, behind a fault of a value
supplied (R230); `cur` the window and tile of the counted read in progress, `copy` that tile; `dstWin` the window it fills; `pkt` a packet announced to an engine and still to land (R89). -/
structure Box where
  d : Desc := {}
  pos : Nat := 0
  count : Nat := 0
  toks : List Token := []
  list_ : Option (List Nat) := none
  ended : Bool := false
  closed : Bool := false
  started : Bool := false
  fault : Option SiteFault := none
  supply : Option W64 := none
  skip : Nat := 0
  later : List (Nat × Option W64) := []
  yng : Nat := 0
  group : Nat := 0
  mkNext : Nat := 0
  committed : Bool := false
  asked : Bool := false
  got : Option (List Byte × Bool × Option (Nat × Nat)) := none
  cur : Option (Nat × Nat) := none
  copy : TileCopy := {}
  dstWin : Option Nat := none
  pkt : Option (List Byte × Bool × Option (Nat × Nat)) := none
  deriving DecidableEq, Repr

/-- A chain at a port tile: the box it has reached (R423). -/
structure BoxChain where
  box : Box := {}
  deriving DecidableEq, Repr

/-- An access of a unit to another station, by its kind, its target and its bytes, and its answer: bytes, poison, fault number and cause. -/
structure UnitPart where
  key : AKind × Tgt × Nat
  bytes : List Byte
  poi : Bool
  code : Nat
  cause : Nat
  deriving DecidableEq, Repr

/-- A port tile, or the path to memory of another unit: its chains, the mark counter of each east track (R192), the data run open on each (R193);
the access to another station that it awaits, and its answer: bytes, poison, fault number and cause; answers that wait for the rest of a read
that takes several (R247, R335); the page of its last walk (R133). -/
structure PortTile where
  chains : List BoxChain := []
  marks : FMap Nat := []
  run : FMap Nat := []
  asked : Bool := false
  want : Option (AKind × Tgt × Nat) := none
  resp : Option (List Byte × Bool × Nat × Nat) := none
  parts : List UnitPart := []
  page : Option Nat := none
  deriving DecidableEq, Repr

/-- A buffer of a memory node (R113, R220): its count, fill tag, and in REPEAT mode the tokens stored. -/
structure NodeBuf where
  count : Nat := 0
  tag : Option W64 := none
  toks : List Token := []
  deriving DecidableEq, Repr

/-- A memory node: buffers, the buffer that fills, bytes written into it, the fill's tag; in REPEAT mode the buffer
that repeats, and whether the last panel left by an emission, until data follows it: marks that come late belong to that panel (R224). -/
structure MemNode where
  bufs : FMap NodeBuf := []
  wr : Nat := 0
  got : Nat := 0
  tag : Option W64 := none
  rep : Nat := 0
  late : Option Bool := none
  deriving DecidableEq, Repr

/-- An accumulator bank (R216, R218): INT32 typed or FP32, frozen, overflow, NaN, infinity; cells not listed are zero. -/
structure Bank where
  int_ : Bool := false
  frz : Bool := false
  ovf : Bool := false
  nv : Bool := false
  inf : Bool := false
  broken : Bool := false
  cells : FMap Nat := []
  deriving DecidableEq, Repr

/-- A row slot of an engine in routed mode (R229). -/
structure RowSlot where
  valid : Bool := false
  rowin : Bool := false
  tag : W64 := 0
  mask : List Nat := []
  cons : List Nat := []
  gate : FMap Nat := []
  row : List Byte := []
  poi : Bool := false
  deriving DecidableEq, Repr

/-- An operation in progress on an engine: the command, whether it has stopped, the tokens it has left to emit, the pairs
multiplied or tokens emitted (R217, R225, R437). -/
structure MeRun where
  d : Desc
  stop : Bool := false
  toks : List Token := []
  sent : Nat := 0
  deriving DecidableEq, Repr

/-- A matrix engine: its banks, KSL, queued commands with the numbers of their chains, the NEXT words of chains still to be read,
the operation in progress on each bank, routed mode with its slots, complete slots in the order they completed, the drain counter
(R89), its mark counter (R437), tokens of the first complete row leaving on OUT (R234), whether it is frozen. -/
structure Engine where
  bank0 : Bank := {}
  bank1 : Bank := {}
  ksl : Nat := 0
  q : List (Nat × Desc) := []
  nexts : List (Nat × W64 × Issuer) := []
  chains : Nat := 0
  run0 : Option MeRun := none
  run1 : Option MeRun := none
  routed : Bool := false
  slots : FMap RowSlot := []
  ready : List Nat := []
  drain : Nat := 0
  marks : Nat := 0
  out : List Token := []
  frozen : Option SiteFault := none
  deriving DecidableEq, Repr

/-- An armed task (R219, R220): its tag, handler, inputs (buffer or tile), and since when it is ready. -/
structure Task where
  tt : W64
  h : W64
  inputs : List (Bool × W64)
  ready : Option Nat := none
  deriving DecidableEq, Repr

/-- The tasks of a kiosk: slots, the slot that runs with its start cycle, task.arm commands that wait. -/
structure Kiosk where
  slots : FMap Task := []
  run : Option (Nat × Nat) := none
  q : List Desc := []
  deriving DecidableEq, Repr

/-- The ring settings of crs.ring (R227, R439). -/
structure Ring where
  mes : Nat
  nexp : Nat
  fmt : Nat
  npr : Nat
  out : Nat
  ldr : List Nat
  ovc : Nat
  sa : Int
  sb : Int
  ove : W16
  emap : W64
  rtab : W64
  dump : Option Nat
  wbase : W64
  deriving DecidableEq, Repr

/-- A region's Carousel station (R238 to R240): ring, queue, counters and what the last ring of the bell latched; `rmes` and `nexpm1` as RTST
shows them (R240), `incr` the cycle and engine of the last increment of a routing counter (R238). -/
structure Carousel where
  ring : Option Ring := none
  q : List Desc := []
  rcnt : FMap Nat := []
  rsum : FMap Nat := []
  dupsup : Nat := 0
  lapReady : Option Desc := none
  lap : Bool := false
  lerr : Bool := false
  drops : Nat := 0
  dups : Nat := 0
  latRcnt : FMap Nat := []
  latRsum : FMap Nat := []
  latBell : Nat := 0
  rmes : Nat := 0
  nexpm1 : Nat := 0
  incr : Nat × Nat := (0, 0)
  frozen : Option SiteFault := none
  deriving DecidableEq, Repr

/-- A Trellis cell of a context: its wiring record and its table, and whether each holds an uncorrectable error (R254 to R256). -/
structure Cell where
  sel : List W16 := [0x0800, 0x0800, 0x0800, 0x0800, 0x0800, 0x0800]
  tab : W64 := 0
  selEcc : Bool := false
  tabEcc : Bool := false
  deriving DecidableEq, Repr

/-- A command queued at a Trellis: the number of its chain, its descriptor, records or tables written so far, the tile of a counted
load in progress and its bytes. -/
structure TrlCmd where
  chain : Nat
  d : Desc
  prog : Nat := 0
  cur : Option (Nat × Nat) := none
  copy : TileCopy := {}
  deriving DecidableEq, Repr

/-- A run that has entered level 0: tokens it has still to emit, poisoned output planes. -/
structure TrlOut where
  d : Desc
  toks : List Token := []
  v : Nat := 0
  deriving DecidableEq, Repr

/-- A Trellis (R254, R263, R267): cells keyed by context × 4096 + level × 256 + cell, the plane store with its poison, the
queue, NEXT words of chains still to be read, the input tokens waiting on attach tracks (attach × 2 + track), planes taken by the
first run of the queue, the tokens of its next plane, the mark it took; runs that have entered; status; `endAt` is the place in the
queue of a command that a fault stopped, with its completion's V. -/
structure Trellis where
  cells : FMap Cell := []
  store : FMap (W128 × Bool) := []
  q : List TrlCmd := []
  nexts : List (Nat × W64 × Issuer) := []
  chains : Nat := 0
  inq : FMap (List Token) := []
  taken : Nat := 0
  part : List Token := []
  markIn : Option Token := none
  outs : List TrlOut := []
  actx : Nat := 0
  ldm : Nat := 0
  runs : Nat := 0
  pzr : Nat := 0
  endAt : Option (Nat × Nat) := none
  frozen : Option SiteFault := none
  deriving DecidableEq, Repr

/-- A replay unit (R442): its set-up, the replay count r, the table, the command that waits. -/
structure Replay where
  on : Bool := false
  root : Nat := 0
  k : Nat := 1
  lge : Nat := 1
  lvl : Nat := 0
  fld : Nat := 0
  lmap : List Nat := []
  r : Nat := 0
  frozen : Option SiteFault := none
  q : List Desc := []
  deriving DecidableEq, Repr

/-- A command at the configuration bus: its descriptor, the sites a load has written; whether a swap or barrier waits for stillness
(SWAIT), whether it has been performed or its region has arrived, and its V (R179, R182, R189). -/
structure CfgCmd where
  d : Desc
  done : Nat := 0
  waits : Bool := false
  arrived : Bool := false
  v : Nat := 0
  deriving DecidableEq, Repr

/-- The configuration bus and the Belvedere's registers (R180). -/
structure CfgUnit where
  q : List CfgCmd := []
  apid : Nat := 0
  lpid : Nat := 0
  flsh : Nat := 0
  deriving DecidableEq, Repr

/-- An entry of a TLK (R129, R135): page, leaf, pins, dead, last use. -/
structure TlkEntry where
  page : Nat
  leaf : W64
  l1 : Bool
  pins : Nat := 0
  dead : Bool := false
  used : Nat := 0
  deriving DecidableEq, Repr

/-- A TLK: entries, uses counted, the resume queue of KV mode, entries still to retry under a retrying mark with the iter
field's value (R245), `walked` while such a retry goes on. -/
structure Tlk where
  entries : FMap TlkEntry := []
  uses : Nat := 0
  resume : List (W64 × W32) := []
  retry : List (W64 × W32) := []
  walked : Option Nat := none
  deriving DecidableEq, Repr

end Sys2Proof.Machine
end

