-- ==== Sys2Proof/Machine/RegionTypes.lean ====
section
/-! DEFINITION. Regions, what a pre-emption saves of them, gangs, collectives, and the messages in flight between the station's
parts. -/

namespace Sys2Proof.Machine

/-- Where a fault of a region arose (R93, R94, R389). -/
inductive FaultSrc where
  | site (n : Nat)
  | core (k : Nat)
  | post (k : Nat)
  | mismatch
  | stackovf
  | stray
  | engine (j : Nat)
  | trellis
  | carousel
  | wedge
  | taskLong (k : Nat)
  | window (w : Nat)
  | port (pt : Nat)
  | replay (u : Nat)
  | cfgload
  | unit
  deriving DecidableEq, Repr

/-- A fault that waits for its record (R94), and the cycle in which it arose. -/
structure WaitFault where
  src : FaultSrc
  rcd : FaultRec
  cyc : Nat := 0
  deriving DecidableEq, Repr

/-- The fault a trap block handles, what the Pergola goes back to, whether an action was in progress when it was taken
(R93, R389), and the blocks the trap block has run. -/
structure TrapCtx where
  src : FaultSrc
  rcd : FaultRec
  resume : Phase
  inAction : Bool
  blks : List W64 := []
  deriving DecidableEq, Repr

/-- How a walk ends (R126); `wait` that it has not been made: the walker holds sixteen walks, or the table cannot be reached (R36, R130). -/
inductive WalkRes where
  | leaf (e : W64) (l1 : Bool)
  | fault (cause : Nat)
  | pending
  | wait
  deriving DecidableEq, Repr

/-- A translation that is withheld (R132, R134): what waits for it, its address, when it was first withheld, when the walker last walked it; and
what a later walk of it has brought, which its turn takes up: such a translation is withheld no more. -/
structure Withheld where
  key : Nat
  va : W64
  since : Nat
  last : Nat
  res : WalkRes := .pending
  deriving DecidableEq, Repr

/-- It concerns the page of an address, for a key. -/
def Withheld.is (w : Withheld) (key : Nat) (a : W64) : Bool := w.key == key && w.va.toNat / 65536 == a.toNat / 65536

/-- A region's parts: the gang that runs on it, the ISO reservation that holds it, XROOT (R121), XCTL (R133), the tag layout
(R171), allocators as (ISS, RET), and the cycle and site of the latest draw from each (R173), the colour pool (R174), CMT bitmaps (R242), sites, TLKs, memory nodes, port tiles,
engines, kiosks, Carousel, Trellis, replay units, configuration; withheld translations (R132, R134), walks in progress, the walker's cache of valid
table entries by their addresses, the latest first (R127); faults waiting (R94); `lead` the lead port and track, `leadPos` its data tokens; `moved` the cycle of the
last movement, none while the Belvedere is latched still; `wedge` the cycle from which F_WEDGE counts; `ctags` commands issued and not yet ended (R200); pre-emption marks (R85) and the liveness record of the block that stopped it (R86);
`ended` (R200); `store` the block store (R199); `collMaps` the contributor bitmaps of collective fault tokens, by tag (R251). -/
structure Region where
  gang : Option Nat := none
  resv : Option Nat := none
  xroot : W64 := 0
  pglim : Nat := 20
  miss : Nat := 0
  layout : List TagField := []
  allocs : FMap (Nat × Nat) := []
  drawn : FMap (Nat × Nat) := []
  colours : FMap W64 := []
  cmt : FMap (List Nat) := []
  lead : Nat × Nat := (0, 0)
  leadPos : Nat := 0
  withheld : List Withheld := []
  walks : List (Nat × W64) := []
  wcache : List (Nat × W64) := []
  faults : List WaitFault := []
  trap : Option TrapCtx := none
  sites : FMap Site := []
  tlks : FMap Tlk := []
  ports : FMap PortTile := []
  nodes : FMap MemNode := []
  engs : FMap Engine := []
  kiosks : FMap Kiosk := []
  parser : Parser := {}
  crs : Carousel := {}
  trl : Trellis := {}
  reps : FMap Replay := []
  cfg : CfgUnit := {}
  moved : Option Nat := none
  wedge : Nat := 0
  cmds : Nat := 0
  stopped : Option Phase := none
  live : Option Liveness := none
  closed : Bool := false
  quiet : Bool := false
  ended : Bool := false
  store : List (Nat × List W64) := []
  skips : FMap Nat := []
  latSkips : FMap Nat := []
  collMaps : FMap Nat := []
  deriving DecidableEq, Repr

/-- What is saved of a region (R86, R134, R188, R241): the parse, the resume point, streams (port tiles with their counters), engines, the
Carousel station, allocators with their retired values, chains with the requests of their held entries, the g-registers and scratch
ranges named, with the cells of those bytes by offset and the poison of their words, the PIDs of both planes, configuration commands, commands
not ended, whether the region has ended, window commands; under a park the whole region, the g-files of its kiosks and the blocks that
they re-execute (R131), with what committed blocks have laid aside behind a withheld translation. `from_` is the region it was saved from. -/
structure Saved where
  from_ : Nat := 0
  parser : Parser := {}
  resume : Phase := .idle
  ports : FMap PortTile := []
  leadPos : Nat := 0
  engs : FMap Engine := []
  crs : Carousel := {}
  allocs : FMap (Nat × Nat) := []
  cmt : FMap (List Nat) := []
  chains : FMap ChainSt := []
  reqs : FMap (List MemReq) := []
  g : FMap GReg := []
  ranges : List (Nat × Nat) := []
  cells : Memory := []
  poi : List Nat := []
  pids : FMap (Nat × Nat) := []
  cfg : CfgUnit := {}
  cmds : Nat := 0
  ended : Bool := false
  wq : FMap (List Desc) := []
  whole : Option Region := none
  kg : FMap (FMap GReg) := []
  kph : FMap Phase := []
  outqs : FMap (List Out) := []
  deriving DecidableEq, Repr

/-- A train on the Carousel (R232): expert, copy, copies, core group, scale, its place on the ring, its panels' bytes, whether a word
is uncorrectable (which only an error of a link can set). -/
structure Train where
  exp : Nat
  copy : Nat
  ncopy : Nat
  grp : Nat
  scale : Int
  place : Nat
  bytes : List Byte := []
  poi : Bool := false
  deriving DecidableEq, Repr

/-- A lap of a gang (R232): by core group the trains its loader has still to send, as (expert, copy, copies), which hold what it read of
EMAP and RTAB; trains on the ring in order of arrival; whether the lap has met an error. -/
structure Lap where
  todo : FMap (List (Nat × Nat × Nat)) := []
  trains : List Train := []
  err : Bool := false
  deriving DecidableEq, Repr

/-- A launch (R67, R76): its id, session, plan, queue, group size and key, arguments; the number of its co-schedule group once that is
complete, when it was queued, whether it is offered as if it were INT (R76); a pre-empted plan's saved regions in gang order, and its lap (R241); the die of its queue
where that is settled (R78, R82); activations started before a park, and the instant of the first grant (R80). -/
structure Launch where
  lid : W64 := 0
  sid : Nat := 0
  ph : Nat := 0
  q : Nat := 0
  gsz : Nat := 1
  gkey : W64 := 0
  group : Nat := 0
  args : List W64 := []
  since : Nat := 0
  promoted : Bool := false
  saved : Option (List Saved) := none
  lap : Option Lap := none
  die : Option Nat := none
  acts : Nat := 0
  t0 : Option Nat := none
  deriving DecidableEq, Repr

/-- An ISO reservation (R80): T0, the instant of its next activation, its parameters, activations started, whether one runs. -/
structure Iso where
  t0 : Nat := 0
  next : Nat
  period : Nat
  budget : Nat
  nact : Nat
  started : Nat
  running : Bool
  cbw : Nat
  deriving DecidableEq, Repr

/-- A gang (R1, R74): its regions, the launch and plan it runs, the die of its queue, when it started, the pre-emption request's time (R85), whether it parks with the record of the fault (R134), the lap. -/
structure Gang where
  regions : List Nat := []
  lid : W64 := 0
  sid : Nat := 0
  trap : W64 := 0
  launch : Launch := {}
  die : Nat := 0
  started : Nat := 0
  drain : Nat := 0
  wdg : Nat := 16
  pre : Option Nat := none
  park : Option FaultRec := none
  iso : Option Iso := none
  lap : Option Lap := none
  deriving DecidableEq, Repr

/-- Regions that a plan has left and that are released once their cores' write-backs are performed (R150), and the END that is sent then: session,
LID, outcome. -/
structure Parting where
  regions : List Nat
  end_ : Option (Nat × W64 × Nat) := none
  deriving DecidableEq, Repr

/-- A collective instance at a participant (R444 to R446): its command, its region, the time of its first contribution, the table
at PTAB, contributions by index, those that are fault tokens, the rows of its own source; its own contribution has been sent; tokens of the result still to leave,
and whether the result or the failure is on its way. -/
structure Coll where
  d : Desc := {}
  r : Nat := 0
  opened : Option Nat := none
  ptab : List Nat := []
  got : FMap (List Byte) := []
  bad : List Nat := []
  rows : List Byte := []
  fabric : List Token := []
  sent : Bool := false
  out : Bool := false
  failed : Bool := false
  deriving DecidableEq, Repr

/-- Messages in flight. -/
inductive NetMsg where
  | plain (a : Access)
  | presence (a : Access)
  | deferred (a : Access)
  | atomic (a : Access)
  | release (a : Access)
  | acquire (a : Access)
  | chain (a : Access)
  | chained (a : Access)
  | crel (a : Access)
  | counted (a : Access) (seq : Nat)
  | remote (a : Access) (deadline : Nat) (fsq : Nat)
  | lineReq (core epoch : Nat) (var : Nat)
  | notice (w seq : Nat) (to_ : Nat)
  | reply (core g : Nat) (v : W64) (poi : Bool)
  | fault (core : Nat) (rcd : FaultRec) (g : Option Nat)
  | tact (r site : Nat) (e : ActEntry)
  | inval (core : Nat) (lo hi : Nat) (regions : List Nat) (started : Bool) (drains : List (Nat × Nat))
  | removal (r u site side : Nat) (t : Token)
  | arc (r y : Nat) (t : W64)
  | contrib (r kind npart ty nel : Nat) (cid : W64) (idx : Nat) (data : List Byte) (fault : Bool) (since : Nat)
  | openRec (src : BitVec 128) (port : Nat) (nonce : W64) (sid : Nat) (since : Nat) (reply : List Byte)
  deriving DecidableEq, Repr

end Sys2Proof.Machine
end

