-- ==== Sys2Proof/Machine/PackageTypes.lean ====
section
/-! DEFINITION. The package and what faces the outside world: the clamp (R17, R20), boot and keys (R40 to R46), ports and SXT
channels (R21 to R33), flit links (R34 to R36), sessions and plans (R57 to R73, R302 to R317), and the inputs that wait to be
taken. -/

namespace Sys2Proof.Machine

/-- The clamp (R17, R20): CLMPST's fields and since when limits have been exceeded or cleared. -/
structure Clamp where
  st : Nat := 0
  steps : Nat := 0
  half : Bool := false
  isov : Bool := false
  temph : Bool := false
  pwrh : Bool := false
  pwr : Nat := 0
  tmax : Nat := 0
  temps : List Nat := []
  excess : Option Nat := none
  clear : Option Nat := none
  deriving DecidableEq, Repr

/-- A sample of the sensors: package power in W, each sensor in 1/16 °C, whether coolant flow is lost. -/
structure Sample where
  watts : Nat
  temps : List Nat
  flowLost : Bool := false
  deriving DecidableEq, Repr

/-- An Ethernet port (R21, R22, R25): `malformed` counts the malformed frames of the whole port or of half A, `malformedB` those of half B;
`addr` is the IPv6 source address of what it sends (R47). -/
structure Port where
  en : Bool := false
  split : Bool := false
  lnka : Bool := false
  lnkb : Bool := false
  mtu : Nat := 9216
  malformed : Nat := 0
  malformedB : Nat := 0
  addr : BitVec 128 := 0
  deriving DecidableEq, Repr

/-- The fuses of the Ethernet egress (R21, R47): the prefix of source addresses, its length in bits, and the bytes a port sends in 1 µs. -/
structure EgressFuses where
  prefix_ : BitVec 128 := 0
  plen : Nat := 64
  rate : Nat := 100000
  deriving DecidableEq, Repr

/-- One direction of a flit link (R34 to R36): the sender's next LSQ, replay buffer and flits to resend; the receiver's
expected LSQ, flits passed up, retry requests sent; retry requests counted for one LSQ, failed retrainings, whether it retrains, whether it
has left service. -/
structure Link where
  next : Nat := 0
  replay : List (Nat × BitVec 112) := []
  resend : List (Nat × BitVec 112) := []
  expect : Nat := 0
  passed : List (BitVec 112) := []
  asked : List Nat := []
  last : Nat := 0
  count : Nat := 0
  fails : Nat := 0
  training : Bool := false
  down : Bool := false
  deriving DecidableEq, Repr

/-- The boot state and the fuses (R40 to R44); `romX` is the execute-only protection of the boot-ROM region, set and locked by step 6. -/
structure Boot where
  done : Bool := false
  slot : Nat := 0
  alt : Bool := false
  fail : Bool := false
  lock : Bool := false
  romX : Bool := false
  sver : W64 := 0
  floor : W64 := 0
  blowing : Option (W64 × Nat) := none
  deriving DecidableEq, Repr

/-- A quote asked of the key unit (R46): nonce, firmware data, and the session and command tag that ask for it. -/
structure QuoteReq where
  nonce : List Byte
  fw : List Byte
  sid : Nat := 0
  ctag : Nat := 0
  deriving DecidableEq, Repr

/-- The key unit (R45, R46): MREG0 to MREG3, requests queued in order with the head being signed, its body, extends that
wait for the quote, quotes made, public-key reads, requests refused. -/
structure KeyUnit where
  mreg : List (List Byte) := []
  q : List QuoteReq := []
  body : Option (List Byte) := none
  ext : List (Nat × List Byte) := []
  quotes : List (List Byte × List Byte) := []
  reads : List (List Byte) := []
  refused : Nat := 0
  deriving DecidableEq, Repr

/-- A frame the station sends (R23): `src` and `at_` are its IPv6 source address and when it left (R47), `compl` marks the frame that ends a
completion event (R58). -/
structure Frame where
  src : BitVec 128 := 0
  at_ : Nat := 0
  compl : Bool := false
  typ : Nat
  mkf : Bool := false
  last : Bool := false
  cls : Bool := false
  fsq : Nat := 0
  ack : Nat := 0
  crd : Nat := 0
  chn : Nat := 0
  sid : Nat := 0
  pos : W64 := 0
  die : Nat := 0
  win : Nat := 0
  nmk : Nat := 0
  tile : Option Nat := none
  payload : List Byte := []
  deriving DecidableEq, Repr

/-- A frame sent and not yet acknowledged: when it was last sent, and how often it has been resent without progress (R27). -/
structure Sent where
  frame : Frame
  at_ : Nat
  tries : Nat := 0
  deriving DecidableEq, Repr

/-- A channel (R26, R27, R29 to R33, R66): the next FSQ expected, the last ACK taken with its CRD, how many frames more the other end
has been granted, the next FSQ to send, frames to send and frames unacknowledged, acceptances to acknowledge and when that is due, the last NAK, the
position in the stream, the EIX of the last mark taken, the next tile and the next mark entry to
send, CLS seen and sent, the command being assembled, the remote time limit in µs. -/
structure Chan where
  sid : Nat := 0
  chn : Nat := 0
  dir : Nat := 3
  esz : Nat := 1
  die : Nat := 0
  win : Nat := 0
  rdc : Nat := 0
  peer : W64 := 0
  port : Nat := 0
  e : Nat := 0
  a : Nat := 0xFFFF
  crd : Nat := 1024
  granted : Nat := 1024
  tx : Nat := 0
  unsent : List Frame := []
  unacked : List Sent := []
  pend : Nat := 0
  due : Option Nat := none
  nakE : Option (Nat × Nat) := none
  pos : W64 := 0
  eix : Nat := 0
  sent : Nat := 0
  marks : Nat := 0
  clsRx : Bool := false
  clsTx : Bool := false
  msg : List Byte := []
  limit : Nat := 200
  deriving DecidableEq, Repr

/-- A host command that waits to be performed (R57): opcode, tag, body; whether it is refused as malformed, or as one too many (R58); `quiet`
marks the CLOSE that the station itself performs (R63), `lone` one that does not wait for the other end, `begun` an UNMAP or CLOSE that waits for windows to close. -/
structure Cmd where
  opc : Nat
  ctag : Nat
  body : List Byte
  bad : Bool := false
  busy : Bool := false
  quiet : Bool := false
  lone : Bool := false
  begun : Bool := false
  deriving DecidableEq, Repr

/-- The grammar of a plan (R309, R336, R337). -/
structure Grammar where
  nnt : Nat := 0
  start : Nat := 0
  leadPt : Nat := 0
  leadTrk : Nat := 0
  rcv : Bool := false
  lvl : Nat := 3
  reset : Nat := 0
  pois : List Nat := []
  cells : List (List Nat) := []
  prods : List (Nat × List Nat) := []
  acts : List W64 := []
  deriving DecidableEq, Repr

/-- A plane section (R310). -/
structure PlaneSec where
  pid : Nat := 0
  x0 : Nat := 0
  y0 : Nat := 0
  w : Nat := 1
  h : Nat := 1
  init : Bool := false
  va : W64 := 0
  deriving DecidableEq, Repr

/-- A range of virtual addresses that a session holds: base, bytes, the leaves' KIND and fields, rights, and the memory it
maps for its access-table entries (R65, R314). -/
structure Segment where
  va : Nat
  len : Nat
  kind : Nat
  die : Nat
  win : Nat
  base : Nat
  rights : Nat
  chan : Nat := 0
  deriving DecidableEq, Repr

/-- A loaded plan (R74, R305, R314). -/
structure Plan where
  gang : Nat := 1
  home : Nat := 15
  wdg : Nat := 16
  drain : Nat := 1
  period : Nat := 0
  budget : Nat := 0
  nact : Nat := 0
  cbw : Nat := 0
  trap : W64 := 0
  feat : BitVec 128 := 0
  gram : Grammar := {}
  planes : List PlaneSec := []
  layout : List TagField := []
  wins : List Nat := []
  deriving DecidableEq, Repr

/-- A session (R57 to R72); `tables` are the places of its page tables in HBM stack 0. -/
structure Session where
  g : BitVec 128 := 0
  src : BitVec 128 := 0
  srcPort : Nat := 0
  port : Nat := 0
  keep : Nat := 0
  heard : Nat := 0
  cmds : List Cmd := []
  open_ : Nat := 0
  plans : FMap Plan := []
  nextPh : Nat := 0
  nextLid : Nat := 1
  held : List Launch := []
  parked : List Launch := []
  live : List (W64 × Nat) := []
  segs : List Segment := []
  root : Nat := 0
  tables : List Nat := []
  ring : List FaultRec := []
  lost : Nat := 0
  closing : Bool := false
  deriving DecidableEq, Repr

/-- What a register write asks: by a Lodge core or not, the number, the value, the region it concerns. -/
structure RegReq where
  lodge : Bool
  num : Nat
  r : Nat
  v : W64
  deriving DecidableEq, Repr

/-- What Thiben does of its own, outside any command of a host (R33, R38, R53, R62; log 19): it sets L, the remote time limit of a channel in µs,
the source address of a port, writes bytes of the SPI device at an offset, or rings the snapshot bell. -/
inductive LodgeAct where
  | policy (l : BitVec 128)
  | limit (chan us : Nat)
  | addr (port : Nat) (a : BitVec 128)
  | spi (off : Nat) (bs : List Byte)
  | bell
  deriving DecidableEq, Repr

/-- Where an error of stored data shows (R55): a byte of memory, a g-register of a core, a bank of an engine, the context's cell table or wiring
record of a Trellis, the head of a queue of a site, the i-th train on the ring of a gang (R232), a
stored plane of a Trellis, the w-th 64-bit word of a line of a core's data cache or of a buffer of a memory node, a row of an engine's row store, the
q-th token of an entry of a matching store. -/
inductive ErrSite where
  | mem (ma : Nat)
  | reg (core n : Nat)
  | bank (r j b : Nat)
  | table (r cell : Nat)
  | wiring (r cell : Nat)
  | queue (r n q : Nat)
  | train (g i : Nat)
  | plane (r n : Nat)
  | line (core i w : Nat)
  | buffer (r n i w : Nat)
  | row (r j i : Nat)
  | entry (r n i q : Nat)
  deriving DecidableEq, Repr

/-- An error that ECC finds: correctable or not (R55). -/
structure EccErr where
  site : ErrSite
  hard : Bool
  deriving DecidableEq, Repr

/-- The inputs that wait for the rows without operands, oldest first: frames with the port they arrived on, sensor samples,
edges of BELL_N with the time held low in ns, link changes, MCTP requests with the 7-bit address they name, flits as (link, flit, LSQ, CRC good), retry
requests as (link, LSQ), register writes, access-entry writes by the Lodge as (target, slot, word 0, word 1), key requests
as (from the boot ROM, register, digest), quote requests, public-key reads, mailbox messages by Lodge core, blocks whose residue check
fails by core (R56), acts of Thiben, errors that ECC finds. Ports 4 to 7 are the halves B of ports 0 to 3 (R21). -/
structure Inputs where
  frames : List (Nat × RawFrame) := []
  samples : List Sample := []
  bells : List Nat := []
  links : List (Nat × Nat × Bool) := []
  mctp : List (Nat × MctpReq) := []
  flits : List (Nat × BitVec 112 × Nat × Bool) := []
  retries : List (Nat × Nat) := []
  regs : List RegReq := []
  entries : List (Nat × Nat × W64 × W64) := []
  extends_ : List (Bool × Nat × List Byte) := []
  quotes : List QuoteReq := []
  keyReads : Nat := 0
  mailbox : List Nat := []
  residue : List Nat := []
  lodge : List LodgeAct := []
  errors : List EccErr := []
  deriving DecidableEq, Repr

/-- Answers on the SMBus (R37): what was asked, and the value answered, none for a type that is not answered. -/
structure MctpAns where
  req : MctpReq
  val : Option Nat
  deriving DecidableEq, Repr

end Sys2Proof.Machine
end

