-- ==== Sys2Proof/Machine/State.lean ====
section
/-! DEFINITION. The state of the station, as plain data, and the state right after reset. -/

namespace Sys2Proof.Machine

/-- Why the model stops. Every fault of R96 is a state of the machine and no stop of the model. -/
inductive Fault where
  /-- Raised by no meaning. -/
  | none
  deriving DecidableEq, Repr

/-- Why an instruction has no meaning. -/
inductive Refusal where
  /-- Raised by an arm of exec whose instruction is not modelled yet: safe. -/
  | notModelled (mnemonic : String)
  deriving DecidableEq, Repr

/-- The station. `ns` and `cyc` are the time; `free` numbers the free values (the model's own field); `agenda` names the
steps that come next, each with the nanoseconds and cycles that pass before it (the model's own field: the order in which the
station's agents and the outside world move, which the spec leaves open); `cur` is the block core that acts when the agenda is
empty (the model's own field). `mem` holds every byte of the Commons, HBM, scratchpads, code store and SPI device (Ops), `poison` the
poisoned 4-byte words (R55), `full` the full presence words (R146). `access`, `ceil`, `ceilx`, `refusals`, `refLost` belong to the access
tables (R48 to R52). `wins` holds the window descriptors, keyed by die × 4096 + number (R98, R99), with `wq` the window
commands queued at each (R422). `gapLim`, `gaps` are GAPST's (R154). `bell`, `bellLast`, `bellEnd` belong to the snapshot bell (R53,
R39). `commons` and `hbm` are the ranges of each die's Commons and of each stack that the Lodge has given out (R65,
R314). `egress` holds the fuses of the Ethernet egress (R47), `clampEvents` the clamp events that the management unit has not yet answered
(R37), `eccCounts` the error counters (R55), `lodgeFaults` the fault records of the Lodge cores (R56), `arrived` the accesses that
wait at their targets, whose tables have permitted them, in their order of arrival, each with its Commons cycle (R51, R52, R111), `parting` the
regions of plans that are over whose dirty lines are still to be written (R150). -/
structure State where
  ns : Nat := 0
  cyc : Nat := 0
  free : Nat := 0
  agenda : List (Nat × Nat × Instr) := []
  cur : CoreId := .pergola 0
  inputs : Inputs := {}
  mem : Memory := []
  poison : List Nat := []
  full : List Nat := []
  wins : FMap Window := []
  wq : FMap (List Desc) := []
  access : FMap (W64 × W64) := []
  ceil : FMap (W64 × W64) := []
  ceilx : List Nat := []
  refusals : FMap (List (Nat × Nat × AKind)) := []
  refLost : FMap Nat := []
  cores : FMap Core := []
  regions : FMap Region := []
  gangs : FMap Gang := []
  nextGang : Nat := 1
  queues : FMap (List Launch) := []
  rrq : FMap Nat := []
  groups : Nat := 0
  chains : FMap ChainSt := []
  gapLim : List Nat := [50, 50, 50, 50]
  gaps : List Nat := [0, 0, 0, 0]
  sync : FMap (List SyncRec) := []
  net : List NetMsg := []
  colls : FMap Coll := []
  collClosed : List (Nat × W64 × Nat) := []
  clamp : Clamp := {}
  boot : Boot := {}
  keys : KeyUnit := { mreg := List.replicate 4 (List.replicate 64 0) }
  ports : List Port := List.replicate 4 {}
  egress : EgressFuses := {}
  links : FMap Link := []
  mctpOut : List MctpAns := []
  clampEvents : List W64 := []
  sessions : FMap Session := []
  chans : FMap Chan := []
  policy : BitVec 128 := 0x1FF
  wire : List (Nat × Frame) := []
  bell : Nat := 0
  bellLast : Option Nat := none
  bellEnd : Nat := 0
  commons : FMap (List (Nat × Nat)) := []
  hbm : FMap (List (Nat × Nat)) := []
  mailbox : List Nat := []
  eccCounts : FMap Nat := []
  lodgeFaults : List FaultRec := []
  arrived : List (Arrival × Nat) := []
  parting : List Parting := []
  deriving DecidableEq, Repr

/-- The station as the rise of AUX finds it: nothing booted, no session open, no gang granted, memory with nothing listed. -/
def State.reset : State := {}

end Sys2Proof.Machine
end

