-- ==== Sys2Proof/Machine/Ops.lean ====
section
/-! DEFINITION. Named operations over the state: cores, regions, sites, windows, messages; fault numbers and records; the
faults that wait for their records (R50, R94 to R96). -/

namespace Sys2Proof.Machine

/- Names of places. -/

/-- The key of a block core: ten for each region (the Pergola, kiosks 0 to 8), then the Lodge cores from 640. -/
def coreKey : CoreId → Nat
  | .pergola r => r * 10
  | .kiosk r k => r * 10 + 1 + k
  | .lodge c => 640 + c

/-- The core of a key. -/
def coreId (k : Nat) : CoreId :=
  if 640 ≤ k then .lodge (k - 640) else if k % 10 == 0 then .pergola (k / 10) else .kiosk (k / 10) (k % 10 - 1)

def coreKind : CoreId → CoreKind
  | .pergola _ => .pergola
  | .kiosk _ _ => .kiosk
  | .lodge _ => .lodge

/-- The region of a core's key, if it has one. -/
def keyRegion (k : Nat) : Option Nat := if k < 640 then some (k / 10) else none

/-- The die a core stands on: 4 is the I/O die. -/
def keyDie (k : Nat) : Nat := if k < 640 then k / 160 else 4

/-- Master id of unit u of region r (R50). -/
def regionMid (r u : Nat) : Nat := r / 16 * 8192 + r % 16 * 256 + u

/-- Master id of a core (R50). -/
def coreMid (k : Nat) : Nat :=
  match coreId k with
  | .pergola r => regionMid r 40
  | .kiosk r 8 => regionMid r 41
  | .kiosk r j => regionMid r (32 + j)
  | .lodge c => 4 * 8192 + 64 + c

/-- Master ids of the SXT ingress, the snapshot unit, the key unit (R50). -/
def sxtMid : Nat := 4 * 8192 + 256

/- Parts of the state. -/

def State.core (s : State) (k : Nat) : Core := fgetD s.cores k {}
def State.setCore (s : State) (k : Nat) (c : Core) : State := { s with cores := fset s.cores k c }
def State.region (s : State) (r : Nat) : Region := fgetD s.regions r {}
def State.setRegion (s : State) (r : Nat) (x : Region) : State := { s with regions := fset s.regions r x }
def State.modRegion (s : State) (r : Nat) (f : Region → Region) : State := s.setRegion r (f (s.region r))
def State.modCore (s : State) (k : Nat) (f : Core → Core) : State := s.setCore k (f (s.core k))
def State.win (s : State) (w : Nat) : Window := fgetD s.wins w {}
def State.setWin (s : State) (w : Nat) (x : Window) : State := { s with wins := fset s.wins w x }
def State.site (s : State) (r n : Nat) : Site := fgetD (s.region r).sites n {}
def State.setSite (s : State) (r n : Nat) (x : Site) : State :=
  s.modRegion r (fun g => { g with sites := fset g.sites n x })

/-- The core that acts. -/
def State.curKey (s : State) : Nat := coreKey s.cur
def State.curCore (s : State) : Core := s.core s.curKey

/-- Send a message. -/
def State.send (s : State) (m : NetMsg) : State := { s with net := s.net ++ [m] }

/-- Remove message k. -/
def State.drop (s : State) (k : Nat) : State := { s with net := s.net.eraseIdx k }

/-- Replace message k. -/
def State.putMsg (s : State) (k : Nat) (m : NetMsg) : State := { s with net := s.net.set k m }

/-- The next free number of the machine: what the opaque free values are applied to. -/
def State.tick (s : State) : State := { s with free := s.free + 1 }

/- The map of memory: the bytes of the Commons of die d, of HBM, of the scratchpads, of the Lodge's code store, of the SPI
device stand at these addresses of the one memory. -/

def cmnAddr (die a : Nat) : Nat := die * 2 ^ 30 + a
def hbmAddr (a : Nat) : Nat := 2 ^ 40 + a
def scrAddr (r off : Nat) : Nat := 2 ^ 41 + r * 2 ^ 23 + off
def codeAddr (off : Nat) : Nat := 2 ^ 42 + off
def spiAddr (off : Nat) : Nat := 2 ^ 43 + off

/-- Numbers of the faults (R96). -/
def FCode.num : FCode → Nat
  | .illop => 0x0101 | .illspec => 0x0102 | .rsvd => 0x0103 | .blkinc => 0x0104 | .undecl => 0x0105
  | .otwice => 0x0106 | .poison => 0x0107 | .priv => 0x0108 | .divz => 0x0109
  | .tagdup => 0x0201 | .tagskew => 0x0202 | .markskew => 0x0203
  | .rdexcess => 0x0301 | .rdshort => 0x0302 | .cntpart => 0x0303
  | .access => 0x0401 | .presence => 0x0402 | .gap => 0x0403 | .tsfull => 0x0404 | .noncanon => 0x0405
  | .straddle => 0x0406 | .xlate => 0x0407 | .eccu => 0x0408 | .remtmo => 0x0409 | .align => 0x040A | .pgtmo => 0x040B
  | .stray => 0x0501 | .cfgop => 0x0502 | .fanin => 0x0503
  | .mismatch => 0x0601 | .stackovf => 0x0602
  | .wedge => 0x0701 | .drainovr => 0x0702 | .tasklong => 0x0703 | .colltmo => 0x0704 | .budget => 0x0705
  | .trapnest => 0x0706 | .faultovf => 0x0707
  | .desc => 0x0801 | .winstate => 0x0802

def FCode.all : List FCode :=
  [.illop, .illspec, .rsvd, .blkinc, .undecl, .otwice, .poison, .priv, .divz, .tagdup, .tagskew, .markskew, .rdexcess, .rdshort, .cntpart,
   .access, .presence, .gap, .tsfull, .noncanon, .straddle, .xlate, .eccu, .remtmo, .align, .pgtmo, .stray, .cfgop, .fanin, .mismatch,
   .stackovf, .wedge, .drainovr, .tasklong, .colltmo, .budget, .trapnest, .faultovf, .desc, .winstate]

/-- The fault of a number, for a fault token that comes from outside. -/
def FCode.ofNum (n : Nat) : FCode := (FCode.all.find? (fun c => c.num == n)).getD .access

/-- The fault of a refusal at decode (R320, R324). -/
def rejectCode : Reject → FCode
  | .illop => .illop | .priv => .priv | .illspec => .illspec | .undecl => .undecl | .rsvd => .rsvd

/-- The eight words of a fault record (R95). -/
def FaultRec.words (f : FaultRec) : List W64 :=
  [ BitVec.ofNat 64 (f.code + f.mid * 2 ^ 16 + f.x * 2 ^ 32 + f.y * 2 ^ 40 + f.flg * 2 ^ 48 + f.yng * 2 ^ 56),
    f.tag, f.opa, f.opb, BitVec.ofNat 64 (f.ord % 2 ^ 40), f.pos, f.time,
    BitVec.ofNat 64 (f.aux.toNat + f.lidl.toNat * 2 ^ 32) ]

/-- A record with what a region fills into each of its records: ORD, POS, TIME, LIDL (R95). -/
def State.stamp (s : State) (r : Nat) (f : FaultRec) : FaultRec :=
  let g := s.region r
  { f with
    ord := g.parser.ord
    pos := BitVec.ofNat 64 g.leadPos
    time := BitVec.ofNat 64 s.ns
    lidl := (match g.gang with
      | some n => (fgetD s.gangs n {}).lid.setWidth 32
      | none => 0) }

/-- The F_XLATE cause and the instruction's index share AUX (R126); other codes carry the index alone (R347). -/
def auxOf (code cause idx : Nat) : BitVec 32 :=
  if code == FCode.xlate.num then BitVec.ofNat 32 (cause % 256 + idx % 128 * 256) else BitVec.ofNat 32 idx

/-- The CID of an instance that closed at a region within the last second (R444, R446). -/
def cidClosed (s : State) (r : Nat) (cid : W64) : Bool := s.collClosed.any (fun x => x.1 == r && x.2.1 == cid && s.ns < x.2.2 + 1000000000)

end Sys2Proof.Machine
end

