-- ==== Sys2Proof/Machine/Access.lean ====
section
/-! DEFINITION. Accesses at their targets: access tables (R48 to R52), the tiles of a window (R98 to R111), plain reads and
writes with their poison (R55, R103). -/

namespace Sys2Proof.Machine

/-- The access table that checks a memory address, and the address as its entries count it (R49, R51): Commons bank group
die × 64 + group, HBM channel 256 + stack × 32 + channel. Scratchpad and code store have none. -/
def tableOf (ma : Nat) : Option (Nat × Nat) :=
  if ma < 2 ^ 32 then some (ma / 2 ^ 30 * 64 + ma % 2 ^ 30 / 1024 % 64, ma % 2 ^ 30)
  else if 2 ^ 40 ≤ ma && ma < 2 ^ 41 then
    let p := ma - 2 ^ 40
    some (256 + p / 2 ^ 36 * 32 + p % 2 ^ 36 / 4096 % 32, p % 2 ^ 36)
  else none

/-- The Lodge mailboxes, the SXT egress and the snapshot unit as targets. -/
def mailboxTable : Nat := 512
def egressTable : Nat := 513
def snapTable : Nat := 514

/-- The rights an access kind needs, as bits of word 0 of an entry (R51). -/
def rightsOf : AKind → Nat
  | .read | .readCounted => 2
  | .write => 4
  | .fetch => 8
  | .cfill => 4 + 16
  | .cread => 2 + 16
  | .chRead => 2 + 32
  | .chWrite => 4 + 32
  | .atomic => 2 + 4 + 64
  | .pRead => 2 + 128
  | .pWrite => 4 + 128

def entryValid (e : W64 × W64) : Bool := e.1.getLsbD 0
def entryBase (e : W64 × W64) : Nat := nbits e.1.toNat 47 12
def entryLimit (e : W64 × W64) : Nat := nbits e.2.toNat 47 12
def entryMid (e : W64 × W64) : Nat := nbits e.1.toNat 63 48
def entryMask (e : W64 × W64) : Nat := nbits e.2.toNat 63 48
def entryRights (e : W64 × W64) : Nat := nbits e.1.toNat 7 0

/-- The entry matches the master and its window holds the n bytes at a (R49, R51). -/
def entryCovers (e : W64 × W64) (mid a n : Nat) : Bool :=
  entryValid e && (mid &&& entryMask e) == (entryMid e &&& entryMask e) &&
  entryBase e * 4096 ≤ a && a + n ≤ (entryLimit e + 1) * 4096

/-- The first entry, from index i on, that covers the access. -/
def firstEntry (t : FMap (W64 × W64)) (key mid a n : Nat) : Nat → Nat → Option (W64 × W64)
  | _, 0 => none
  | i, k + 1 =>
    match fget t (key * 64 + i) with
    | some e => if entryCovers e mid a n then some e else firstEntry t key mid a n (i + 1) k
    | none => firstEntry t key mid a n (i + 1) k

/-- A target permits an access: the lowest covering entry holds every right needed (R51). -/
def permits (s : State) (target a n : Nat) (kind : AKind) (mid : Nat) : Bool :=
  match firstEntry s.access target mid a n 0 64 with
  | some e => entryRights e &&& rightsOf kind == rightsOf kind
  | none => false

/-- Log a refusal in the target's ring of sixteen, counting what is overwritten (R51). -/
def logRefusal (s : State) (target mid a : Nat) (kind : AKind) : State :=
  let ring := fgetD s.refusals target []
  if ring.length < 16 then { s with refusals := fset s.refusals target (ring ++ [(mid, a, kind)]) }
  else
    { s with
      refusals := fset s.refusals target (ring.drop 1 ++ [(mid, a, kind)])
      refLost := fset s.refLost target (fgetD s.refLost target 0 + 1) }

/- The table of window descriptors (R98, R99). -/

/-- The place of a die's 4,096 descriptors, 64 bytes each, in its Commons: above the 768 MiB of the bank groups. DESIGN CHOICE, log 45. -/
def descBase : Nat := 0x30000000

/-- The window whose descriptor holds the byte at a memory address, and the byte's place there. -/
def descAt (ma : Nat) : Option (Nat × Nat) :=
  let o := ma % 2 ^ 30 - descBase
  if ma < 2 ^ 32 && descBase ≤ ma % 2 ^ 30 && o < 2 ^ 18 then some (ma / 2 ^ 30 * 4096 + o / 64, o % 64) else none

/-- NCNT (R99). -/
def ncnt (w : Window) : Nat := (w.tiles.filter (fun t => t.2.st == .cnt)).length

/-- TAIL (R99): the lowest sequence held, or HEAD. -/
def tailOf (w : Window) : Nat := (w.tiles.head?.map (·.1)).getD w.head

def WinSt.num : WinSt → Nat
  | .closed => 0
  | .opened => 1
  | .retiring => 2

/-- The eight words of a window's descriptor (R99). -/
def Window.words (w : Window) : List W64 :=
  [ BitVec.ofNat 64 (w.st.num + w.kind * 2 ^ 2 + w.tsz * 2 ^ 4 + w.prc.toNat * 2 ^ 6 + w.prs.toNat * 2 ^ 7 + w.mkd.toNat * 2 ^ 8 +
      (w.depth - 1) * 2 ^ 16 + w.fillv.toNat * 2 ^ 32),
    BitVec.ofNat 64 (w.rbase + w.mkbase * 2 ^ 24 + w.mkl * 2 ^ 44 + w.prod * 2 ^ 48),
    BitVec.ofNat 64 w.bbase, BitVec.ofNat 64 w.blen,
    BitVec.ofNat 64 (w.head + w.peer * 2 ^ 48), BitVec.ofNat 64 (tailOf w),
    BitVec.ofNat 64 (w.mkh + w.mkt * 2 ^ 32), BitVec.ofNat 64 (ncnt w) ]

/-- The RW fields of a descriptor take their values from its words (R99). -/
def Window.setWords (w : Window) (ws : List W64) : Window :=
  let x := fun (i : Nat) => (ws.getD i 0).toNat
  { w with
    kind := nbits (x 0) 3 2, tsz := nbits (x 0) 5 4, prc := nbit (x 0) 6, prs := nbit (x 0) 7, mkd := nbit (x 0) 8
    depth := nbits (x 0) 31 16 + 1, fillv := BitVec.ofNat 32 (nbits (x 0) 63 32), rbase := nbits (x 1) 19 0
    mkbase := nbits (x 1) 43 24, mkl := nbits (x 1) 47 44, bbase := x 2, blen := x 3, peer := nbits (x 4) 63 48 }

/-- The n bytes of descriptors at a memory address. -/
def descBytes (s : State) (ma n : Nat) : List Byte :=
  (List.range n).map (fun i => match descAt (ma + i) with
    | some (k, o) => ((s.win k).words.getD (o / 8) 0).extractLsb' (8 * (o % 8)) 8
    | none => 0)

/-- A Lodge core's master id (R50). -/
def isLodgeMid (mid : Nat) : Bool := 4 * 8192 + 64 ≤ mid && mid < 4 * 8192 + 72

/-- A plain write to byte o of the descriptor of window k: by the Lodge, while STATE is CLOSED, it writes the RW fields, or is refused with F_DESC;
any other write is ignored (R99). -/
def descWrite (s : State) (mid k o : Nat) (bs : List Byte) : Option State :=
  let x := s.win k
  if !isLodgeMid mid || x.st != .closed then some s
  else
    let old := x.words.flatMap (fun w => leBytes w.toNat 8)
    let new := (List.range 64).map (fun i => if o ≤ i && i < o + bs.length then bs.getD (i - o) 0 else old.getD i 0)
    let y := x.setWords ((List.range 8).map (fun j => BitVec.ofNat 64 (leNat ((new.drop (8 * j)).take 8))))
    if y.kind == 3 || y.tsz == 3 || 8 < y.mkl then none else some (s.setWin k y)

/-- Read n bytes at a memory address, with their poison; the table of descriptors reads as R99 lays it out. -/
def State.loadMem (s : State) (ma n : Nat) : List Byte × Bool :=
  match descAt ma with
  | some _ => (descBytes s ma n, false)
  | none => (readBytes s.mem ma n, poisonRead s.poison ma n)

/-- Write bytes at a memory address, with their poison (R55). -/
def State.storeMem (s : State) (ma : Nat) (bs : List Byte) (poi : Bool) : State :=
  { s with mem := writeBytes s.mem ma bs, poison := poisonWrite s.poison ma bs.length poi }

/-- A plain write at its home: `none` where a descriptor refuses it with F_DESC (R99). -/
def State.storeHome (s : State) (mid ma : Nat) (bs : List Byte) (poi : Bool) : Option State :=
  match descAt ma with
  | some (k, o) => descWrite s mid k o bs
  | none => some (s.storeMem ma bs poi)

/-- Check an access of n bytes at a memory address; a refusal is logged. -/
def checkAt (s : State) (ma n : Nat) (kind : AKind) (mid : Nat) : Bool × State :=
  match tableOf ma with
  | none => (true, s)
  | some (t, a) => if permits s t a n kind mid then (true, s) else (false, logRefusal s t mid a kind)

/-- Log a refusal at a memory address that an access table checks. -/
def logAt (s : State) (ma : Nat) (kind : AKind) (mid : Nat) : State :=
  match tableOf ma with
  | some (t, a) => logRefusal s t mid a kind
  | none => s

/- The flit links an access crosses (R14, R34, R36). -/

/-- Links of a bundle in one direction. -/
def bundleSize (b : Nat) : Nat := if b < 4 then 32 else if b < 8 then 16 else 0

/-- A bundle has a link in service in each direction. -/
def bundleUp (s : State) (b : Nat) : Bool :=
  (List.range 2).all (fun d => (List.range (bundleSize b)).any (fun i => !(fgetD s.links ((b * 2 + d) * 32 + i) {}).down))

/-- The bundles between two dies, 4 being the I/O die: a die's own link to it, the link of two neighbouring compute dies, and for two that
are not neighbours the way over the I/O die. DESIGN CHOICE, log 42: the spec names no way between opposite dies. -/
def bundlesOf (a b : Nat) : List Nat :=
  if a == b then []
  else if 4 ≤ a then [b]
  else if 4 ≤ b then [a]
  else if b == (a + 1) % 4 then [4 + a]
  else if a == (b + 1) % 4 then [4 + b]
  else [a, b]

/-- The die that holds a target (R14, R121): a request for another station leaves by the I/O die. -/
def tgtDie : Tgt → Nat
  | .win d _ _ | .cmn d _ => d
  | .hbm a => a / 2 ^ 36 / 2
  | .scratch r _ => r / 16
  | .remote _ _ _ _ | .code _ => 4

/-- No bundle between two dies has lost every link (R36). -/
def pathUp (s : State) (a b : Nat) : Bool := s.links.isEmpty || (bundlesOf a b).all (bundleUp s)

/-- The target can be reached: no bundle on the way has lost every link. What is bound for it waits otherwise (R36). -/
def reaches (s : State) (mid : Nat) (t : Tgt) : Bool := pathUp s (mid / 8192) (tgtDie t)

/- Windows. -/

/-- Bytes of a tile (R99). -/
def tileSize (w : Window) : Nat := 1024 * 4 ^ w.tsz

/-- The Commons offset of slot n (R100). -/
def slotAddr (w : Window) (n : Nat) : Nat := w.rbase * 1024 + n % w.depth * tileSize w

/-- The sequence of the tile that holds slot k, if any. -/
def slotTile (w : Window) (k : Nat) : Option Nat :=
  (w.tiles.find? (fun t => t.1 % w.depth == k)).map (·.1)

/-- The extent of a window in bytes (R138). -/
def winExtent (w : Window) : Nat := if w.kind == 0 then w.depth * tileSize w else w.blen

/-- The memory address of a window's backing byte, for a window backed by HBM (R99, R101). -/
def backAddr (w : Window) (off : Nat) : Nat := hbmAddr (w.bbase + off)

/-- BBASE of a window backed by a remote one: the remote die, window and byte, in the form of a remote leaf (R99, R123). PRESUMED,
log 15. -/
def remoteBase (w : Window) : Nat × Nat × Nat := (nbits w.bbase 11 10, nbits w.bbase 27 16, nbits w.bbase 59 44 * 65536)

/-- Where a plain access to a window lands (R101, R103). -/
inductive WRes where
  | tile (n : Nat) (ma : Nat)
  | slot (ma : Nat)
  | back (ma : Nat)
  | remote (die win chan off : Nat)
  | wait
  | refuse (c : FCode)
  deriving DecidableEq, Repr

/-- A plain write of a FREE tile of a scratch window acts on the bytes of the tile's slot, whatever tile holds it (R101); it waits while
that tile is filling (R103). DEDUCED, log 22: R103 lets the write of a tile at or above HEAD wait for the fill, and the manual's programs write
such tiles of windows that nothing fills. -/
def slotWrite (die : Nat) (w : Window) (n o : Nat) : WRes :=
  match slotTile w (n % w.depth) with
  | none => .slot (cmnAddr die (slotAddr w n + o))
  | some m =>
    match (fgetD w.tiles m {}).st with
    | .fill | .wb => .wait
    | .cnt | .res => .tile m (cmnAddr die (slotAddr w n + o))

/-- A plain access to tile n at byte o of the tile, by sequence or through the tile's bytes (R103, R109, R110). -/
def tileRes (die : Nat) (w : Window) (n o : Nat) (write : Bool) : WRes :=
  match fget w.tiles n with
  | some t =>
    match t.st with
    | .fill | .wb => .wait
    | .cnt => if !write && !w.prc then .refuse .access else .tile n (cmnAddr die (slotAddr w n + o))
    | .res => .tile n (cmnAddr die (slotAddr w n + o))
  | none =>
    if w.kind == 0 && write then slotWrite die w n o
    else if w.head ≤ n then .wait
    else if w.kind == 0 then .slot (cmnAddr die (slotAddr w n + o))
    else if w.kind == 1 then .back (backAddr w (n * tileSize w + o))
    else
      let (d, x, b) := remoteBase w
      .remote d x w.peer (b + n * tileSize w + o)

/-- An access at byte off of a window's virtual range (R101); `plain` is false for presence and chained accesses and
atomics, which R146 does not refuse. -/
def windowRes (die : Nat) (w : Window) (off : Nat) (write plain : Bool) : WRes :=
  if w.st != .opened then .refuse .winstate
  else if w.prs && write && plain then .refuse .presence
  else if w.kind == 0 then
    let k := off / tileSize w
    match slotTile w k with
    | some n => tileRes die w n (off % tileSize w) write
    | none => .slot (cmnAddr die (w.rbase * 1024 + off))
  else tileRes die w (off / tileSize w) (off % tileSize w) write

/-- The result of bringing an access to its bytes: the memory address, or a wait, or a refusal with its fault and F_XLATE
cause, or that it goes to another station. -/
inductive Loc where
  | at_ (s : State) (ma : Nat)
  | wait (s : State)
  | refused (s : State) (c : FCode) (cause : Nat)
  | remote (s : State) (die w chan off : Nat)

/-- Mark a tile DIRTY (R103). -/
def dirtyTile (s : State) (w n : Nat) : State :=
  s.setWin w { s.win w with tiles := fmodify (s.win w).tiles n (fun t => { t with dirty := true }) }

/-- The Commons cycle, of 1.8 GHz, that goes on: two arithmetic cycles of 3.6 GHz (R11). -/
def commonsCycle (s : State) : Nat := s.cyc / 2

/-- An event of a tile by a master is noted (R111). -/
def noteEvent (s : State) (w n mid : Nat) : State :=
  s.setWin w { s.win w with tiles := fmodify (s.win w).tiles n (fun t => { t with ev := some (commonsCycle s, mid) }) }

/-- A master of a higher id has had an event of the tile in this Commons cycle: the turn of a lower one is past, and it comes a cycle later
(R111). -/
def turnPast (s : State) (w n mid : Nat) : Bool :=
  match (fgetD (s.win w).tiles n {}).ev with
  | some (c, m) => c == commonsCycle s && mid < m
  | none => false

/-- The table's check of an access, which is made once, when it arrives (R51). -/
def arriveAt (s : State) (seen : Bool) (ma n : Nat) (kind : AKind) (mid : Nat) : Bool × State :=
  if seen then (true, s) else checkAt s ma n kind mid

/-- A refusal with F_ACCESS where the target does not permit. -/
def atChecked (s : State) (seen : Bool) (ma n : Nat) (kind : AKind) (mid : Nat) (f : State → State) : Loc :=
  match arriveAt s seen ma n kind mid with
  | (true, s) => .at_ (f s) ma
  | (false, s) => .refused s .access 0

/-- An access that has to wait at its target is checked when it arrives (R51). -/
def waitChecked (s : State) (seen : Bool) (ma n : Nat) (kind : AKind) (mid : Nat) : Loc :=
  match arriveAt s seen ma n kind mid with
  | (true, s) => .wait s
  | (false, s) => .refused s .access 0

/-- A tile takes an access of n bytes at a memory address (R103, R111). -/
def tileTakes (s : State) (seen : Bool) (key t ma n : Nat) (kind : AKind) (mid : Nat) (write : Bool) : Loc :=
  if turnPast s key t mid then waitChecked s seen ma n kind mid
  else atChecked s seen ma n kind mid (fun s => noteEvent (if write then dirtyTile s key t else s) key t mid)

/-- The access waits at its target, whose table has permitted it. -/
def hasArrived (s : State) (x : Arrival) : Bool := s.arrived.any (fun y => y.1 == x)

/-- An arrival takes its place: those of one Commons cycle stand in ascending master id (R111). -/
def placeArrival (x : Arrival × Nat) : List (Arrival × Nat) → List (Arrival × Nat)
  | [] => [x]
  | y :: ys => if y.2 == x.2 && x.1.mid < y.1.mid then x :: y :: ys else y :: placeArrival x ys

/-- An access waits at its target from now on, or does so no more (R51, R52). -/
def noteArrival (s : State) (x : Arrival) : State :=
  if hasArrived s x then s else { s with arrived := placeArrival (x, commonsCycle s) s.arrived }

def endArrival (s : State) (x : Arrival) : State :=
  if hasArrived s x then { s with arrived := s.arrived.filter (fun y => y.1 != x) } else s

/-- A counted read of tile n reaches its home (R100, R103, R107, R110): it starts while the count exceeds the reads in progress,
waits for a fill or for the reads in progress, and finds a tile whose count is zero over-read. -/
inductive CRes where
  | ready | wait | over | notOpen | denied
  deriving DecidableEq, Repr

def countedRes (x : Window) (n : Nat) : CRes :=
  if x.st != .opened then .notOpen
  else
    match fget x.tiles n with
    | some t =>
      match t.st with
      | .fill | .wb => .wait
      | .cnt => if t.rd < t.c then .ready else .wait
      | .res => .over
    | none => if n < x.head then .over else .wait

/-- The window and the place in it that a target lies in: a tile, of a scratch window a slot. -/
def tileOf (s : State) : Tgt → Option (Nat × Nat)
  | .win die w off =>
    let x := s.win (die * 4096 + w)
    let n := off / tileSize x
    some (die * 4096 + w, if x.kind == 0 then n % x.depth else n)
  | _ => none

/-- An arrival stands before later ones at its tile: a presence read waits for its word and not for the tile, a counted read for its turn among the
counted reads, and what cannot be reached has not arrived. -/
def holdsTurn (s : State) (y : Arrival) : Bool :=
  reaches s y.mid y.tgt &&
  (match y.kind, y.tgt with
   | .pRead, _ => false
   | .cread, .win die w off => countedRes (s.win (die * 4096 + w)) (off / tileSize (s.win (die * 4096 + w))) == .ready
   | _, _ => true)

/-- The access would overtake one that arrived at its tile before it and waits there (R111). -/
def overtakes (s : State) (x : Arrival) : Bool :=
  match tileOf s x.tgt with
  | none => false
  | some t => (s.arrived.takeWhile (fun y => y.1 != x)).any (fun y => tileOf s y.1.tgt == some t && holdsTurn s y.1)

/-- What an access comes to in state s0, with its arrival noted while it waits for its tile or for what arrived there before it. -/
def noteLoc (s0 : State) (x : Arrival) : Loc → Loc
  | .wait s => .wait (noteArrival s x)
  | .refused s c cause => .refused (endArrival s x) c cause
  | .at_ s ma => if overtakes s0 x then .wait (noteArrival s0 x) else .at_ (endArrival s x) ma
  | .remote s d w c o => if overtakes s0 x then .wait (noteArrival s0 x) else .remote (endArrival s x) d w c o

def writesTo (k : AKind) : Bool := k == .write || k == .pWrite || k == .chWrite || k == .atomic

/-- An access of n bytes at its target; `seen` says that the target's table has permitted it as it arrived. What is performed at the backing place
comes to another target, which checks it. -/
def locateAt (s : State) (seen : Bool) (mid : Nat) (tgt : Tgt) (n : Nat) (kind : AKind) : Loc :=
  match tgt with
  | .scratch r off => .at_ s (scrAddr r off)
  | .code off => .at_ s (codeAddr off)
  | .cmn die a => atChecked s seen (cmnAddr die a) n kind mid id
  | .hbm a => atChecked s seen (hbmAddr a) n kind mid id
  | .remote d w c off => .remote s d w c off
  | .win die w off =>
    let key := die * 4096 + w
    match windowRes die (s.win key) off (writesTo kind) (kind == .write) with
    | .refuse .access =>
      -- a plain read of a counted tile: logged with its own kind (R109)
      let w := s.win key
      let nn := if w.kind == 0 then (slotTile w (off / tileSize w)).getD 0 else off / tileSize w
      .refused (logAt s (cmnAddr die (slotAddr w nn + off % tileSize w)) .readCounted mid) .access 0
    | .refuse c => .refused s c 0
    | .wait =>
      waitChecked s seen (cmnAddr die (slotAddr (s.win key) (off / tileSize (s.win key)) + off % tileSize (s.win key))) n kind mid
    | .tile t ma => tileTakes s seen key t ma n kind mid (writesTo kind)
    | .slot ma => atChecked s seen ma n kind mid id
    | .back ma => atChecked s false ma n kind mid id
    | .remote d x c o => .remote s d x c o

/-- Bring a plain or fetch access of n bytes to its target (R36, R51, R52, R101 to R103, R109, R110, R111, R120). -/
def locate (s : State) (who : Who) (mid : Nat) (tgt : Tgt) (n : Nat) (kind : AKind) : Loc :=
  let x : Arrival := { who := who, mid := mid, kind := kind, tgt := tgt, n := n }
  if !reaches s mid tgt then .wait s else noteLoc s x (locateAt s (hasArrived s x) mid tgt n kind)

/-- Bring an access to its target. -/
def Access.locate (a : Access) (s : State) : Loc := Machine.locate s a.who a.mid a.tgt a.n a.kind

/-- Write the bytes a mask selects (a write-back, R370): byte i of the line where bit i is set; `poi` holds the poison of the
line's 4-byte words. A word of which every byte is written clean is cleared, one written in part keeps its poison. -/
def storeMasked (s : State) (ma : Nat) (bs : List Byte) (mask : W64) (poi : W16) : Nat → State
  | 0 => s
  | k + 1 =>
    -- word k of the line
    let s := storeMasked s ma bs mask poi k
    let four := (List.range 4).filter (fun j => mask.getLsbD (4 * k + j))
    if four.isEmpty then s
    else
      let mem := four.foldl (fun m j => writeByte m (ma + 4 * k + j) (bs.getD (4 * k + j) 0)) s.mem
      let p :=
        if poi.getLsbD k then sinsert s.poison ((ma + 4 * k) / 4)
        else if four.length == 4 then serase s.poison ((ma + 4 * k) / 4) else s.poison
      { s with mem := mem, poison := p }

/-- The poison of the 16 words of a 64-byte line. -/
def linePoison (s : State) (ma : Nat) : W16 :=
  (List.range 16).foldl (fun (p : W16) k => if smem s.poison ((ma + 4 * k) / 4) then p ||| BitVec.ofNat 16 (2 ^ k) else p) 0

end Sys2Proof.Machine
end

