-- ==== Sys2Proof/Machine/Translate.lean ====
section
/-! DEFINITION. Virtual addresses, the scratch aperture, page tables and leaves, translation by a block core (R119 to R127,
R131, R132, R138). -/

namespace Sys2Proof.Machine

/-- R119: the access of n bytes at a is canonical. -/
def canonical (a : W64) (n : Nat) : Bool :=
  let x := a.toNat
  if x < 2 ^ 47 then x + n ≤ 2 ^ 47
  else 2 ^ 64 - 2 ^ 47 ≤ x && x + n ≤ 2 ^ 64

/-- The first byte of the scratch aperture (R120). -/
def apertureBase : Nat := 0xFFFFFFFFFF000000

/-- Fields of a page-table entry (R123). -/
def pteV (e : W64) : Bool := e.getLsbD 0
def pteT (e : W64) : Bool := e.getLsbD 1
def pteRights (e : W64) : Nat := nbits e.toNat 7 0
def pteKind (e : W64) : Nat := nbits e.toNat 9 8
def pteDie (e : W64) : Nat := nbits e.toNat 11 10

/-- R124: the entry is malformed at its level (2, 1, 0). -/
def pteMalformed (e : W64) (level : Nat) : Bool :=
  let x := e.toNat
  if pteT e then level == 0 || nbits x 63 39 != 0 || nbits x 11 2 != 0 || nbits x 15 12 != 0
  else
    level == 2 || pteKind e == 3 || nbits x 15 12 != 0 ||
    (match pteKind e with
     | 0 => nbits x 63 60 != 0 || (level == 1 && nbits x 40 28 != 0)
     | 1 => nbits x 63 39 != 0 || pteDie e != 0 || (level == 1 && nbits x 28 16 != 0) ||
            36 * 2 ^ 30 ≤ nbits x 35 16 * 65536
     | _ => nbits x 63 60 != 0 || (level == 1 && nbits x 56 44 != 0))

/-- R124: a leaf of KIND 1 or 2 with CNT, CHN or PRS set (cause 4). -/
def pteBadRights (e : W64) : Bool := pteKind e != 0 && nbits e.toNat 7 5 != 0

/-- The index of an address at a level (R122). -/
def pteIndex (a : W64) (level : Nat) : Nat :=
  match level with
  | 2 => nbits a.toNat 47 42
  | 1 => nbits a.toNat 41 29
  | _ => nbits a.toNat 28 16

/-- What a walk comes to: how it ends, the valid table entries it went through with the addresses where they stand, and the address of a read
that an HBM channel refused. -/
structure WalkTrace where
  res : WalkRes
  used : List (Nat × W64) := []
  refused : Option Nat := none
  deriving DecidableEq, Repr

/-- An entry that the walk cache of a region holds (R127). -/
def cachedEntry (cache : List (Nat × W64)) (ea : Nat) : Option W64 := (cache.find? (fun e => e.1 == ea)).map (·.2)

/-- The walk from a table at an HBM address; the levels left are given as their number plus one (R126). The walker reads
with its own master id, where its walk cache does not hold the entry (R127); a refused or poisoned read is cause 5, and one whose way has lost
every link waits (R36). -/
def walkFrom (s : State) (mid : Nat) (cache : List (Nat × W64)) (a : W64) : Nat → Nat → WalkTrace
  | 0, _ => { res := .fault 3 }
  | k + 1, t =>
    let ea := t + pteIndex a k * 8
    let below (e : W64) : WalkTrace :=
      let x := walkFrom s mid cache a k (nbits e.toNat 38 16 * 65536)
      { x with used := (ea, e) :: x.used }
    match cachedEntry cache ea with
    | some e => below e
    | none =>
      match tableOf (hbmAddr ea) with
      | none => { res := .fault 5 }
      | some (tb, off) =>
        if !reaches s mid (.hbm ea) then { res := .wait }
        else if !permits s tb off 8 .read mid then { res := .fault 5, refused := some ea }
        else if poisonRead s.poison (hbmAddr ea) 8 then { res := .fault 5 }
        else
          let e := readWord s.mem (hbmAddr ea)
          if !pteV e then (if pteT e then { res := .pending } else { res := .fault 1 })
          else if pteMalformed e k then { res := .fault 3 }
          else if pteT e then below e
          else if pteBadRights e then { res := .fault 4 }
          else { res := .leaf e (k == 1) }

/-- XROOT of a region (R121). -/
def xrootEn (x : W64) : Bool := x.getLsbD 0
def xrootBase (x : W64) : Nat := nbits x.toNat 38 9 * 512

/-- A walk in region r (R126). -/
def walkTrace (s : State) (r : Nat) (a : W64) : WalkTrace :=
  let g := s.region r
  if !xrootEn g.xroot then { res := .fault 1 } else walkFrom s (regionMid r 42) g.wcache a 3 (xrootBase g.xroot)

/-- How a walk ends. -/
def walk (s : State) (r : Nat) (a : W64) : WalkRes := (walkTrace s r a).res

/-- What a walk leaves behind: the entries it went through are the latest of the walk cache's 64 (R127), and a refused read is logged (R51). -/
def noteWalk (s : State) (r : Nat) (x : WalkTrace) : State :=
  let s := match x.refused with
    | some ea => logAt s (hbmAddr ea) .read (regionMid r 42)
    | none => s
  if x.used.isEmpty then s
  else s.modRegion r (fun g => { g with wcache := (x.used ++ g.wcache.filter (fun e => !x.used.any (fun u => u.1 == e.1))).take 64 })

/-- The walker walks. -/
def doWalk (s : State) (r : Nat) (a : W64) : State × WalkRes :=
  let x := walkTrace s r a
  (noteWalk s r x, x.res)

/-- The target of byte a under a leaf (R122, R123). -/
def leafTgt (e : W64) (l1 : Bool) (a : W64) : Tgt :=
  let off := a.toNat % (if l1 then 2 ^ 29 else 2 ^ 16)
  let x := e.toNat
  match pteKind e with
  | 0 => .win (pteDie e) (nbits x 27 16) (nbits x 59 28 * 65536 + off)
  | 1 => .hbm (nbits x 38 16 * 65536 + off)
  | _ => .remote (pteDie e) (nbits x 27 16) (nbits x 43 28) (nbits x 59 44 * 65536 + off)

/-- R125: the leaf holds the rights of the access kind, ATM aside. -/
def leafRights (e : W64) (kind : AKind) : Bool :=
  let need := match kind with
    | .atomic => 2 + 4
    | k => rightsOf k
  -- R W X stand at bits 2 to 4, CNT CHN PRS at bits 5 to 7
  let have_ := nbits e.toNat 4 2 * 2 + nbits e.toNat 5 5 * 16 + nbits e.toNat 6 6 * 32 + nbits e.toNat 7 7 * 128
  have_ &&& need == need

/-- Two targets are consecutive: the second is what follows n bytes of the first, in one window, one remote window or HBM (R138). -/
def Tgt.follows (x y : Tgt) (n : Nat) : Bool :=
  match x, y with
  | .win d w o, .win d' w' o' => d == d' && w == w' && o' == o + n
  | .hbm a, .hbm a' => a' == a + n
  | .remote d w c o, .remote d' w' c' o' => d == d' && w == w' && c == c' && o' == o + n
  | _, _ => false

/-- R138: extent of the target. `none` permits the access. -/
def extentBad (s : State) (t : Tgt) (n : Nat) : Option (FCode × Nat) :=
  match t with
  | .win d w off =>
    let x := s.win (d * 4096 + w)
    if winExtent x ≤ off then some (.xlate, 7)
    else if winExtent x < off + n then some (.straddle, 0)
    else none
  | _ => none

/-- A counted access takes the whole tile that holds byte off of a window: it lies within the window's extent (R138, R371). -/
def wholeTile (s : State) (die w off : Nat) : Option (FCode × Nat) :=
  let size := tileSize (s.win (die * 4096 + w))
  extentBad s (.win die w (off - off % size)) size

/-- How a core's translation ends: a target, a fault with its F_XLATE cause, or withheld (R131, R132); `va` is the address whose page is withheld,
none where the walker has not walked yet. -/
inductive TrRes where
  | ok (s : State) (t : Tgt)
  | fault (s : State) (c : FCode) (cause : Nat)
  | withheld (s : State) (va : Option W64)

/-- Find a page in a translation cache. -/
def tcacheFind (c : List TEntry) (page : Nat) : Option TEntry := c.find? (fun e => e.page == page)

/-- Put an entry first in a translation cache of 64 entries, least recently used last (R131). -/
def tcacheTouch (c : List TEntry) (e : TEntry) : List TEntry := (e :: c.filter (fun x => x.page != e.page)).take 64

/-- A miss of a region is counted (R133). -/
def countMiss (s : State) (r : Nat) : State := s.modRegion r (fun g => { g with miss := (g.miss + 1) % 2 ^ 32 })

/-- The walker of a region takes another walk (R130). -/
def freeWalk (s : State) (r : Nat) : Bool := (s.region r).walks.length < 16

/-- What is withheld for a key and the page of an address. -/
def heldFor (g : Region) (key : Nat) (a : W64) : Option Withheld := g.withheld.find? (fun w => w.is key a)

/-- The translation of an address is withheld no more. -/
def unhold (s : State) (r key : Nat) (a : W64) : State :=
  if (heldFor (s.region r) key a).isSome then s.modRegion r (fun g => { g with withheld := g.withheld.filter (fun w => !w.is key a) }) else s

/-- A translation is withheld from now on, where it is not yet (R132). -/
def withhold (s : State) (r key : Nat) (a : W64) : State :=
  if (heldFor (s.region r) key a).isSome then s
  else s.modRegion r (fun g => { g with withheld := g.withheld ++ [{ key := key, va := a, since := s.ns, last := s.ns }] })

/-- What waits for a withheld page does not walk it: the walker does, every two microseconds, and what that has brought is taken up here (R132);
else the walker walks, where it has room (R130). -/
def walkOrHeld (s : State) (r key : Nat) (a : W64) (walk : State → State × WalkRes) : State × WalkRes :=
  match heldFor (s.region r) key a with
  | some w => if w.res == .pending then (s, .pending) else (unhold s r key a, w.res)
  | none =>
    if !freeWalk s r then (s, .wait)
    else
      match walk s with
      | (_, .wait) => (s, .wait)
      | x => x

/-- The leaf of one page for core k of region r: its cache, else a walk, which counts a miss (R131, R133). While EN is 0 every translation is
refused (R121). -/
def coreLeaf (s : State) (k r : Nat) (a : W64) : State × WalkRes :=
  let c := s.core k
  let page := a.toNat / 65536
  if !xrootEn (s.region r).xroot then (s, .fault 1)
  else
  match tcacheFind c.tcache page with
  | some e => (s.setCore k { c with tcache := tcacheTouch c.tcache e }, .leaf e.leaf e.l1)
  | none =>
    match walkOrHeld s r (2 * k) a (fun s => doWalk (countMiss s r) r a) with
    | (s, .leaf e l1) =>
      (s.modCore k (fun c => { c with tcache := tcacheTouch c.tcache { page := page, leaf := e, l1 := l1 } }), .leaf e l1)
    | x => x

/-- What the second page of an access that runs across a page boundary says (R125, R138): `t` is the target of the first byte, m the bytes in
the first page. -/
def crossing (t : Tgt) (m : Nat) (kind : AKind) (e : W64) (t2 : Tgt) : Option (FCode × Nat) :=
  if !Tgt.follows t t2 m then some (.straddle, 0) else if !leafRights e kind then some (.xlate, 2) else none

/-- Bytes of the Lodge code store (R42). -/
def codeSize : Nat := 2 ^ 25

/-- The n bytes at a lie in the boot-ROM region of the Lodge's address space. -/
def inRom (a n : Nat) : Bool := Config.romBase ≤ a && a + n ≤ Config.romBase + Config.romSize

/-- The boot-ROM region: a fetch finds the ROM's bytes, above those of the code store; any other access is refused once the region is
execute-only (R40, R47). -/
def romAccess (s : State) (kind : AKind) (a : Nat) : Option Tgt :=
  if kind == .fetch || (kind == .read && !s.boot.romX) then some (.code (codeSize + (a - Config.romBase))) else none

/-- Where n bytes at an address of a Lodge core lie, which has no page tables: its fetches address the code store, its other accesses the
station's memory by the map of Ops and the Commons windows. DESIGN CHOICE, log 18. What the boot-ROM region refuses is F_ACCESS. DESIGN CHOICE, log
40. -/
def lodgeTr (s : State) (kind : AKind) (a n : Nat) : TrRes :=
  if inRom a n then
    (match romAccess s kind a with
     | some t => .ok s t
     | none => .fault s .access 0)
  else if kind == .fetch then (if a + n ≤ codeSize then .ok s (.code a) else .fault s .xlate 1)
  else if a + n ≤ 2 ^ 32 then .ok s (.cmn (a / 2 ^ 30) (a % 2 ^ 30))
  else if 2 ^ 40 ≤ a && a + n ≤ 2 ^ 40 + 2 ^ 39 then .ok s (.hbm (a - 2 ^ 40))
  else if Config.lodgeWindows ≤ a && a < 2 * Config.lodgeWindows then
    let o := a - Config.lodgeWindows
    let t := Tgt.win (o / 2 ^ 44) (o / 2 ^ 32 % 4096) (o % 2 ^ 32)
    if 2 ^ 32 < o % 2 ^ 32 + n then .fault s .straddle 0
    else
      (match extentBad s t n with
       | some (c, cause) => .fault s c cause
       | none => .ok s t)
  else .fault s .xlate 1

/-- Translation of an access of n bytes by core k (R119, R120, R126, R131, R138). -/
def translate (s : State) (k : Nat) (kind : AKind) (a : W64) (n : Nat) : TrRes :=
  if !canonical a n then .fault s .noncanon 0
  else
    match keyRegion k with
    | none => lodgeTr s kind a.toNat n
    | some r =>
      if apertureBase ≤ a.toNat then
        let off := a.toNat - apertureBase
        if (kind == .read || kind == .write) && off + n ≤ 0x600000 then .ok s (.scratch r off) else .fault s .xlate 6
      else
        match coreLeaf s k r a with
        | (s, .fault c) => .fault s .xlate c
        | (s, .pending) => .withheld s (some a)
        | (s, .wait) => .withheld s none
        | (s, .leaf e l1) =>
          if !leafRights e kind then .fault s .xlate 2
          else
            let t := leafTgt e l1 a
            match extentBad s t n with
            | some (c, cause) => .fault s c cause
            | none =>
              if a.toNat % 65536 + n ≤ 65536 then .ok s t
              else
                -- the access runs into the next page (R138)
                let m := 65536 - a.toNat % 65536
                let b := a + BitVec.ofNat 64 m
                if apertureBase ≤ b.toNat then .fault s .straddle 0
                else
                  match coreLeaf s k r b with
                  | (s, .pending) => .withheld s (some b)
                  | (s, .wait) => .withheld s none
                  | (s, .fault _) => .fault s .straddle 0
                  | (s, .leaf e2 l2) =>
                    match crossing t m kind e2 (leafTgt e2 l2 b) with
                    | some (c, cause) => .fault s c cause
                    | none => .ok s t

end Sys2Proof.Machine
end

