-- ==== Sys2Proof/Machine/Operands.lean ====
section
/-! DEFINITION. Operand forms of block instructions: how each source is read (R323, R340, R342, R343), predication (R344), when
an instruction may fire (R345, R364, R369, R378, R379), and how its result lands (R343, R345, R347). -/

namespace Sys2Proof.Machine

/-- Bits of a type (R343). -/
def tyBits : Ty → Nat
  | .i8 | .n8 | .t8 => 8
  | .i16 | .n16 | .bf16 => 16
  | .i32 | .n32 | .f32 => 32
  | .i64 | .n64 => 64

/-- Bytes of an access of a type (R368). -/
def tyBytes (t : Ty) : Nat := tyBits t / 8

def tySigned : Ty → Bool
  | .i8 | .i16 | .i32 | .i64 => true
  | _ => false

/-- The integer a source is under a type (R343). -/
def readTy (t : Ty) (v : W64) : Int := readInt (tySigned t) (tyBits t) v.toNat

/-- A result of a type as 64 bits: sign-extended for .i types, zero-extended for every other (R343). -/
def extTy (t : Ty) (v : Nat) : W64 := wordOf (readInt (tySigned t) (tyBits t) v)

/-- A typed integer result, wrapped to its width (R349). -/
def wrapTy (t : Ty) (v : Int) : W64 := extTy t (wrapNat v (tyBits t))

/-- A value, its poison, and the cycle from which it is available (R345). -/
structure Operand where
  val : W64
  poi : Bool
  from_ : Nat
  deriving DecidableEq, Repr

/-- The special sources of a running block (R342). -/
def specVal (x : Latched) : Spec → W64
  | .zero => 0
  | .baddr => x.baddr
  | .ttl => x.ttl
  | .tth => x.tth
  | .mord => x.mord
  | .drc => x.drc
  | .rid => x.rid
  | .time => x.time

/-- The result of slot i, once it is known. -/
def slotOperand (r : BlockRun) (i : Nat) : Option Operand :=
  match r.slots[i]? with
  | some x =>
    match x.fired, x.ready with
    | true, some t => some { val := x.val, poi := x.poi, from_ := t }
    | _, _ => none
  | none => none

/-- The destination a word names. -/
def wordDst (w : W64) : Option Dst :=
  let f := fieldsOf w
  match rowOf f with
  | some r => if r.d then dstOfByte (dByte f r) else none
  | none => none

/-- The l-slot of an off instruction holds the block-start value of its g-register (R344): the register, where slot j is one. -/
def offG (r : BlockRun) (j : Nat) : Option Nat :=
  match r.slots[j]? with
  | some x =>
    if x.fired && x.off then
      (match wordDst x.word with
       | some (.g n) => some n.val
       | _ => none)
    else none
  | none => none

/-- The l-slot of instruction j; where it holds the value of a pending register, that is not known before the reply (R366). -/
def lOperand (c : Core) (j : Nat) : Option Operand :=
  match offG c.run j, slotOperand c.run j with
  | some n, some v =>
    let g := fgetD c.g n {}
    if g.pend then none else some { v with val := g.val, poi := g.poi }
  | _, v => v

/-- A source read by instruction i of the core's running block; `none` while it is not known when it will be available
(R340, R342, R345, R366). -/
def readSrc (c : Core) (i : Nat) (x : Src) : Option Operand :=
  match x with
  | .g n =>
    let g := fgetD c.g n.val {}
    if g.pend then none else some { val := g.val, poi := g.poi, from_ := 0 }
  | .o n =>
    match fget c.run.o n.val with
    | some j => slotOperand c.run j
    | none => (fget c.run.pre n.val).map (fun v => { val := v, poi := false, from_ := 0 })
  | .l k => if k.val < i then lOperand c (i - 1 - k.val) else none
  | .spec x => some { val := specVal c.run.spec x, poi := false, from_ := 0 }
  | .imm v => some { val := v.signExtend 64, poi := false, from_ := 0 }

/-- The sources of an instruction, all of them known. -/
def readSrcs (c : Core) (i : Nat) : List Src → Option (List Operand)
  | [] => some []
  | x :: xs =>
    match readSrc c i x, readSrcs c i xs with
    | some a, some as => some (a :: as)
    | _, _ => none

/-- The cycle from which all of them are available. -/
def latest (os : List Operand) : Nat := os.foldl (fun m o => max m o.from_) 0

/-- What a predicate says (R344). -/
inductive PredRes where
  | wait
  | on (at_ : Nat)
  | off (at_ : Nat)
  | bad (at_ : Nat)
  deriving DecidableEq, Repr

def PSel.src : PSel → Src
  | .o n => .o n
  | .l k => .l k

def readPred (c : Core) (i : Nat) : Option Pred → PredRes
  | none => .on 0
  | some p =>
    match readSrc c i (PSel.src p.sel) with
    | none => .wait
    | some v => if v.poi then .bad v.from_ else if (v.val != 0) == p.sense then .on v.from_ else .off v.from_

/-- The cycle in which an instruction available from cycle t fires: four a cycle, the lowest indices first (R345). -/
def fireCycle (r : BlockRun) (t : Nat) : Nat :=
  if r.cyc < t then t else if r.issued < 4 then r.cyc else r.cyc + 1

/-- Account for a firing in cycle t. -/
def BlockRun.issue (r : BlockRun) (t : Nat) : BlockRun :=
  if r.cyc < t then { r with cyc := t, issued := 1 } else { r with issued := r.issued + 1 }

def BlockRun.slot (r : BlockRun) (i : Nat) : Slot := r.slots.getD i { word := 0 }
def BlockRun.setSlot (r : BlockRun) (i : Nat) (x : Slot) : BlockRun := { r with slots := r.slots.set i x }

/-- The current core's instruction fires: its slot, in cycle t. -/
def fireSlot (s : State) (t : Nat) (f : Slot → Slot) : State :=
  let c := s.curCore
  let r := c.run
  let i := r.cursor
  let r := (r.issue t).setSlot i (f { (r.slot i) with fired := true, at_ := t, stall := false })
  s.setCore s.curKey { c with run := r }

/-- Another executed instruction has already written the o-slot (R345). -/
def oTaken (c : Core) (d : Dst) : Bool :=
  match d with
  | .o n => (fget c.run.o n.val).isSome
  | .g _ => false

/-- Record that instruction i writes an o-slot. -/
def noteO (s : State) (d : Dst) : State :=
  match d with
  | .o n => s.modCore s.curKey (fun c => { c with run := { c.run with o := fset c.run.o n.val c.run.cursor } })
  | .g _ => s

/-- The instruction under the cursor writes the o-slot that its word names, where no other has written it (R345, R347). -/
def claimO (s : State) : State :=
  match wordDst (s.curCore.run.slot s.curCore.run.cursor).word with
  | some d => if oTaken s.curCore d then s else noteO s d
  | none => s

/-- An instruction faults: its result is poisoned, and its block will not commit (R347). -/
def fireFault (s : State) (t lat : Nat) (code : FCode) (cause : Nat) (a b : Option Operand) : State :=
  fireSlot (claimO s) t (fun x =>
    { x with fault := some (code.num, cause), ready := some (t + lat), val := 0, poi := true
             opa := a.map (·.val), opb := b.map (·.val) })

/-- An at-fire access of the instruction under the cursor sets out, to be answered into D later: F_OTWICE for a second write of an o-slot
(R345, R365). -/
def setOut (s : State) (t : Nat) (d : Dst) (a b : Option Operand) (m : NetMsg) : State :=
  if oTaken s.curCore d then fireFault s t 1 .otwice 0 a b
  else (fireSlot (noteO s d) t (fun x => { x with flight := true, opa := a.map (·.val), opb := b.map (·.val) })).send m

/-- A result lands in D after the latency: F_OTWICE for a second write of an o-slot, F_POISON where poison would be written
to a g-register (R343, R345, R347). -/
def land (s : State) (t lat : Nat) (d : Dst) (v : W64) (poi : Bool) (a b : Option Operand) : State :=
  if oTaken s.curCore d then fireFault s t lat .otwice 0 a b
  else
    match d with
    | .g _ =>
      if poi then fireFault s t lat .poison 0 a b
      else
        fireSlot s t (fun x =>
          { x with ready := some (t + lat), val := v, poi := false, opa := a.map (·.val), opb := b.map (·.val) })
    | .o _ =>
      fireSlot (noteO s d) t (fun x =>
        { x with ready := some (t + lat), val := v, poi := poi, opa := a.map (·.val), opb := b.map (·.val) })

/-- An off instruction fires in the cycle its predicate is available; its l-slot holds D's block-start value where D is a
g-register, 0 otherwise, one cycle later (R344). -/
def fireOff (s : State) (t : Nat) (d : Option Dst) : State :=
  let g : GReg := match d with
    | some (.g n) => fgetD s.curCore.g n.val {}
    | _ => {}
  fireSlot s t (fun x => { x with off := true, ready := some (t + 1), val := g.val, poi := g.poi })

/-- What firing an instruction comes to before its own rule applies: it waits and nothing changes; it was off, or its
predicate was poisoned, and the state is as given; or it fires in cycle t with its operands (R344, R345). -/
inductive Begin where
  | wait
  | over (s : State)
  | go (t : Nat) (vals : List Operand)

/-- The current core runs a block that holds the instruction under the cursor, not yet fired. -/
def canFire (s : State) : Bool :=
  let c := s.curCore
  c.phase == .running && (match c.run.slots[c.run.cursor]? with
    | some x => !x.fired
    | none => false)

def beginFire (s : State) (d : Option Dst) (p : Option Pred) (srcs : List Src) : Begin :=
  if !canFire s then .wait
  else
    let c := s.curCore
    let i := c.run.cursor
    match readPred c i p with
    | .wait => .wait
    | .off t => .over (fireOff s (fireCycle c.run t) d)
    | .bad t => .over (fireFault s (fireCycle c.run t) 1 .poison 0 none none)
    | .on t =>
      match readSrcs c i srcs with
      | none => .wait
      | some vs => .go (fireCycle c.run (max t (latest vs))) vs

/-- What the body of an instruction gives: a value with its poison, or a fault. -/
inductive Res where
  | val (v : W64) (poi : Bool)
  | fault (c : FCode)
  deriving DecidableEq, Repr

/-- An instruction that computes a value from its sources (R340 to R347). A faulting body's poisoned result is available one
cycle later for F_DIVZ (R364). -/
def execVal (d : Dst) (p : Option Pred) (srcs : List Src) (lat : Nat) (f : List Operand → Res) (s : State) : State :=
  match beginFire s (some d) p srcs with
  | .wait => s
  | .over s => s
  | .go t vs =>
    match f vs with
    | .val v poi => land s t lat d v poi vs[0]? vs[1]?
    | .fault c => fireFault s t 1 c 0 vs[0]? vs[1]?

/-- The OR of the operands' poison (R343). -/
def anyPoison (vs : List Operand) : Bool := vs.any (·.poi)

/-- Value k of the operands. -/
def opVal (vs : List Operand) (k : Nat) : W64 := ((vs[k]?).map (·.val)).getD 0
def opPoi (vs : List Operand) (k : Nat) : Bool := ((vs[k]?).map (·.poi)).getD false

/-- A computing instruction whose result is poisoned when any operand is. -/
def execPure (d : Dst) (p : Option Pred) (srcs : List Src) (lat : Nat) (f : List W64 → W64) (s : State) : State :=
  execVal d p srcs lat (fun vs => .val (f (vs.map (·.val))) (anyPoison vs)) s

/- When an instruction of the running block may fire, read from its word (R345). -/

/-- Opcode of slot i. -/
def slotOp (r : BlockRun) (i : Nat) : Nat := nbits (r.slot i).word.toNat 63 56

def isDiv (op : Nat) : Bool := op == 0x05 || op == 0x06
/-- ld and ldp. -/
def isLoad (op : Nat) : Bool := op == 0x60 || op == 0x66
def isAcq (op : Nat) : Bool := op == 0x69
def isFence (op : Nat) : Bool := op == 0x6B
/-- The at-fire operations whose return a commit waits for (R346). -/
def isAtFire (op : Nat) : Bool := isLoad op || isAcq op || op == 0x74

/-- All of a list's maxima, where every element gives one. -/
def allFrom : List (Option Nat) → Option Nat
  | [] => some 0
  | x :: xs =>
    match x, allFrom xs with
    | some a, some b => some (max a b)
    | _, _ => none

/-- Indices below i. -/
def below (r : BlockRun) (i : Nat) (f : Nat → Bool) : List Nat := (List.range i).filter (fun j => f (slotOp r j))

/-- Slot j has fired: the cycle. -/
def firedAt (r : BlockRun) (j : Nat) : Option Nat := if (r.slot j).fired then some (r.slot j).at_ else none

/-- Slot j has returned: the cycle from which its result is available. -/
def readyAt (r : BlockRun) (j : Nat) : Option Nat := if (r.slot j).fired then (r.slot j).ready else none

/-- The branch class stands last and nowhere else (R346). -/
def wellEnded (r : BlockRun) : Bool :=
  r.slots.length != 0 &&
  (List.range r.slots.length).all (fun j =>
    (wordClass (r.slot j).word == .branch) == (j + 1 == r.slots.length))

/-- What an instruction waits for besides its operands (R345, R369, R378, R379, R389). -/
def structFrom (c : Core) (i : Nat) : Option Nat :=
  let r := c.run
  let op := slotOp r i
  let stores := (List.range i).filter (fun j => wordClass (r.slot j).word == .store)
  if isLoad op then
    allFrom (stores.map (firedAt r) ++ (below r i isAcq).map (readyAt r) ++ (below r i isFence).map (firedAt r))
  else if isAcq op then
    allFrom ((below r i isAcq).map (readyAt r) ++ (below r i isFence).map (firedAt r))
  else if isFence op then allFrom ((below r i (fun o => isLoad o || isAcq o)).map (readyAt r))
  else if op == 0x56 && !r.trap then none
  else some 0

/-- The divider (R345, R364): one div or rem at a time, in index order; a zero divisor that is not poisoned does not occupy
it. -/
def divFrom (c : Core) (i : Nat) (n : Nat) (b : Option Operand) : Option Nat :=
  let zero := match b with
    | some v => !v.poi && v.val.toNat % 2 ^ n == 0
    | none => false
  if zero then some 0
  else
    match allFrom ((below c.run i isDiv).map (firedAt c.run)) with
    | some _ => some c.run.divFree
    | none => none

/-- The sources a word's row names (R326). -/
def wordSrcs (w : W64) : List Src :=
  let f := fieldsOf w
  match rowOf f with
  | none => []
  | some r =>
    (if r.a then (srcOfByte (aByte f r)).toList else []) ++ (if r.b then (srcOfByte (bByte f r)).toList else []) ++
    (if r.c && r.fmt != .J then (srcOfByte f.c).toList else [])

def wordPred (w : W64) : Option Pred :=
  let f := fieldsOf w
  match rowOf f with
  | some r => if r.p then predOfByte f.p else none
  | none => none

/-- The cycle in which instruction i may fire, `none` while it cannot. -/
def mayFire (c : Core) (i : Nat) : Option Nat :=
  let r := c.run
  let x := r.slot i
  if x.fired || x.stall then none
  else
    match readPred c i (wordPred x.word) with
    | .wait => none
    | .off t | .bad t => some (fireCycle r t)
    | .on t =>
      match readSrcs c i (wordSrcs x.word), structFrom c i with
      | some vs, some u =>
        let t := max (max t u) (latest vs)
        if isDiv (slotOp r i) then
          (divFrom c i (tyBits ((tyOfCode (fieldsOf x.word).fn).getD .i64)) vs[1]?).map (fun d => fireCycle r (max t d))
        else some (fireCycle r t)
      | _, _ => none

/-- The instruction that fires next: the earliest cycle, and within it the lowest index (R345). -/
def nextToFire (c : Core) : Nat → Nat → Option (Nat × Nat) → Option (Nat × Nat)
  | 0, _, best => best
  | k + 1, i, best =>
    let best := match mayFire c i, best with
      | some t, some (u, j) => if t < u then some (t, i) else some (u, j)
      | some t, none => some (t, i)
      | none, b => b
    nextToFire c k (i + 1) best

def pickNext (c : Core) : Option (Nat × Nat) :=
  if wellEnded c.run then nextToFire c c.run.slots.length 0 none else none

/- Commit (R346). -/

/-- Instruction i names g-register n in D. -/
def writesG (w : W64) (n : Nat) : Bool :=
  let f := fieldsOf w
  match rowOf f with
  | some r => r.d && dstOfByte (dByte f r) == some (.g (Fin.ofNat 64 n))
  | none => false

/-- Slots that name gn and have fired, executed or off: the cycles from which their values stand. -/
def gWritten (r : BlockRun) (n : Nat) : Option Nat :=
  let ts := (List.range r.slots.length).filterMap (fun j => if writesG (r.slot j).word n then readyAt r j else none)
  match ts with
  | [] => none
  | t :: ts => some (ts.foldl max t)

/-- The block can commit: the cycle in which it does (R346). `none` while a condition fails. -/
def commitAt (r : BlockRun) : Option Nat :=
  let idx := List.range r.slots.length
  let stores := idx.filter (fun j => wordClass (r.slot j).word == .store)
  let gs := (List.range 64).filter (fun n => r.mask.getLsbD n)
  let fires := idx.filter (fun j => isAtFire (slotOp r j) && (r.slot j).fired)
  if !wellEnded r || stores.length != r.nst || (idx.any (fun j => (r.slot j).fault.isSome)) then none
  else
    match allFrom (gs.map (gWritten r)), allFrom (stores.map (firedAt r)), allFrom (fires.map (readyAt r)),
        firedAt r (r.slots.length - 1) with
    | some a, some b, some c, some d => some (max (max a b) (max c d) + 1)
    | _, _, _, _ => none

/-- An at-fire access of the block is in flight, or a translation of it is withheld. -/
def inFlight (r : BlockRun) : Bool := r.slots.any (fun x => (x.fired && x.ready.isNone && x.flight) || x.stall)

/-- The g-register whose value instruction i reads in a source: by its name, or through the l-slot of an off instruction (R344). -/
def regRead (r : BlockRun) (i : Nat) (x : Src) : Option Nat :=
  match x with
  | .g n => some n.val
  | .l k => if k.val < i then offG r (i - 1 - k.val) else none
  | _ => none

/-- Some instruction that has not fired waits for a pending register (R366). -/
def awaitsReply (c : Core) : Bool :=
  wellEnded c.run && (List.range c.run.slots.length).any (fun i =>
    let w := (c.run.slot i).word
    !(c.run.slot i).fired && (wordSrcs w ++ ((wordPred w).map (PSel.src ·.sel)).toList).any (fun y =>
      match regRead c.run i y with
      | some n => (fgetD c.g n {}).pend
      | none => false))

/-- The block ends now: its conditions hold from a cycle on in which no instruction fires before it (R346), or no instruction can fire any more
(R347). -/
def blockReady (c : Core) : Bool :=
  match commitAt c.run, pickNext c with
  | some u, some (t, _) => u ≤ t
  | some _, none => true
  | none, some _ => false
  | none, none => !inFlight c.run && !awaitsReply c

/-- The lowest-indexed fault of the block (R347). -/
def firstFault (r : BlockRun) : Option (Nat × Slot) :=
  ((List.range r.slots.length).find? (fun j => (r.slot j).fault.isSome)).map (fun j => (j, r.slot j))

/-- The lowest index that never fired (R347). -/
def firstUnfired (r : BlockRun) : Option Nat := (List.range r.slots.length).find? (fun j => !(r.slot j).fired)

end Sys2Proof.Machine
end

