-- ==== Sys2Proof/Machine/Flags.lean ====
section
/-! DEFINITION. Conditions. The block cores have no condition flags: compares write 0 or 1 (R351, R356) and conditional branches
test their operands themselves (R360). FLG of a fault record (R95, R347). -/

namespace Sys2Proof.Machine

/-- 0 or 1 as a 64-bit value (R343). -/
def boolWord (b : Bool) : W64 := if b then 1 else 0

/-- The integer relations of R351, on operands read under the type. -/
def intRel (t : Ty) (c : Cond) (a b : W64) : Bool :=
  let x := readTy t a
  let y := readTy t b
  match c with
  | .eq => x == y
  | .ne => x != y
  | .lt => x < y
  | .ge => y ≤ x
  | .le => x ≤ y
  | .gt => y < x

/-- The .f32 relations of R356 and R360: every one but ne is false where either operand is NaN; −0 equals +0. -/
def f32Rel (c : Cond) (a b : W64) : Bool :=
  let x := decF32 (a.toNat % 2 ^ 32)
  let y := decF32 (b.toNat % 2 ^ 32)
  match c with
  | .eq => Exact.eqv x y
  | .ne => !Exact.eqv x y
  | .lt => Exact.lt x y
  | .ge => Exact.lt y x || Exact.eqv x y
  | .le => Exact.lt x y || Exact.eqv x y
  | .gt => Exact.lt y x

/-- A branch's condition under its type (R360). -/
def branchTaken (t : Ty) (c : Cond) (a b : W64) : Bool :=
  match t with
  | .f32 => f32Rel c a b
  | t => intRel t c a b

/-- FLG of a record: OPA valid, OPB valid, poison seen (R95, R347). -/
def recordFlg (a b : Bool) (poison : Bool) : Nat := (if a then 1 else 0) + (if b then 2 else 0) + (if poison then 16 else 0)

end Sys2Proof.Machine
end

