-- ==== Sys2Proof/Machine/Alu.lean ====
section
/-! DEFINITION. Integer, bit, compare, constant, address and tag-field instructions of blocks (R349 to R354, R359). Latencies
follow R364. -/

namespace Sys2Proof.Machine

/- What each instruction computes. -/

/-- a op b read under the type, wrapped to its width (R349). -/
def intOp (t : Ty) (f : Int → Int → Int) (vs : List W64) : W64 :=
  wrapTy t (f (readTy t (vs.getD 0 0)) (readTy t (vs.getD 1 0)))

/-- mulh: the floor of the exact product divided by 2^n (R349). -/
def mulHigh (t : Ty) (a b : Int) : Int := (a * b) / ((2 ^ tyBits t : Nat) : Int)

/-- Clamp to the range of a type (adds, subs). -/
def clampTy (t : Ty) (v : Int) : Int := clampInt (tySigned t) (tyBits t) v

/-- The low bits of a source under a type. -/
def lowBits (t : Ty) (v : W64) : Nat := v.toNat % 2 ^ tyBits t

/-- A bitwise result on n bits, extended (R350). -/
def bitOp (t : Ty) (f : Nat → Nat → Nat) (vs : List W64) : W64 :=
  extTy t (f (lowBits t (vs.getD 0 0)) (lowBits t (vs.getD 1 0)))

/-- The complement on n bits. -/
def notBits (t : Ty) (vs : List W64) : W64 := extTy t (2 ^ tyBits t - 1 - lowBits t (vs.getD 0 0))

/-- shl: B read as .n64 (R350). -/
def shiftLeft (t : Ty) (vs : List W64) : W64 :=
  let s := (vs.getD 1 0).toNat
  if tyBits t ≤ s then 0 else extTy t (lowBits t (vs.getD 0 0) * 2 ^ s)

/-- shr: natural for .n types, arithmetic for .i types (R350). -/
def shiftRight (t : Ty) (vs : List W64) : W64 :=
  let s := (vs.getD 1 0).toNat
  let a := readTy t (vs.getD 0 0)
  if tyBits t ≤ s then (if a < 0 then wrapTy t (-1) else 0) else wrapTy t (a / ((2 ^ s : Nat) : Int))

/-- rotl: by B mod n within n bits (R350). -/
def rotLeft (t : Ty) (vs : List W64) : W64 :=
  let n := tyBits t
  let s := (vs.getD 1 0).toNat % n
  let a := lowBits t (vs.getD 0 0)
  extTy t (a * 2 ^ s % 2 ^ n + a / 2 ^ (n - s))

/-- clz: n when a is 0 (R350). -/
def clzOf (t : Ty) (vs : List W64) : W64 := extTy t (leadZeros (lowBits t (vs.getD 0 0)) (tyBits t))

/-- popc (R350). -/
def popCount (t : Ty) (vs : List W64) : W64 :=
  extTy t ((List.range (tyBits t)).filter (fun i => nbit (lowBits t (vs.getD 0 0)) i)).length

/-- bext: position B and length C, both .n64 (R350). -/
def bitExtract (t : Ty) (vs : List W64) : W64 :=
  let n := tyBits t
  let p := (vs.getD 1 0).toNat
  let l := (vs.getD 2 0).toNat
  if l == 0 || n ≤ p then 0
  else
    let w := min l (n - p)
    let x := nbits (lowBits t (vs.getD 0 0)) (p + w - 1) p
    if tySigned t then wrapTy t (sextInt x w) else extTy t x

/-- bins: C holds the position in bits 7:0 and the length in bits 15:8 (R350). -/
def bitInsert (t : Ty) (vs : List W64) : W64 :=
  let n := tyBits t
  let a := lowBits t (vs.getD 0 0)
  let p := nbits (vs.getD 2 0).toNat 7 0
  let l := nbits (vs.getD 2 0).toNat 15 8
  if l == 0 || n ≤ p then extTy t a
  else
    let w := min l (n - p)
    extTy t (a - nbits a (p + w - 1) p * 2 ^ p + (vs.getD 1 0).toNat % 2 ^ w * 2 ^ p)

/-- The chosen operand of sel, read and written under the type (R351). -/
def selTy (t : Ty) (v : W64) : W64 := extTy t (lowBits t v)

/-- lea (R354). -/
def leaVal (sc : Nat) (vs : List W64) : W64 := BitVec.ofNat 64 ((vs.getD 0 0).toNat + (vs.getD 1 0).toNat * 2 ^ sc)

/-- Latency of div and rem by width (R364). -/
def divLatency (t : Ty) : Nat :=
  match tyBits t with
  | 8 => 10 | 16 => 14 | 32 => 22 | _ => 38

/- The instructions. -/

def stepAdd (t : Ty) (d : Dst) (a b : Src) (p : Option Pred) (s : State) : State := execPure d p [a, b] 1 (intOp t (· + ·)) s
def stepSub (t : Ty) (d : Dst) (a b : Src) (p : Option Pred) (s : State) : State := execPure d p [a, b] 1 (intOp t (· - ·)) s
def stepMul (t : Ty) (d : Dst) (a b : Src) (p : Option Pred) (s : State) : State := execPure d p [a, b] 3 (intOp t (· * ·)) s
def stepMulh (t : Ty) (d : Dst) (a b : Src) (p : Option Pred) (s : State) : State :=
  execPure d p [a, b] 3 (intOp t (mulHigh t)) s

/-- The shared body of div and rem: a zero divisor faults unless it is poisoned, and does not take the divider (R349,
R364). -/
def divBody (t : Ty) (f : Int → Int → Int) (d : Dst) (p : Option Pred) (a b : Src) (s : State) : State :=
  match beginFire s (some d) p [a, b] with
  | .wait => s
  | .over s => s
  | .go t0 vs =>
    let y := readTy t (opVal vs 1)
    if y == 0 && !opPoi vs 1 then fireFault s t0 1 .divz 0 vs[0]? vs[1]?
    else
      match divFrom s.curCore s.curCore.run.cursor (tyBits t) vs[1]? with
      | none => s
      | some u =>
        let t1 := fireCycle s.curCore.run (max t0 u)
        let lat := divLatency t
        let s := s.modCore s.curKey (fun c => { c with run := { c.run with divFree := t1 + lat } })
        let v := if y == 0 then 0 else wrapTy t (f (readTy t (opVal vs 0)) y)
        land s t1 lat d v (anyPoison vs) vs[0]? vs[1]?

def stepDiv (t : Ty) (d : Dst) (a b : Src) (p : Option Pred) (s : State) : State := divBody t Int.tdiv d p a b s
def stepRem (t : Ty) (d : Dst) (a b : Src) (p : Option Pred) (s : State) : State := divBody t Int.tmod d p a b s
def stepMin (t : Ty) (d : Dst) (a b : Src) (p : Option Pred) (s : State) : State :=
  execPure d p [a, b] 1 (intOp t (fun x y => if y < x then y else x)) s
def stepMax (t : Ty) (d : Dst) (a b : Src) (p : Option Pred) (s : State) : State :=
  execPure d p [a, b] 1 (intOp t (fun x y => if x < y then y else x)) s
def stepAdds (t : Ty) (d : Dst) (a b : Src) (p : Option Pred) (s : State) : State :=
  execPure d p [a, b] 1 (intOp t (fun x y => clampTy t (x + y))) s
def stepSubs (t : Ty) (d : Dst) (a b : Src) (p : Option Pred) (s : State) : State :=
  execPure d p [a, b] 1 (intOp t (fun x y => clampTy t (x - y))) s
def stepAbs (t : Ty) (d : Dst) (a : Src) (p : Option Pred) (s : State) : State :=
  execPure d p [a] 1 (intOp t (fun x _ => if x < 0 then -x else x)) s
def stepNeg (t : Ty) (d : Dst) (a : Src) (p : Option Pred) (s : State) : State :=
  execPure d p [a] 1 (intOp t (fun x _ => -x)) s
def stepAnd (t : Ty) (d : Dst) (a b : Src) (p : Option Pred) (s : State) : State := execPure d p [a, b] 1 (bitOp t (· &&& ·)) s
def stepOr (t : Ty) (d : Dst) (a b : Src) (p : Option Pred) (s : State) : State := execPure d p [a, b] 1 (bitOp t (· ||| ·)) s
def stepXor (t : Ty) (d : Dst) (a b : Src) (p : Option Pred) (s : State) : State := execPure d p [a, b] 1 (bitOp t (· ^^^ ·)) s
def stepNotb (t : Ty) (d : Dst) (a : Src) (p : Option Pred) (s : State) : State := execPure d p [a] 1 (notBits t) s
def stepShl (t : Ty) (d : Dst) (a b : Src) (p : Option Pred) (s : State) : State := execPure d p [a, b] 1 (shiftLeft t) s
def stepShr (t : Ty) (d : Dst) (a b : Src) (p : Option Pred) (s : State) : State := execPure d p [a, b] 1 (shiftRight t) s
def stepRotl (t : Ty) (d : Dst) (a b : Src) (p : Option Pred) (s : State) : State := execPure d p [a, b] 1 (rotLeft t) s
def stepClz (t : Ty) (d : Dst) (a : Src) (p : Option Pred) (s : State) : State := execPure d p [a] 1 (clzOf t) s
def stepPopc (t : Ty) (d : Dst) (a : Src) (p : Option Pred) (s : State) : State := execPure d p [a] 1 (popCount t) s
def stepBext (t : Ty) (d : Dst) (a b c : Src) (p : Option Pred) (s : State) : State :=
  execPure d p [a, b, c] 1 (bitExtract t) s
def stepBins (t : Ty) (d : Dst) (a b c : Src) (p : Option Pred) (s : State) : State :=
  execPure d p [a, b, c] 1 (bitInsert t) s

/-- A compare (R351). -/
def compareBody (t : Ty) (c : Cond) (d : Dst) (p : Option Pred) (a b : Src) (s : State) : State :=
  execPure d p [a, b] 1 (fun vs => boolWord (intRel t c (vs.getD 0 0) (vs.getD 1 0))) s

def stepCmpeq (t : Ty) (d : Dst) (a b : Src) (p : Option Pred) (s : State) : State := compareBody t .eq d p a b s
def stepCmpne (t : Ty) (d : Dst) (a b : Src) (p : Option Pred) (s : State) : State := compareBody t .ne d p a b s
def stepCmplt (t : Ty) (d : Dst) (a b : Src) (p : Option Pred) (s : State) : State := compareBody t .lt d p a b s
def stepCmple (t : Ty) (d : Dst) (a b : Src) (p : Option Pred) (s : State) : State := compareBody t .le d p a b s

/-- sel: poisoned if A or the chosen operand is (R351). -/
def stepSel (t : Ty) (d : Dst) (a b c : Src) (p : Option Pred) (s : State) : State :=
  execVal d p [a, b, c] 1 (fun vs =>
    let k := if opVal vs 0 != 0 then 1 else 2
    .val (selTy t (opVal vs k)) (opPoi vs 0 || opPoi vs k)) s

def stepLdiI64 (d : Dst) (imm : BitVec 32) (s : State) : State := execPure d none [] 1 (fun _ => imm.signExtend 64) s
def stepLdiN64 (d : Dst) (imm : BitVec 32) (s : State) : State := execPure d none [] 1 (fun _ => imm.setWidth 64) s
def stepLdhiN64 (d : Dst) (imm : BitVec 32) (s : State) : State :=
  execPure d none [] 1 (fun _ => BitVec.ofNat 64 (imm.toNat * 2 ^ 32)) s

/-- addi: the immediate sign-extended for .i types, zero-extended for .n types (R353). -/
def stepAddi (t : Ty) (d : Dst) (a : Src) (imm : BitVec 16) (p : Option Pred) (s : State) : State :=
  execPure d p [a] 1 (intOp t (fun x _ => x + readInt (tySigned t) 16 imm.toNat)) s

def stepLea (d : Dst) (a b : Src) (sc : BitVec 3) (p : Option Pred) (s : State) : State :=
  execPure d p [a, b] 1 (leaVal sc.toNat) s

/-- The tag layout the current core's plan declares (R171, R359). -/
def curLayout (s : State) : List TagField :=
  match keyRegion s.curKey with
  | some r => (s.region r).layout
  | none => []

def stepTfx (d : Dst) (a : Src) (f : BitVec 3) (p : Option Pred) (s : State) : State :=
  execPure d p [a] 1 (fun vs => BitVec.ofNat 64 (getField (curLayout s) f.toNat (vs.getD 0 0))) s

def stepTfi (d : Dst) (a b : Src) (f : BitVec 3) (p : Option Pred) (s : State) : State :=
  execPure d p [a, b] 1 (fun vs => setField (curLayout s) f.toNat (vs.getD 0 0) (vs.getD 1 0).toNat) s

end Sys2Proof.Machine
end

