-- ==== Sys2Proof/Machine/CoreMem.lean ====
section
/-! DEFINITION. A block core's data cache (R142, R370), its loads with their forwarding (R369, R372), its write-backs and the
post-commit faults they raise (R367), address formation (R368). -/

namespace Sys2Proof.Machine

/-- A target moved by some bytes. -/
def Tgt.add (t : Tgt) (n : Nat) : Tgt :=
  match t with
  | .win d w o => .win d w (o + n)
  | .hbm a => .hbm (a + n)
  | .remote d w c o => .remote d w c (o + n)
  | .scratch r o => .scratch r (o + n)
  | .code o => .code (o + n)
  | .cmn d a => .cmn d (a + n)

def Tgt.sub (t : Tgt) (n : Nat) : Tgt :=
  match t with
  | .win d w o => .win d w (o - n)
  | .hbm a => .hbm (a - n)
  | .remote d w c o => .remote d w c (o - n)
  | .scratch r o => .scratch r (o - n)
  | .code o => .code (o - n)
  | .cmn d a => .cmn d (a - n)

/-- Bytes of the body that launch reads (R67, R384). -/
def bodyBytes : Nat := 152

/-- The address of an operation that has been translated at fire: what it accesses, where, and its bytes (R365). -/
def OutOp.addr : OutOp → Option (AKind × W64 × Nat)
  | .st va n _ _ _ => some (.write, va, n)
  | .stp va _ _ _ => some (.pWrite, va, 8)
  | .ldc _ _ va n _ _ => some (.chRead, va, n)
  | .stc va n _ _ _ _ => some (.chWrite, va, n)
  | .crel va _ => some (.cread, va, 1)
  | .atomic _ t _ va _ _ _ => some (.atomic, va, tyBytes t)
  | .rel va _ _ _ _ => some (.write, va, 8)
  | .pf va _ _ _ _ _ => some (.read, va, 1)
  | .eng d _ => some (.read, d, 8)
  | .launch _ d _ => some (.read, d, bodyBytes)
  | .cnull _ | .fence _ | .inv _ _ _ | .snap | .wsr _ _ | .tact _ _ _ _ => none

/-- An operation with another target. -/
def OutOp.retarget (t : Tgt) : OutOp → OutOp
  | .st va n v p _ => .st va n v p t
  | .stp va v p _ => .stp va v p t
  | .ldc g ty va n _ c => .ldc g ty va n t c
  | .stc va n v p _ c => .stc va n v p t c
  | .crel va _ => .crel va t
  | .atomic f ty g va _ b c => .atomic f ty g va t b c
  | .rel va _ v p sc => .rel va t v p sc
  | .pf va _ n tag m q => .pf va t n tag m q
  | .eng d _ => .eng d t
  | .launch g va _ => .launch g va t
  | o => o

/-- An operation's address overlaps the range. -/
def OutOp.overlaps (o : OutOp) (lo hi : Nat) : Bool :=
  match o.addr with
  | some (_, va, n) => va.toNat ≤ hi && lo < va.toNat + n
  | none => false

/-- Plain accesses to the Commons and to HBM go through the data cache; the aperture and remote windows bypass it (R142,
R370). -/
def Tgt.cached : Tgt → Bool
  | .win _ _ _ | .hbm _ | .cmn _ _ => true
  | _ => false

/-- The fault record of a post-commit fault (R367): FLG 0x03 whatever the fault, `addr` in OPA, the issuing block in OPB, AUX with bit 31, the index, and
for F_XLATE the cause in bits 7:0 and the index in bits 14:8. -/
def postRecord (key code cause idx : Nat) (addr baddr tag : W64) : FaultRec :=
  { code := code, mid := coreMid key, flg := 3, tag := tag, opa := addr, opb := baddr
    aux := BitVec.ofNat 32 (2 ^ 31) ||| auxOf code cause idx }

/-- A post-commit fault sets out for its core (R367). -/
def postFault (s : State) (key : Nat) (code : FCode) (cause idx : Nat) (addr baddr : W64) (g : Option Nat) : State :=
  s.send (.fault key (postRecord key code.num cause idx addr baddr 0) g)

/- The data cache. -/

/-- Lines a data cache holds: 256 KiB (R97). -/
def cacheLines : Nat := 4096

/-- Bytes lo to lo + n − 1 of a line as a mask. -/
def spanMask (lo n : Nat) : W64 := BitVec.ofNat 64 ((2 ^ n - 1) * 2 ^ lo)

/-- The lowest and one past the highest dirty byte. -/
def dirtySpan (l : CLine) : Nat × Nat :=
  let ds := (List.range 64).filter (fun i => l.dirty.getLsbD i)
  (ds.head?.getD 0, (ds.getLast?.map (· + 1)).getD 0)

/-- Runs of dirty bytes of a line, as (first, length); `i` counts down from 64. -/
def dirtyRuns (l : CLine) : Nat → List (Nat × Nat) → List (Nat × Nat)
  | 0, rs => rs
  | i + 1, rs =>
    if !l.dirty.getLsbD i then dirtyRuns l i rs
    else
      match rs with
      | (a, n) :: rest => if a == i + 1 then dirtyRuns l i ((i, n + 1) :: rest) else dirtyRuns l i ((i, 1) :: rs)
      | [] => dirtyRuns l i [(i, 1)]

/-- A run of dirty bytes sets out as a write of its own: for another station, or to a tile that makes it wait. -/
def wbRun (key : Nat) (l : CLine) (s : State) (x : Nat × Nat) : State :=
  s.send (.plain
    { who := .wb key, kind := .write, mid := coreMid key, tgt := l.tgt.add x.1, va := BitVec.ofNat 64 (l.va * 64 + x.1), n := x.2
      data := (l.bytes.drop x.1).take x.2, since := s.ns
      poi := (List.range 16).any (fun k => l.poi.getLsbD k && x.1 < 4 * k + 4 && 4 * k < x.1 + x.2) })

/-- A run of dirty bytes is written into a window's descriptor (R99). -/
def descRun (key : Nat) (l : CLine) (ma : Nat) (s : State) (x : Nat × Nat) : State :=
  match s.storeHome (coreMid key) (ma + x.1) ((l.bytes.drop x.1).take x.2) false with
  | some s => s
  | none => postFault s key .desc 0 0x7F (BitVec.ofNat 64 (l.va * 64 + x.1)) 0 none

/-- The dirty bytes of a line whose first byte stands at a memory address are written. -/
def writeLine (s : State) (key : Nat) (l : CLine) (ma : Nat) : State :=
  if (descAt ma).isSome then (dirtyRuns l 64 []).foldl (descRun key l ma) s else storeMasked s ma l.bytes l.dirty l.poi 16

/-- The dirty bytes of a line set out as writes of their own. -/
def sendLine (s : State) (key : Nat) (l : CLine) : State := (dirtyRuns l 64 []).foldl (wbRun key l) s

/-- Write back the dirty bytes of a line (R370); the Bool is false where the target makes it wait. A refusal discards the bytes and
raises a post-commit fault. -/
def writeBackLine (s : State) (key : Nat) (l : CLine) : State × Bool :=
  if l.dirty == 0 then (s, true)
  else
    let (lo, hi) := dirtySpan l
    match locate s (.wb key) (coreMid key) (l.tgt.add lo) (hi - lo) .write with
    | .at_ s ma => (writeLine s key l (ma - lo), true)
    | .wait _ => (s, false)
    | .refused s c cause => (postFault s key c cause 0x7F (BitVec.ofNat 64 (l.va * 64 + lo)) 0 none, true)
    | .remote s _ _ _ _ => (sendLine s key l, true)

/-- Write back the lines a test selects, in the cache's order; lines whose target makes them wait stay dirty. The Bool says
that none was left. `drop` removes the lines written. -/
def writeBackLines (s : State) (key : Nat) (sel : CLine → Bool) (drop : Bool) : List CLine → List CLine → Bool → State × Bool
  | [], done, ok => (s.modCore key (fun c => { c with cache := done.reverse }), ok)
  | l :: ls, done, ok =>
    if !sel l then writeBackLines s key sel drop ls (l :: done) ok
    else
      match writeBackLine s key l with
      | (s, true) =>
        writeBackLines s key sel drop ls
          (if drop then done else { l with dirty := 0, epochs := [] } :: done) ok
      | (s, false) => writeBackLines s key sel drop ls (l :: done) false

/-- Write back every selected dirty line. -/
def writeBack (s : State) (key : Nat) (sel : CLine → Bool) (drop : Bool) : State × Bool :=
  writeBackLines s key sel drop (s.core key).cache [] true

/-- Write back every dirty line of a core (R150, R157, R379). -/
def flushAll (s : State) (key : Nat) : State × Bool := writeBack s key (fun l => l.dirty != 0) false

/-- Every dirty line of a core that ends leaves it: one whose tile makes it wait sets out for it (R150). -/
def flushOut (s : State) (key : Nat) : State :=
  let s := (flushAll s key).1
  (s.core key).cache.foldl (fun s l => if l.dirty == 0 then s else sendLine s key l) s

/-- Before a bypassing access to a line the core holds, the core writes back its dirty bytes and drops it (R370). -/
def bypassLine (s : State) (key : Nat) (va : W64) (n : Nat) : State × Bool :=
  writeBack s key (fun l => va.toNat / 64 ≤ l.va && l.va ≤ (va.toNat + n - 1) / 64) true

/-- Invalidate every valid byte whose dirty bit is clear; a line that holds only clean bytes is dropped (R370). -/
def invalidateClean (c : Core) : Core :=
  { c with cache := (c.cache.filter (fun l => l.dirty != 0)).map (fun l => { l with valid := l.dirty }) }

/-- Put a line first; evict the least recently used beyond the capacity, which is written back (R370). A line whose write-back
must wait stays. -/
def cachePut (s : State) (key : Nat) (l : CLine) : State :=
  let c := s.core key
  let ls := l :: c.cache.filter (fun x => x.va != l.va)
  if ls.length ≤ cacheLines then s.setCore key { c with cache := ls }
  else
    match ls.getLast? with
    | none => s.setCore key { c with cache := ls }
    | some v =>
      match writeBackLine s key v with
      | (s, true) => s.modCore key (fun c => { c with cache := ls.dropLast })
      | (s, false) => s.setCore key { c with cache := ls }

def cacheFind (c : Core) (la : Nat) : Option CLine := c.cache.find? (fun l => l.va == la)

/-- Merge memory's bytes with the dirty bytes of a held line (R370); a 4-byte word is poisoned where a byte of it comes from a poisoned word
(R55). -/
def mergeLine (l : CLine) (mem : List Byte) (poi : W16) : CLine :=
  { l with
    bytes := (List.range 64).map (fun i => if l.dirty.getLsbD i then l.bytes.getD i 0 else mem.getD i 0)
    valid := BitVec.allOnes 64
    poi := (List.range 16).foldl (fun (p : W16) k =>
      let held := (List.range 4).map (fun j => l.dirty.getLsbD (4 * k + j))
      if (held.any id && l.poi.getLsbD k) || (!held.all id && poi.getLsbD k) then p ||| BitVec.ofNat 16 (2 ^ k) else p) 0 }

/-- What a load finds: its bytes, and for each whether its 4-byte word is poisoned. -/
inductive LoadRes where
  | ok (s : State) (bs : List Byte) (poi : List Bool) (lat : Nat)
  | wait (s : State)
  | refused (s : State) (c : FCode) (cause : Nat)
  | remote (s : State) (die w chan off : Nat)

/-- For each of the n bytes from lo of a line, whether its 4-byte word is poisoned. -/
def lineBytePoison (p : W16) (lo n : Nat) : List Bool := (List.range n).map (fun i => p.getLsbD ((lo + i) / 4))

/-- The same for n bytes of memory. -/
def memBytePoison (s : State) (ma n : Nat) : List Bool := (List.range n).map (fun i => smem s.poison ((ma + i) / 4))

/-- The core that made an access. -/
def whoCore : Who → Option Nat
  | .slot c _ | .reg c _ _ _ | .op c _ _ | .wb c => some c
  | _ => none

/-- An access on its way that is not yet performed; the Bool says that it is a chained one. -/
def onWay : NetMsg → Option (Access × Bool)
  | .chain a | .chained a => some (a, true)
  | .plain a | .presence a | .deferred a | .atomic a | .release a | .acquire a | .remote a _ _ => some (a, false)
  | _ => none

/-- An access that writes nothing. -/
def readsOnly (k : AKind) : Bool := k == .read || k == .pRead || k == .chRead || k == .fetch

/-- The bytes an access takes or writes; a load that has set out for its whole line takes its own. -/
def Access.len (a : Access) : Nat := a.line.getD a.n

/-- Accesses held at their Turnstiles, null links left out. -/
def heldAccesses (s : State) : List Access := (s.chains.flatMap (fun c => c.2.held)).filter (fun a => a.n != 0)

/-- Accesses of any party that are not yet performed; the Bool says that it is a chained one (R141, R152). -/
def outstanding (s : State) : List (Access × Bool) := s.net.filterMap onWay ++ (heldAccesses s).map (fun a => (a, true))

/-- The bytes of line la that an access of core k is yet to write: memory holds them as they were before it, and a line that is fetched meanwhile
does not (R143, R159 note 1). -/
def yetToWrite (s : State) (k la : Nat) : W64 :=
  (outstanding s).foldl (fun m x =>
    let lo := x.1.va.toNat
    let hi := lo + x.1.len
    if whoCore x.1.who == some k && !readsOnly x.1.kind && lo < la * 64 + 64 && la * 64 < hi then
      m ||| spanMask (lo - la * 64) (min hi (la * 64 + 64) - max lo (la * 64))
    else m) 0

/-- The line at va / 64 takes the 64 bytes of memory that were read for it, and gives the n bytes at va (R370). -/
def fillLine (s : State) (key : Nat) (va : W64) (n : Nat) (tgt : Tgt) (mem : List Byte) (poi : W16) : State × List Byte × List Bool :=
  let la := va.toNat / 64
  let lo := va.toNat % 64
  let old := (cacheFind (s.core key) la).getD { va := la, tgt := tgt, bytes := [], valid := 0, dirty := 0, poi := 0, epochs := [] }
  let l := mergeLine old mem poi
  (cachePut s key { l with valid := l.dirty ||| ~~~ yetToWrite s key la }, (l.bytes.drop lo).take n, lineBytePoison l.poi lo n)

/-- Cycles of a load that misses: a Commons plain access of 128 ns at 3.6 GHz, plus 8 (R84, R392). -/
def missCycles : Nat := 469

/-- A plain load of n bytes at va by a core (R370, R372, R392). -/
def coreLoad (s : State) (key : Nat) (va : W64) (n : Nat) (tgt : Tgt) : LoadRes :=
  if tgt.cached then
    let la := va.toNat / 64
    let lo := va.toNat % 64
    let need := spanMask lo n
    let hit := match cacheFind (s.core key) la with
      | some l => if l.valid &&& need == need then some l else none
      | none => none
    match hit with
    | some l =>
      let s := s.modCore key (fun c => { c with cache := l :: c.cache.filter (fun x => x.va != la) })
      .ok s ((l.bytes.drop lo).take n) (lineBytePoison l.poi lo n) 4
    | none =>
      match locate s .none (coreMid key) (tgt.sub lo) 64 .read with
      | .wait s => .wait s
      | .refused s c cause => .refused s c cause
      | .remote s d w c o => .remote s d w c (o + lo)
      | .at_ s ma =>
        let (s, bs, poi) := fillLine s key va n (tgt.sub lo) (s.loadMem ma 64).1 (linePoison s ma)
        .ok s bs poi missCycles
  else
    match locate s .none (coreMid key) tgt n .read with
    | .wait s => .wait s
    | .refused s c cause => .refused s c cause
    | .remote s d w c o => .remote s d w c o
    | .at_ s ma => .ok s (s.loadMem ma n).1 (memBytePoison s ma n) 6

/-- A plain store at its commit: through the cache, or outright where it bypasses it (R370, R372). -/
def coreStore (s : State) (key : Nat) (va : W64) (n : Nat) (v : W64) (poi : Bool) (tgt : Tgt) : State :=
  let bs := leBytes v.toNat n
  if tgt.cached then
    let la := va.toNat / 64
    let lo := va.toNat % 64
    let c := s.core key
    let old := (cacheFind c la).getD
      { va := la, tgt := tgt.sub lo, bytes := List.replicate 64 0, valid := 0, dirty := 0, poi := 0, epochs := [] }
    let m := spanMask lo n
    let l : CLine :=
      { old with
        bytes := (List.range 64).map (fun i => if lo ≤ i && i < lo + n then bs.getD (i - lo) 0 else old.bytes.getD i 0)
        valid := old.valid ||| m
        dirty := old.dirty ||| m
        poi := (List.range 16).foldl (fun (p : W16) k =>
          let hit := lo / 4 ≤ k && k ≤ (lo + n - 1) / 4
          let whole := lo ≤ 4 * k && 4 * k + 4 ≤ lo + n
          let bit := if !hit then old.poi.getLsbD k else if poi then true else if whole then false else old.poi.getLsbD k
          if bit then p ||| BitVec.ofNat 16 (2 ^ k) else p) 0
        epochs := if old.epochs.contains c.epoch then old.epochs else c.epoch :: old.epochs }
    cachePut s key l
  else
    match locate s .none (coreMid key) tgt n .write with
    | .at_ s ma => s.storeMem ma bs poi
    | _ => s

/- Loads within a block (R369). -/

/-- The byte at va that an executed st of lower index writes: the highest such index. -/
def forwardByte (r : BlockRun) (i : Nat) (va : Nat) : Option (Byte × Bool) :=
  (List.range i).foldl (fun acc j =>
    let x := r.slot j
    match x.fired, x.off, x.op with
    | true, false, some (.st a n v poi _) =>
      if a.toNat ≤ va && va < a.toNat + n then some ((leBytes v.toNat n).getD (va - a.toNat) 0, poi) else acc
    | _, _, _ => acc) none

/-- The bytes of a load, forwarded ones over those of memory, and whether one of them is poisoned where it comes from (R55, R369). -/
def mergeForward (r : BlockRun) (i : Nat) (va : Nat) (bs : List Byte) (poi : List Bool) : List Byte × Bool :=
  let ws := (List.range bs.length).map (fun j => (forwardByte r i (va + j)).getD (bs.getD j 0, poi.getD j false))
  (ws.map (·.1), ws.any (·.2))

/-- Every byte of the load is forwarded. -/
def allForwarded (r : BlockRun) (i va n : Nat) : Bool := (List.range n).all (fun j => (forwardByte r i (va + j)).isSome)

/- Addresses (R368). -/

inductive AddrRes where
  | ok (s : State) (t : Tgt)
  | fault (s : State) (c : FCode) (cause : Nat)
  | withheld (s : State) (va : Option W64)

/-- Canonicity, translation with its rights, straddling. -/
def addrReach (s : State) (kind : AKind) (a : W64) (n : Nat) : AddrRes :=
  match translate s s.curKey kind a n with
  | .ok s t => .ok s t
  | .fault s c cause => .fault s c cause
  | .withheld s va => .withheld s va

/-- The address checks of R368 in their order: poison, alignment, canonicity and translation with its rights, straddling. -/
def addrCheck (s : State) (kind : AKind) (poi : Bool) (a : W64) (n : Nat) : AddrRes :=
  if poi then .fault s .poison 0 else if a.toNat % n != 0 then .fault s .align 0 else addrReach s kind a n

/-- A withheld translation stalls the instruction in place and is noted in the region for the walker (R131, R132, R134); one that the walker has
not walked yet is tried again. -/
def stallSlot (s : State) (va : Option W64) : State :=
  match va, keyRegion s.curKey with
  | some a, some r =>
    withhold (s.modCore s.curKey (fun c => { c with run := c.run.setSlot c.run.cursor { (c.run.slot c.run.cursor) with stall := true } })) r
      (2 * s.curKey) a
  | _, _ => s

/-- A withheld translation that has ended leaves the region's list. -/
def unstall (s : State) (a : W64) : State :=
  match keyRegion s.curKey with
  | none => s
  | some r => unhold s r (2 * s.curKey) a

end Sys2Proof.Machine
end

