-- ==== Sys2Proof/Machine/Events.lean ====
section
/-! DEFINITION. Frames, completion events and unsolicited events on the sessions' channels (R23, R26 to R29, R57, R60, R71),
the session's ring of fault records (R70). -/

namespace Sys2Proof.Machine

def State.session (s : State) (sid : Nat) : Session := fgetD s.sessions sid {}
def State.setSession (s : State) (sid : Nat) (x : Session) : State := { s with sessions := fset s.sessions sid x }
def State.modSession (s : State) (sid : Nat) (f : Session → Session) : State := { s with sessions := fmodify s.sessions sid f }

/-- The key of channel chn of a session. -/
def chanKey (sid chn : Nat) : Nat := sid * 65536 + chn
def State.chan (s : State) (k : Nat) : Chan := fgetD s.chans k {}
def State.setChan (s : State) (k : Nat) (c : Chan) : State := { s with chans := fset s.chans k c }
def State.modChan (s : State) (k : Nat) (f : Chan → Chan) : State := { s with chans := fmodify s.chans k f }
/-- Ports 0 to 3 are ETH0 to ETH3, whole or half A; 4 to 7 are the halves B of a split port, which share its PORTCFG (R21, R22). -/
def State.portOf (s : State) (p : Nat) : Port := s.ports.getD (p % 4) {}
def State.modPort (s : State) (p : Nat) (f : Port → Port) : State := { s with ports := s.ports.set (p % 4) (f (s.portOf p)) }

/-- The port is enabled, and a half B exists in split mode only (R21, R22). -/
def State.portOn (s : State) (p : Nat) : Bool := (s.portOf p).en && (p < 4 || (p < 8 && (s.portOf p).split))

/-- A frame that is malformed, or too long, is counted at its port, the halves of a split port apart (R21, R25, R28). -/
def countMalformed (s : State) (p : Nat) : State :=
  s.modPort p (fun x => if p < 4 then { x with malformed := x.malformed + 1 } else { x with malformedB := x.malformedB + 1 })

/-- The largest payload on a port (R28). -/
def pmax (p : Port) : Nat := min 8192 (p.mtu - 98)

/-- Tiles of a window's ring that are free. -/
def freeTiles (w : Window) : Nat := w.depth - w.tiles.length

/-- A port sends from an address within the fused prefix (R47). -/
def sourceOk (s : State) (p : Nat) : Bool :=
  (s.portOf p).addr >>> (128 - s.egress.plen) == s.egress.prefix_ >>> (128 - s.egress.plen)

/-- Bytes of an Ethernet frame with n bytes of payload (R28). -/
def wireBytes (n : Nat) : Nat := n + 98

/-- The bytes that left by a port in the last microsecond, and n of payload more, stay within its fused rate (R47). -/
def rateRoom (s : State) (p n : Nat) : Bool :=
  ((s.wire.filter (fun x => x.1 == p && s.ns < x.2.at_ + 1000)).map (fun x => wireBytes x.2.payload.length)).sum + wireBytes n ≤ s.egress.rate

/-- A frame leaves by a port, if the port is on (R22), its payload fits (R28), its source address passes the filter, and the rate allows it
(R47). -/
def emit (s : State) (p : Nat) (f : Frame) : State :=
  if s.portOn p && f.payload.length ≤ pmax (s.portOf p) && sourceOk s p && rateRoom s p f.payload.length then
    { s with wire := s.wire ++ [(p, { f with src := (s.portOf p).addr, at_ := s.ns })] }
  else s

/-- Bytes the tile being filled by the stream at the window's head still takes. -/
def fillLeft (w : Window) : Nat :=
  match w.fills.head?.bind (·.seq) with
  | some n =>
    match fget w.tiles n with
    | some t => if t.st == .fill then tileSize w - t.got else 0
    | none => 0
  | none => 0

/-- CRD of a channel (R28, R29): for an ingress binding the frames of Pmax bytes that fit in the free tiles, as far as the field's 16 bits
count. Other channels grant 1,024 frames. -/
def creditOf (s : State) (c : Chan) : Nat :=
  if c.dir == 0 then
    let w := s.win (c.die * 4096 + c.win)
    min 65535 (freeTiles w * tileSize w / pmax (s.portOf c.port))
  else 1024

/-- A header as sent now: ACK is the last frame accepted, CRD the credit (R23). -/
def stampFrame (s : State) (c : Chan) (f : Frame) : Frame :=
  { f with ack := (c.e + 65535) % 65536, crd := creditOf s c, chn := c.chn, sid := c.sid }

/-- A frame leaves on the channel's port; what it acknowledges and grants is noted (R26): a NAK leaves the acknowledgement due, as in the
worked case of R27. A frame with poisoned bytes never comes here (R55). -/
def putFrame (s : State) (k : Nat) (f : Frame) : State :=
  let c := s.chan k
  let f := stampFrame s c f
  let nak := f.typ == 2
  emit (s.setChan k { c with
    pend := if nak then c.pend else 0, due := if nak then c.due else none
    granted := max c.granted f.crd }) c.port f

/-- ACKF or NAK: their FSQ is the sender's next unsent one (R26). -/
def putControl (s : State) (k typ : Nat) : State := putFrame s k { typ := typ, fsq := (s.chan k).tx }

/-- FSQ n lies within ACK + CRD of the latest header (R27). -/
def inCredit (c : Chan) (n : Nat) : Bool := (n + 65535 - c.a + 65536) % 65536 < c.crd

/-- A frame of the channel may be sent: the window of 1,024 and the credit of the latest header (R27). -/
def maySend (c : Chan) : Bool := c.unacked.length < 1024 && inCredit c c.tx

/-- A frame that waits, cut into frames of at most n bytes of payload, where the port's MTU has been lowered meanwhile (R28). Stream data is cut
at element boundaries, and each mark stays with the data it follows (R31). -/
def cutFrame (n esz : Nat) : Nat → Frame → List Frame
  | 0, f => [f]
  | fuel + 1, f =>
    if f.payload.length ≤ n then [f]
    else if f.typ != 0 then { f with payload := f.payload.take n, last := false, compl := false } ::
      cutFrame n esz fuel { f with payload := f.payload.drop n }
    else
      let len := f.payload.length - 8 * f.nmk
      let bs := f.payload.take len
      let ms := (List.range f.nmk).map (fun i => leNat ((f.payload.drop (len + 8 * i)).take 8))
      let inFirst := fun m => (ms.takeWhile (fun w => nbits w 47 0 * esz ≤ f.pos.toNat + m)).take 512
      let most := (inFirst (min n len)).length
      let m := min len ((n - min n (8 * most)) / esz * esz)
      let a := (inFirst m).take ((n - m) / 8)
      let rest := ms.drop a.length
      { f with
        payload := bs.take m ++ a.flatMap (fun w => leBytes w 8), nmk := a.length, mkf := !a.isEmpty, last := false, cls := false, tile := none } ::
      cutFrame n esz fuel { f with
        payload := bs.drop m ++ rest.flatMap (fun w => leBytes w 8), nmk := rest.length, mkf := !rest.isEmpty
        pos := f.pos + BitVec.ofNat 64 m }

/-- Send what the window, the credit and the port's rate allow; `fuel` bounds it. -/
def pumpChan (s : State) (k : Nat) : Nat → State
  | 0 => s
  | fuel + 1 =>
    let c := s.chan k
    match c.unsent with
    | [] => s
    | f :: fs =>
      let cut := cutFrame (pmax (s.portOf c.port)) (max c.esz 1) f.payload.length f
      let f := cut.head?.getD f
      let fs := cut.drop 1 ++ fs
      if !maySend c || !rateRoom s c.port f.payload.length then s
      else
        let f := { f with fsq := c.tx }
        let c := { c with
          unsent := fs, unacked := c.unacked ++ [{ frame := f, at_ := s.ns }], tx := (c.tx + 1) % 65536, clsTx := c.clsTx || f.cls }
        pumpChan (putFrame (s.setChan k c) k f) k fuel

def pump (s : State) (k : Nat) : State :=
  pumpChan s k ((s.chan k).unsent.length + ((s.chan k).unsent.map (fun f => f.payload.length)).sum / 1024 + 1)

/-- Bytes in pieces of n, the last marked. -/
def pieces (n : Nat) : Nat → List Byte → List (List Byte)
  | 0, bs => [bs]
  | fuel + 1, bs => if bs.length ≤ n then [bs] else bs.take n :: pieces n fuel (bs.drop n)

/-- A message in frames of a type (R57). -/
def msgFrames (typ n : Nat) (bs : List Byte) : List Frame :=
  let ps := pieces (max n 1) (bs.length + 1) bs
  (ps.dropLast.map (fun p => { typ := typ, payload := p })) ++
    (ps.getLast?.toList.map (fun p => { typ := typ, last := true, payload := p }))

/-- The station has closed its direction of the channel, or is about to: nothing follows a CLS (R23). -/
def Chan.shut (c : Chan) : Bool := c.clsTx || c.unsent.any (·.cls)

/-- Queue frames on a channel and send what may be sent. -/
def sendFrames (s : State) (k : Nat) (fs : List Frame) : State :=
  if (fget s.chans k).isNone || (s.chan k).shut then s else pump (s.modChan k (fun c => { c with unsent := c.unsent ++ fs })) k

/-- An event message (R57). -/
def eventBytes (evc sts ctag : Nat) (body : List Byte) : List Byte :=
  leBytes (evc + sts * 256 + ctag * 2 ^ 32) 8 ++ leBytes body.length 8 ++ body

def sendEvent (s : State) (sid evc sts ctag : Nat) (body : List Byte) : State :=
  let k := chanKey sid 0
  sendFrames s k (msgFrames 4 (pmax (s.portOf (s.chan k).port)) (eventBytes evc sts ctag body))

/-- An event to every open session (R71). -/
def sendAll (s : State) (evc : Nat) (body : List Byte) : State :=
  (s.sessions.map (·.1)).foldl (fun s sid => sendEvent s sid evc 0 0 body) s

/-- Statuses (R60). -/
inductive Sts where
  | ok | malformed | feature | ceiling | nospace | busy | nohandle | state | planrej | ended
  deriving DecidableEq, Repr

def Sts.num : Sts → Nat
  | .ok => 0 | .malformed => 1 | .feature => 2 | .ceiling => 3 | .nospace => 4 | .busy => 5 | .nohandle => 6 | .state => 7
  | .planrej => 8 | .ended => 9

/-- A completion event; one command of the session fewer is open, but for an event that waits to be sent (R58). -/
def complete (s : State) (sid opc : Nat) (sts : Sts) (ctag : Nat) (body : List Byte) : State :=
  let k := chanKey sid 0
  let fs := msgFrames 4 (pmax (s.portOf (s.chan k).port)) (eventBytes opc sts.num ctag body)
  (sendFrames s k (fs.map (fun f => { f with compl := f.last }))).modSession sid (fun x => { x with open_ := x.open_ - 1 })

/-- Commands of a session whose completion events have not been sent (R58). -/
def openCmds (s : State) (sid : Nat) : Nat :=
  (s.session sid).open_ + ((s.chan (chanKey sid 0)).unsent.filter (·.compl)).length

/-- A channel is gone, and the session is told (R27, R55). -/
def endChan (s : State) (k : Nat) : State :=
  let c := s.chan k
  sendEvent { s with chans := ferase s.chans k } c.sid 0x84 0 0 (leBytes c.chn 2 ++ leBytes 0 6)

/-- A fault record in the session's ring of 256, announced when the ring was empty (R70). -/
def sessionFault (s : State) (sid : Nat) (f : FaultRec) : State :=
  match fget s.sessions sid with
  | none => s
  | some x =>
    let full := 256 ≤ x.ring.length
    let ring := (if full then x.ring.drop 1 else x.ring) ++ [f]
    let s := s.setSession sid { x with ring := ring, lost := if full then x.lost + 1 else x.lost }
    if x.ring.isEmpty then sendEvent s sid 0x82 0 0 (leBytes ring.length 4 ++ leBytes 0 4) else s

/-- END of a launch (R68). -/
def sendEnd (s : State) (sid : Nat) (lid : W64) (outcome : Nat) : State :=
  (sendEvent s sid 0x81 0 0 (leBytes lid.toNat 8 ++ leBytes outcome 8)).modSession sid (fun x =>
    { x with live := x.live.map (fun l => if l.1 == lid then (lid, 1) else l) })

/-- CLMPST as a word (R20). -/
def clampWord (c : Clamp) : W64 :=
  let b (x : Bool) (k : Nat) : Nat := if x then 2 ^ k else 0
  BitVec.ofNat 64 (c.st + c.steps * 4 + b c.half 6 + b c.isov 8 + b c.temph 9 + b c.pwrh 10 + c.pwr % 65536 * 2 ^ 32 +
    c.tmax % 65536 * 2 ^ 48)

end Sys2Proof.Machine
end

