-- ==== Sys2Proof/Machine/Memory.lean ====
section
/-! DEFINITION. Memory, atomic and synchronisation instructions of blocks (R371 to R379): what each does when it fires. What acts
at commit is laid aside in the instruction's slot (R365). -/

namespace Sys2Proof.Machine

/-- A firing class S instruction lays its operation aside until the commit. -/
def layAside (s : State) (t : Nat) (op : OutOp) (a b : Option Operand) : State :=
  fireSlot s t (fun x => { x with op := some op, ready := some (t + 1), opa := a.map (·.val), opb := b.map (·.val) })

/-- An instruction whose D is written after commit: it counts as the write of its g-register (R366). -/
def layAsideLate (s : State) (t : Nat) (op : OutOp) (a b : Option Operand) : State := layAside s t op a b

/-- The cycle in which an instruction fires that also waits for others of its block. -/
def structCycle (s : State) (t : Nat) : Option Nat :=
  (structFrom s.curCore s.curCore.run.cursor).map (fun u => fireCycle s.curCore.run (max t u))

/-- What the address checks of an instruction firing in cycle t come to; `k` goes on with the target. -/
def onAddr (t : Nat) (a : W64) (oa ob : Option Operand) (k : State → Tgt → State) : AddrRes → State
  | .fault s c cause => fireFault s t 1 c cause oa ob
  | .withheld s va => stallSlot s va
  | .ok s tgt => k (unstall s a) tgt

/-- The address checks of R368 for an instruction firing in cycle t. -/
def withAddr (s : State) (t : Nat) (kind : AKind) (poi : Bool) (a : W64) (n : Nat) (oa ob : Option Operand)
    (k : State → Tgt → State) : State :=
  onAddr t a oa ob k (addrCheck s kind poi a n)

/-- A load of the running block lands: forwarded bytes over memory's, extended under its type (R343, R369, R372). -/
def landLoad (s : State) (t lat : Nat) (d : Dst) (ty : Ty) (va : W64) (bs : List Byte) (poi : List Bool)
    (a b : Option Operand) : State :=
  let (bs, poi) := mergeForward s.curCore.run s.curCore.run.cursor va.toNat bs poi
  land s t lat d (extTy ty (leNat bs)) poi a b

/-- The access on its way to a tile's home that a message is. -/
def tileAccess : NetMsg → Option Access
  | .plain a | .presence a | .atomic a | .release a | .acquire a => some a
  | _ => none

/-- An earlier access of core k to one of the n bytes at va is not yet performed, and a new one that writes (`w`) or reads must follow it
(R141, R159 note 1). The accesses of a chain are ordered by their chain alone. -/
def clashes (s : State) (k : Nat) (va : W64) (n : Nat) (w chained : Bool) : Bool :=
  (outstanding s).any (fun x =>
    whoCore x.1.who == some k && !(x.2 && chained) && (w || !readsOnly x.1.kind) && x.1.va.toNat < va.toNat + n &&
      va.toNat < x.1.va.toNat + x.1.len)

/-- The access of a load that cannot land at once: through the data cache it sets out for its line (R370). -/
def loadAway (a : Access) : Access :=
  if a.tgt.cached then { a with tgt := a.tgt.sub (a.va.toNat % 64), n := 64, line := some a.n } else a

/-- ld (R369, R372): at fire, after every class S instruction of lower index. Where its tile makes it wait, or its bytes stand at another station,
it is sent on its way, and lands when TILE_PLAIN_ACCESS performs it. -/
def stepLd (ty : Ty) (d : Dst) (a b : Src) (p : Option Pred) (s : State) : State :=
  match beginFire s (some d) p [a, b] with
  | .wait => s
  | .over s => s
  | .go t0 vs =>
    match structCycle s t0 with
    | none => s
    | some t =>
      let va := opVal vs 0 + opVal vs 1
      let n := tyBytes ty
      withAddr s t .read (anyPoison vs) va n vs[0]? vs[1]? (fun s tgt =>
        if allForwarded s.curCore.run s.curCore.run.cursor va.toNat n then
          landLoad s t 4 d ty va (List.replicate n 0) [] vs[0]? vs[1]?
        else if clashes s s.curKey va n false false then s
        else
          let acc : Access :=
            { who := .slot s.curKey s.curCore.run.cursor, kind := .read, mid := coreMid s.curKey, tgt := tgt, va := va
              n := n, t := ty, since := s.ns }
          match coreLoad s s.curKey va n tgt with
          | .ok s bs poi lat => landLoad s t lat d ty va bs poi vs[0]? vs[1]?
          | .refused s c cause => fireFault s t 1 c cause vs[0]? vs[1]?
          | .wait _ | .remote _ _ _ _ _ => setOut s t d vs[0]? vs[1]? (.plain (loadAway acc)))

/-- st: checked at fire, performed at commit; a poisoned C is stored with its poison (R365, R372). -/
def stepSt (ty : Ty) (a b c : Src) (p : Option Pred) (s : State) : State :=
  match beginFire s none p [a, b, c] with
  | .wait => s
  | .over s => s
  | .go t vs =>
    let va := opVal vs 0 + opVal vs 1
    let n := tyBytes ty
    withAddr s t .write (opPoi vs 0 || opPoi vs 1) va n vs[0]? vs[1]? (fun s tgt =>
      layAside s t (.st va n (opVal vs 2) (opPoi vs 2) tgt) vs[0]? vs[1]?)

/-- The chain fields of a C operand and SCK (R328). -/
def chainFields (c : W64) (k : Sck) : Chain4 :=
  let sq := nbits c.toNat 23 0
  { ch := nbits c.toNat 55 48, sq := sq, pd := nbits c.toNat 47 24
    sc := match k with
      | .next => (sq + nbits c.toNat 63 56) % 2 ^ 24
      | .zero => 0
      | .ones => 0xFFFFFF }

/-- R151, R328: what is refused at issue with F_DESC. -/
def chainBad (c : W64) (k : Sck) : Bool :=
  let f := chainFields c k
  f.sq == 0 || f.sq == 0xFFFFFF || (f.pd == 0xFFFFFF && f.sc == 0xFFFFFF) || (k == .next && nbits c.toNat 63 56 == 0)

def stepLdc (ty : Ty) (d : Fin 64) (a c : Src) (k : Sck) (p : Option Pred) (s : State) : State :=
  match beginFire s (some (.g d)) p [a, c] with
  | .wait => s
  | .over s => s
  | .go t vs =>
    let n := tyBytes ty
    if opPoi vs 1 then fireFault s t 1 .poison 0 vs[0]? none
    else if chainBad (opVal vs 1) k then fireFault s t 1 .desc 0 vs[0]? none
    else
      withAddr s t .chRead (opPoi vs 0) (opVal vs 0) n vs[0]? none (fun s tgt =>
        layAsideLate s t (.ldc d.val ty (opVal vs 0) n tgt (chainFields (opVal vs 1) k)) vs[0]? none)

def stepStc (ty : Ty) (a b c : Src) (k : Sck) (p : Option Pred) (s : State) : State :=
  match beginFire s none p [a, b, c] with
  | .wait => s
  | .over s => s
  | .go t vs =>
    let n := tyBytes ty
    if opPoi vs 2 then fireFault s t 1 .poison 0 vs[0]? vs[1]?
    else if chainBad (opVal vs 2) k then fireFault s t 1 .desc 0 vs[0]? vs[1]?
    else
      withAddr s t .chWrite (opPoi vs 0) (opVal vs 0) n vs[0]? vs[1]? (fun s tgt =>
        layAside s t (.stc (opVal vs 0) n (opVal vs 1) (opPoi vs 1) tgt (chainFields (opVal vs 2) k)) vs[0]? vs[1]?)

def stepCnull (c : Src) (k : Sck) (p : Option Pred) (s : State) : State :=
  match beginFire s none p [c] with
  | .wait => s
  | .over s => s
  | .go t vs =>
    if opPoi vs 0 then fireFault s t 1 .poison 0 none none
    else if chainBad (opVal vs 0) k then fireFault s t 1 .desc 0 none none
    else layAside s t (.cnull (chainFields (opVal vs 0) k)) none none

/-- crel: a must be the first byte of a tile of a Commons window, and the tile lies within its extent (R138, R371, R375). -/
def stepCrel (a b : Src) (p : Option Pred) (s : State) : State :=
  match beginFire s none p [a, b] with
  | .wait => s
  | .over s => s
  | .go t vs =>
    let va := opVal vs 0 + opVal vs 1
    withAddr s t .cread (anyPoison vs) va 1 vs[0]? vs[1]? (fun s tgt =>
      match tgt with
      | .win die w off =>
        let size := tileSize (s.win (die * 4096 + w))
        if off % size == 0 then
          onAddr t va vs[0]? vs[1]? (fun s tgt => layAside s t (.crel va tgt) vs[0]? vs[1]?) (addrReach s .cread va size)
        else fireFault s t 1 .cntpart 0 vs[0]? vs[1]?
      | _ => fireFault s t 1 .cntpart 0 vs[0]? vs[1]?)

/-- The window of a presence access has PRS; otherwise F_XLATE, cause 2 (R373). -/
def presenceOk (s : State) (tgt : Tgt) : Bool :=
  match tgt with
  | .win die w _ => (s.win (die * 4096 + w)).prs
  | _ => false

/-- ldp: a presence read at fire, which waits at the bank while the word is empty (R146, R373). -/
def stepLdp (ty : Ty) (d : Dst) (a b : Src) (p : Option Pred) (s : State) : State :=
  match beginFire s (some d) p [a, b] with
  | .wait => s
  | .over s => s
  | .go t0 vs =>
    match structCycle s t0 with
    | none => s
    | some t =>
      let va := opVal vs 0 + opVal vs 1
      withAddr s t .pRead (anyPoison vs) va 8 vs[0]? vs[1]? (fun s tgt =>
        if !presenceOk s tgt then fireFault s t 1 .xlate 2 vs[0]? vs[1]?
        else
          match bypassLine s s.curKey va 8 with
          | (s, false) => s
          | (s, true) =>
            if clashes s s.curKey va 8 false false then s
            else
              setOut s t d vs[0]? vs[1]?
                (.presence { who := .slot s.curKey s.curCore.run.cursor, kind := .pRead, mid := coreMid s.curKey, tgt := tgt
                             va := va, n := 8, t := ty, since := s.ns }))

def stepStp (_ty : Ty) (a b c : Src) (p : Option Pred) (s : State) : State :=
  match beginFire s none p [a, b, c] with
  | .wait => s
  | .over s => s
  | .go t vs =>
    let va := opVal vs 0 + opVal vs 1
    withAddr s t .pWrite (opPoi vs 0 || opPoi vs 1) va 8 vs[0]? vs[1]? (fun s tgt =>
      if !presenceOk s tgt then fireFault s t 1 .xlate 2 vs[0]? vs[1]?
      else layAside s t (.stp va (opVal vs 2) (opPoi vs 2) tgt) vs[0]? vs[1]?)

/-- An atomic with one data operand (R376). -/
def atomicBody (fn : Nat) (ty : Ty) (d : Fin 64) (a b : Src) (p : Option Pred) (s : State) : State :=
  match beginFire s (some (.g d)) p [a, b] with
  | .wait => s
  | .over s => s
  | .go t vs =>
    if opPoi vs 1 then fireFault s t 1 .poison 0 vs[0]? vs[1]?
    else
      withAddr s t .atomic (opPoi vs 0) (opVal vs 0) (tyBytes ty) vs[0]? vs[1]? (fun s tgt =>
        layAsideLate s t (.atomic fn ty d.val (opVal vs 0) tgt (opVal vs 1) 0) vs[0]? vs[1]?)

def stepAadd (ty : Ty) (d : Fin 64) (a b : Src) (p : Option Pred) (s : State) : State := atomicBody 0 ty d a b p s
def stepAand (ty : Ty) (d : Fin 64) (a b : Src) (p : Option Pred) (s : State) : State := atomicBody 1 ty d a b p s
def stepAor (ty : Ty) (d : Fin 64) (a b : Src) (p : Option Pred) (s : State) : State := atomicBody 2 ty d a b p s
def stepAxor (ty : Ty) (d : Fin 64) (a b : Src) (p : Option Pred) (s : State) : State := atomicBody 3 ty d a b p s
def stepAmin (ty : Ty) (d : Fin 64) (a b : Src) (p : Option Pred) (s : State) : State := atomicBody 4 ty d a b p s
def stepAmax (ty : Ty) (d : Fin 64) (a b : Src) (p : Option Pred) (s : State) : State := atomicBody 5 ty d a b p s
def stepAswp (ty : Ty) (d : Fin 64) (a b : Src) (p : Option Pred) (s : State) : State := atomicBody 6 ty d a b p s

/-- acas: b is stored where the old value equals c (R376). -/
def stepAcas (ty : Ty) (d : Fin 64) (a b c : Src) (p : Option Pred) (s : State) : State :=
  match beginFire s (some (.g d)) p [a, b, c] with
  | .wait => s
  | .over s => s
  | .go t vs =>
    if opPoi vs 1 || opPoi vs 2 then fireFault s t 1 .poison 0 vs[0]? vs[1]?
    else
      withAddr s t .atomic (opPoi vs 0) (opVal vs 0) (tyBytes ty) vs[0]? vs[1]? (fun s tgt =>
        layAsideLate s t (.atomic 7 ty d.val (opVal vs 0) tgt (opVal vs 1) (opVal vs 2)) vs[0]? vs[1]?)

/-- A prefix-cache function: it must reach a Commons window; elsewhere F_XLATE, cause 4 (R252, R376). -/
def prefixBody (fn : Nat) (d : Fin 64) (a : Src) (p : Option Pred) (s : State) : State :=
  match beginFire s (some (.g d)) p [a] with
  | .wait => s
  | .over s => s
  | .go t vs =>
    withAddr s t .atomic (opPoi vs 0) (opVal vs 0) 8 vs[0]? none (fun s tgt =>
      match tgt with
      | .win _ _ _ => layAsideLate s t (.atomic fn .n64 d.val (opVal vs 0) tgt 0 0) vs[0]? none
      | _ => fireFault s t 1 .xlate 4 vs[0]? none)

def stepPcatt (d : Fin 64) (a : Src) (p : Option Pred) (s : State) : State := prefixBody 8 d a p s
def stepPcdet (d : Fin 64) (a : Src) (p : Option Pred) (s : State) : State := prefixBody 9 d a p s
def stepPcevt (d : Fin 64) (a : Src) (p : Option Pred) (s : State) : State := prefixBody 10 d a p s
def stepPcfree (d : Fin 64) (a : Src) (p : Option Pred) (s : State) : State := prefixBody 11 d a p s
def stepPcpub (d : Fin 64) (a : Src) (p : Option Pred) (s : State) : State := prefixBody 12 d a p s

/-- A sync variable lies in a Commons window (R147, R378); a Lodge core names its Commons byte outright. -/
def syncOk (tgt : Tgt) : Bool :=
  match tgt with
  | .win _ _ _ | .cmn _ _ => true
  | _ => false

/-- Region, gang, die or station (R145, R147). -/
def scopeWide : Scope → Bool
  | .site | .cl => false
  | _ => true

/-- A message of core k is on its way. -/
def msgOf (k : Nat) (m : NetMsg) : Bool :=
  match m with
  | .crel a => whoCore a.who == some k
  | m => match onWay m with
    | some (a, _) => whoCore a.who == some k
    | none => false

/-- No access of the core is on its way. -/
def coreQuiet (s : State) (k : Nat) : Bool := !s.net.any (msgOf k)

/-- Every access of the core's earlier blocks has been performed, those that a Turnstile holds among them (R145, R159). -/
def coreSettled (s : State) (k : Nat) : Bool := coreQuiet s k && !(heldAccesses s).any (fun a => whoCore a.who == some k)

/-- A write-back of the core has set out and is not yet performed. -/
def wbOut (s : State) (k : Nat) : Bool :=
  (s.net.filterMap onWay).any (fun x => match x.1.who with
    | .wb c => c == k
    | _ => false)

/-- An acquire of scope site or cluster is a fence of that scope too, whose part at commit is laid aside (R147, R379). -/
def fenceToo (s : State) (sc : Scope) : State :=
  s.modCore s.curKey (fun c => { c with run := c.run.setSlot c.run.cursor { c.run.slot c.run.cursor with op := some (.fence sc) } })

/-- acq: at fire it sets out for the variable's home; its block's later loads wait for it (R147, R378). -/
def stepAcq (ty : Ty) (d : Dst) (a : Src) (sc : Scope) (p : Option Pred) (s : State) : State :=
  match beginFire s (some d) p [a] with
  | .wait => s
  | .over s => s
  | .go t0 vs =>
    match structCycle s t0 with
    | none => s
    | some t =>
      withAddr s t .read (opPoi vs 0) (opVal vs 0) 8 vs[0]? none (fun s tgt =>
        if !syncOk tgt then fireFault s t 1 .xlate 4 vs[0]? none
        else if !scopeWide sc && !coreSettled s s.curKey then s
        else
          match bypassLine s s.curKey (opVal vs 0) 8 with
          | (s, false) => s
          | (s, true) =>
            if clashes s s.curKey (opVal vs 0) 8 false false then s
            else
              setOut (if scopeWide sc then s else fenceToo s sc) t d vs[0]? none
                (.acquire { who := .slot s.curKey s.curCore.run.cursor, kind := .read, mid := coreMid s.curKey, tgt := tgt
                            va := opVal vs 0, n := 8, t := ty, scope := sc, since := s.ns }))

def stepRel (_ty : Ty) (a b : Src) (sc : Scope) (p : Option Pred) (s : State) : State :=
  match beginFire s none p [a, b] with
  | .wait => s
  | .over s => s
  | .go t vs =>
    withAddr s t .write (opPoi vs 0) (opVal vs 0) 8 vs[0]? vs[1]? (fun s tgt =>
      if !syncOk tgt then fireFault s t 1 .xlate 4 vs[0]? vs[1]?
      else layAside s t (.rel (opVal vs 0) tgt (opVal vs 1) (opPoi vs 1) sc) vs[0]? vs[1]?)

/-- fence: at fire it waits for every access of earlier blocks and every load of lower index, and with a wide scope it
invalidates every clean byte; the rest acts at commit (R145, R379). -/
def stepFence (sc : Scope) (p : Option Pred) (s : State) : State :=
  match beginFire s none p [] with
  | .wait => s
  | .over s => s
  | .go t0 _ =>
    match structCycle s t0 with
    | none => s
    | some t =>
      if !coreSettled s s.curKey then s
      else
        let s := if scopeWide sc then s.modCore s.curKey invalidateClean else s
        layAside s t (.fence sc) none none

end Sys2Proof.Machine
end

