-- ==== Sys2Proof/Machine/Raise.lean ====
section
/-! DEFINITION. Faults of a region: how they wait for their records (R93, R94), and how a plan ends: the release of its regions,
END (R68, R91, R93, R150, R155, R200). -/

namespace Sys2Proof.Machine

def State.gang (s : State) (g : Nat) : Gang := fgetD s.gangs g {}
def State.setGang (s : State) (g : Nat) (x : Gang) : State := { s with gangs := fset s.gangs g x }
def State.modGang (s : State) (g : Nat) (f : Gang → Gang) : State := { s with gangs := fmodify s.gangs g f }

/-- The plan a launch names. -/
def planOf (s : State) (l : Launch) : Plan := fgetD (s.session l.sid).plans l.ph {}
def gangPlan (s : State) (g : Nat) : Plan := planOf s (s.gang g).launch

/-- The gang a region runs for. -/
def regionGang (s : State) (r : Nat) : Option (Nat × Gang) := (s.region r).gang.map (fun n => (n, s.gang n))

/-- Block cores of a region. -/
def regionCores (r : Nat) : List Nat := (List.range 10).map (fun j => r * 10 + j)

/-- Who made an access is of region r. -/
def whoIn (r : Nat) (w : Who) : Bool :=
  match w with
  | .port x _ _ | .unit x _ => x == r
  | w => (whoCore w).any (fun c => c / 10 == r && c < 640)

/-- An access of region r that has left its party and is still to be performed has no party any more; a write-back stays its core's (R150). -/
def orphan (r : Nat) (a : Access) : Access :=
  match a.who with
  | .wb _ => a
  | w => if whoIn r w then { a with who := .none } else a

/-- An access of region r that only reads, or belongs to a chain. -/
def dropped (r : Nat) (a : Access) : Bool := whoIn r a.who && (readsOnly a.kind || a.chain.isSome)

/-- What becomes of a message when region r is released: a write, an atomic, a release, a counted delivery is still performed; the rest goes
with the region. -/
def leaveRegion (r : Nat) (m : NetMsg) : Option NetMsg :=
  match m with
  | .plain a => if dropped r a then none else some (.plain (orphan r a))
  | .presence a => if dropped r a then none else some (.presence (orphan r a))
  | .deferred a => if dropped r a then none else some (.deferred (orphan r a))
  | .atomic a => some (.atomic (orphan r a))
  | .release a => some (.release (orphan r a))
  | .acquire a => if whoIn r a.who then none else some m
  | .chain a | .chained a => if whoIn r a.who then none else some m
  | .crel a => some (.crel (orphan r a))
  | .counted a n => some (.counted (orphan r a) n)
  | .remote a t f => some (.remote (orphan r a) t f)
  | .reply c _ _ _ | .fault c _ _ => if c / 10 == r && c < 640 then none else some m
  | .tact x _ _ | .removal x _ _ _ _ | .arc x _ _ => if x == r then none else some m
  | m => some m

/-- The dirty lines of a region's cores are written to their homes, or set out for them, and their caches are emptied (R150). -/
def flushRegion (s : State) (r : Nat) : State :=
  (regionCores r).foldl (fun s k => (flushOut s k).modCore k (fun c => { c with cache := [], tcache := [] })) s

/-- The dirty lines of the regions' cores are written back; the Bool says that every one stands written (R150). -/
def flushWhole (s : State) (rs : List Nat) : State × Bool :=
  (rs.flatMap regionCores).foldl (fun (p : State × Bool) k =>
    let (s, ok) := flushAll p.1 k
    (s, p.2 && ok && !wbOut s k)) (s, true)

/-- Counted reads in progress at a region's port tiles, memory ports and Trellis: window, tile, opening. -/
def readsOf (g : Region) : List (Nat × Nat × Nat) :=
  g.ports.flatMap (fun p => p.2.chains.filterMap (fun c => c.box.cur.map (fun x => (x.1, x.2, c.box.copy.gen)))) ++
  g.sites.flatMap (fun n => n.2.reqs.filterMap (fun q => q.tile.map (fun x => (x.1, x.2, q.gen)))) ++
  (g.trl.q.filterMap (fun c => c.cur.map (fun x => (x.1, x.2, c.copy.gen))))

/-- Those of a saved region. -/
def readsSaved (v : Saved) : List (Nat × Nat × Nat) :=
  match v.whole with
  | some g => readsOf { g with ports := v.ports }
  | none =>
    v.ports.flatMap (fun p => p.2.chains.filterMap (fun c => c.box.cur.map (fun x => (x.1, x.2, c.box.copy.gen)))) ++
    v.reqs.flatMap (fun n => n.2.filterMap (fun q => q.tile.map (fun x => (x.1, x.2, q.gen))))

/-- The readers of a tile that give up leave its count to others (R103). -/
def giveUp (s : State) (reads : List (Nat × Nat × Nat)) : State :=
  reads.foldl (fun s x =>
    let w := s.win x.1
    if w.gen == x.2.2 then s.setWin x.1 { w with tiles := fmodify w.tiles x.2.1 (fun t => { t with rd := t.rd - 1 }) } else s) s

/-- A region's accesses wait at no target any more, but for those that are still to be performed. -/
def leaveTargets (s : State) (r : Nat) : State :=
  { s with arrived := s.arrived.filter (fun x => x.1.mid / 256 != regionMid r 0 / 256 || s.net.any (fun m => ((tileAccess m).map Access.key) == some x.1)) }

/-- A party is of region r. -/
def partyIn (r : Nat) (p : Party) : Bool :=
  match p with
  | .port x _ | .engine x _ | .mst x _ | .carousel x => x == r
  | .core k => k / 10 == r && k < 640
  | _ => false

/-- Fill streams of the parties that are gone leave a window; a tile filled in part is FREE again, and nobody closes it any more. -/
def leaveWindow (gone : Party → Bool) (x : Window) : Window :=
  let fs := x.fills.filter (fun f => !gone f.by_)
  let tiles : FMap Tile := (x.fills.filter (fun f => gone f.by_)).foldl (fun t f => match f.seq with
    | some n => ferase t n
    | none => t) x.tiles
  { x with fills := fs, tiles := tiles, prod := if fs.isEmpty then 0xFFFF else x.prod, closer := if gone x.closer then .none else x.closer }

def leaveWindows (s : State) (gone : Party → Bool) : State :=
  let wins : FMap Window := s.wins.map (fun (w : Nat × Window) => (w.1, leaveWindow gone w.2))
  { s with wins := wins }

/-- Window commands of a region's cores are gone. -/
def leaveQueues (s : State) (r : Nat) : State :=
  let mine := fun (k : Nat) => k / 10 == r && k < 640
  let wq : FMap (List Desc) := s.wq.map (fun (q : Nat × List Desc) => (q.1, q.2.filter (fun d => !mine d.by_.core)))
  { s with wq := wq }

/-- The records of the cores of regions whose dirty lines stand written, which satisfies them (R150). -/
def dropRecords (s : State) (rs : List Nat) : State :=
  let sync : FMap (List SyncRec) := s.sync.map (fun (v : Nat × List SyncRec) => (v.1, v.2.filter (fun x => 640 ≤ x.core || !rs.contains (x.core / 10))))
  { s with sync := sync.filter (fun v => !v.2.isEmpty) }

/-- Engines leave routed mode: their rows and slots are emptied and both banks cleared (R227). -/
def unroute (e : Engine) : Engine := if e.routed then { e with routed := false, slots := [], ready := [], bank0 := {}, bank1 := {} } else e

/-- The region stops and is free: its cores, streams, tasks, queues and waiting faults are gone; PGST, CFGST, RTST, TRLST,
planes and accumulators stand until the next grant. -/
def releaseRegion (s : State) (r : Nat) : State :=
  let s := { s with net := s.net.filterMap (leaveRegion r), colls := s.colls.filter (fun c => c.2.r != r) }
  let s := leaveTargets (leaveQueues (leaveWindows s (partyIn r)) r) r
  let s := s.modRegion r (fun g => { g with
    gang := none, xroot := 0, withheld := [], walks := [], wcache := [], faults := [], trap := none
    ports := g.ports.map (fun p => (p.1, { p.2 with chains := [] }))
    kiosks := [], engs := g.engs.map (fun e => (e.1, { unroute e.2 with q := [], nexts := [], run0 := none, run1 := none, out := [], drain := 0, frozen := none }))
    crs := { g.crs with ring := none, q := [], lapReady := none, frozen := none }
    trl := { g.trl with q := [], nexts := [], outs := [], endAt := none, frozen := none }, reps := [], cfg := { g.cfg with q := [] }
    store := [], cmds := 0, stopped := none, live := none, closed := false, quiet := false, ended := false })
  (regionCores r).foldl (fun s k => s.setCore k {}) s

/-- Held entries and open chains of a gang are gone (R155). -/
def dropChains (s : State) (g : Nat) : State := { s with chains := s.chains.filter (fun c => c.1 / 256 != g) }

/-- The regions in which a gang runs: none of those of an idle reservation, in whose slack another gang may run (R80). -/
def ownRegions (s : State) (g : Nat) : List Nat := (s.gang g).regions.filter (fun r => (s.region r).gang == some g)

/-- The counted reads that a gang has in progress are given up. -/
def dropReads (s : State) (g : Nat) : State := (ownRegions s g).foldl (fun s r => giveUp s (readsOf (s.region r))) s

/-- Write-backs of these regions' cores are not yet performed. -/
def regionsWb (s : State) (rs : List Nat) : Bool := (rs.flatMap regionCores).any (wbOut s)

/-- Regions whose cores hold no dirty line, and whose write-backs are performed, are free, and END follows where it was held back. -/
def finishParting (s : State) (p : Parting) : State :=
  let s := dropRecords s p.regions
  match p.end_ with
  | some (sid, lid, outcome) => sendEnd s sid lid outcome
  | none => s

/-- The regions of a plan that is over are released once every dirty line stands written (R150). -/
def part (s : State) (p : Parting) : State := if regionsWb s p.regions then { s with parting := s.parting ++ [p] } else finishParting s p

/-- A gang gives its regions back, its dirty lines written (R93, R150); then END is sent, if this is the end of its plan. -/
def releaseGang (s : State) (g : Nat) (e : Option (Nat × W64 × Nat)) : State :=
  let x := s.gang g
  let rs := ownRegions s g
  let s := dropChains (rs.foldl (fun s r => releaseRegion (flushRegion s r) r) s) g
  let s := match x.iso with
    | some i => s.setGang g { x with iso := some { i with running := false }, pre := none, lap := none }
    | none => { s with gangs := ferase s.gangs g }
  part s { regions := rs, end_ := e }

/-- A pre-emption request arrives at a gang, or merges with an earlier one (R85, R91). -/
def requestPre (s : State) (g : Nat) : State := s.modGang g (fun x => { x with pre := some (x.pre.getD s.ns) })

/-- An ISO reservation goes with its regions. -/
def dropResv (s : State) (g : Nat) : State :=
  let x := s.gang g
  let s := x.regions.foldl (fun s r => s.modRegion r (fun y => { y with resv := none })) s
  { s with gangs := ferase s.gangs g }

/-- The plan of a gang is over, with END's outcome (R68). -/
def endGang (s : State) (g outcome : Nat) : State :=
  let x := s.gang g
  let s := releaseGang (dropReads s g) g (some (x.sid, x.lid, outcome))
  if x.iso.isSome then dropResv s g else s

/-- The plan of the region's gang is aborted by a fault (R93). -/
def abortRegion (s : State) (r : Nat) : State :=
  match (s.region r).gang with
  | some g => endGang s g 1
  | none => s

/-- The record goes to the session ring of the region's plan (R70). -/
def regionRecord (s : State) (r : Nat) (f : FaultRec) : State :=
  match regionGang s r with
  | some (_, g) => sessionFault s g.sid f
  | none => s

/-- The place of a fault among those of one cycle (R94): its site number; a unit off the grid, whose X and Y are 0xFF, follows every site. -/
def siteOrder (f : FaultRec) : Nat := f.y * 32 + f.x

/-- A fault joins those that wait: in arrival order, on a tie by ascending site (R94). -/
def joinFaults (w : WaitFault) : List WaitFault → List WaitFault
  | [] => [w]
  | v :: vs => if v.cyc == w.cyc && siteOrder w.rcd < siteOrder v.rcd then w :: v :: vs else v :: joinFaults w vs

/-- A fault waits for its record; a ninth aborts the plan with F_FAULTOVF (R94); a mismatch does not count (R207). -/
def raiseRegion (s : State) (r : Nat) (src : FaultSrc) (f : FaultRec) : State :=
  let g := s.region r
  if g.gang.isNone then s
  else if src == .mismatch || (g.faults.filter (fun w => w.src != .mismatch)).length < 8 then
    s.setRegion r { g with faults := joinFaults { src := src, rcd := s.stamp r f, cyc := s.cyc } g.faults }
  else
    abortRegion (regionRecord s r (s.stamp r { code := FCode.faultovf.num, mid := regionMid r 40 })) r

/-- The master id in the records of a site: its port tile's for column 0 and for a memory-port element, the walker's for a TLK,
the kiosk's of an engine's row for none; otherwise the region controller's, the Pergola. -/
def siteMid (r n : Nat) (memPort : Bool) : Nat :=
  if n % 32 == 0 || memPort then regionMid r (n / 32)
  else if n % 32 == 27 && n / 32 < 8 then regionMid r 42
  else regionMid r 40

/-- A site freezes with a fault, and the fault waits for its record (R93). -/
def freezeSite (s : State) (r n : Nat) (f : SiteFault) (memPort : Bool) : State :=
  let x := s.site r n
  let s := s.setSite r n { x with frozen := some f }
  raiseRegion s r (.site n)
    { code := f.code, mid := siteMid r n memPort, x := n % 32, y := n / 32
      flg := f.valid + (if f.yng.isSome then 8 else 0) + (if f.poi then 16 else 0)
      yng := min 255 (f.yng.getD 0), tag := f.tag, opa := f.opa, opb := f.opb, aux := BitVec.ofNat 32 f.aux }

/-- A fault of a unit off the grid. -/
def raiseUnit (s : State) (r : Nat) (src : FaultSrc) (code unit aux : Nat) : State :=
  raiseRegion s r src { code := code, mid := regionMid r unit, aux := BitVec.ofNat 32 aux }

/-- A refusal at issue of an engine command, or when its chain reaches it: a post-commit fault of the issuer (R367, R424). -/
def refuseDesc (s : State) (d : Desc) (c : FCode) (cause : Nat) : State :=
  postFault s d.by_.core c cause d.by_.idx d.addr d.by_.baddr none

end Sys2Proof.Machine
end

