-- ==== Sys2Proof/Machine/Fabric.lean ====
section
/-! DEFINITION. Links, tracks and virtual channels of a region (R160, R161, R163 to R165): how a token arrives at a site, where
it goes from its buffer, and the hop of one token. -/

namespace Sys2Proof.Machine

/-- The kinds of site (R160). -/
inductive SiteKind where
  | pt (y : Nat) | fe | tlk (t : Nat) | cmt (c : Nat) | rsv (v : Nat) | spn (n : Nat) | mst (m : Nat) | xps (x : Nat) | mn (n : Nat)
  deriving DecidableEq, Repr

def siteKind (n : Nat) : SiteKind :=
  let x := n % 32
  let y := n / 32
  if x == 0 then .pt y
  else if x < 27 then .fe
  else if x == 27 then
    (if y < 8 then .tlk y else if y < 12 then .cmt (y - 8) else if y < 16 then .rsv (y - 12) else if y < 18 then .spn (y - 16)
     else if y < 24 then .mst (y - 18) else .xps (y - 24))
  else .mn ((x - 28) * 32 + y)

/-- Site of memory node n, of MST m, of TLK t. -/
def nodeSite (n : Nat) : Nat := n % 32 * 32 + 28 + n / 32
def mstSite (m : Nat) : Nat := (18 + m) * 32 + 27
def tlkSite (t : Nat) : Nat := t * 32 + 27

/-- Bits of a tile extension (R332). -/
def extBits (p : PlaneRec) (hi lo : Nat) : Nat := nbits p.ext.toNat hi lo

/-- The input queues a site uses (R166, R420 to R422). -/
def usedQueues (n : Nat) (p : PlaneRec) : List Nat :=
  if p.fop == 0 then []
  else
    match siteKind n with
    | .pt _ => []
    | .mn _ => if extBits p 1 0 == 1 then [0, 1] else [0]
    | .spn _ => List.range (nbits p.imm 1 0) ++ [3]
    | _ => List.range p.arity

/-- The incoming track that a queue's selector names. -/
def queueTrack (p : PlaneRec) (q : Nat) : Nat := p.qport q * 2 + p.qtrack q

/-- Where a token on VC vc of an incoming track goes: outgoing tracks as 0 to 7, queues as 8 to 11 (R164). -/
def dests (n : Nat) (p : PlaneRec) (trk vc : Nat) : List Nat :=
  (List.range 8).filter (fun o => p.sw o == trk + 1) ++
  ((usedQueues n p).filter (fun q => queueTrack p q == trk && p.qvc q == vc)).map (· + 8)

/-- The site names the VC on the track (R163); a port tile names all on its east tracks (R429). -/
def namesVc (n : Nat) (p : PlaneRec) (trk vc : Nat) : Bool :=
  !(dests n p trk vc).isEmpty || (n % 32 == 0 && (trk == 2 || trk == 3))

/-- A movement at a site and in its region (R181). -/
def moved (s : State) (r n : Nat) : State :=
  let x := s.site r n
  (s.setSite r n { x with moved := some s.cyc }).modRegion r (fun g => { g with moved := some s.cyc })

def bufKey (trk vc : Nat) : Nat := trk * 32 + vc

/-- Tokens an input queue holds: four (R166); the input of a TLK eight more, the tokens behind its oldest unresolved one whose misses the walker
serves (R130). DEDUCED, log 45. -/
def qDepth (x : Site) (q : Nat) : Nat := if x.act.fop == 0xF2 && q == 0 then 12 else 4

/-- Heads of the buffers go to the input queues that have room; a token taken by all its destinations leaves (R164). -/
def settleBuf (x : Site) (k : Nat) : Site :=
  match fget x.bufs k with
  | some (b :: bs) =>
    let take := b.left.filter (fun d => 8 ≤ d && d < 16 && (fgetD x.q (d - 8) []).length < qDepth x (d - 8))
    let q := take.foldl (fun q d => fset q (d - 8) (fgetD q (d - 8) [] ++ [b.tok])) x.q
    let left := b.left.filter (fun d => !take.contains d)
    let rest := if left.isEmpty then bs else { b with left := left } :: bs
    { x with q := q, bufs := if rest.isEmpty then ferase x.bufs k else fset x.bufs k rest }
  | _ => x

/-- Settle every buffer; twice, since a buffer holds two tokens. -/
def settleSite (x : Site) : Site :=
  let ks := x.bufs.map (·.1)
  ks.foldl settleBuf (ks.foldl settleBuf x)

def settle (s : State) (r n : Nat) : State := s.setSite r n (settleSite (s.site r n))

/-- A token sent now finds room at the site (R163): two for each VC that the site names; a token it does not name is held
outside every buffer, and a second one waits at its sender (DESIGN CHOICE, log 47). -/
def hasRoom (s : State) (r n trk vc : Nat) : Bool :=
  let x := s.site r n
  if namesVc n x.act trk vc then (fgetD x.bufs (bufKey trk vc) []).length < 2 else x.strayTok.isNone && x.frozen.isNone

/-- A token enters a site on an incoming track (R163, R164). On the east tracks of a port tile it waits for a box, with no
destination of the switch. -/
def arrive (s : State) (r n trk : Nat) (t : Token) : State :=
  let s := moved s r n
  let x := s.site r n
  if namesVc n x.act trk t.vc then
    let ds := dests n x.act trk t.vc
    let ds := if ds.isEmpty then [16] else ds
    s.setSite r n (settleSite { x with
      bufs := fset x.bufs (bufKey trk t.vc) (fgetD x.bufs (bufKey trk t.vc) [] ++ [{ tok := t, left := ds }]) })
  else
    freezeSite (s.setSite r n { x with strayTok := some t }) r n
      { code := FCode.cfgop.num, opa := t.v.setWidth 64, opb := BitVec.ofNat 64 t.vc, tag := t.tag, poi := t.poi } false

/-- The site and incoming track at the far end of an outgoing track; `none` at an edge (R160, R161). -/
def farEnd (n o : Nat) : Option (Nat × Nat) :=
  let x := n % 32
  let y := n / 32
  let t := (o + 4) % 8
  match o / 2 with
  | 0 => if y < 31 then some (n + 32, t) else none
  | 1 => if x < 31 then some (n + 1, t) else none
  | 2 => if 0 < y then some (n - 32, t) else none
  | _ => if 0 < x then some (n - 1, t) else none

/-- The Trellis attach track an outgoing north track of row 31 leads to (R259). -/
def attachOf (n o : Nat) : Option Nat := if n / 32 == 31 && o < 2 && 20 ≤ n % 32 && n % 32 ≤ 27 then some ((n % 32 - 20) * 2 + o) else none

/-- Room at the far end of an outgoing track for a VC: none where the track leads to no site and no attach track. DESIGN CHOICE, log 47. -/
def roomBeyond (s : State) (r n o vc : Nat) : Bool :=
  match farEnd n o with
  | some (m, t) => hasRoom s r m t vc
  | none =>
    match attachOf n o with
    | some a => ((fgetD (s.region r).trl.inq a []).filter (fun t => t.vc == vc)).length < 2
    | none => false

/-- A token goes over an outgoing track. -/
def goBeyond (s : State) (r n o : Nat) (t : Token) : State :=
  match farEnd n o with
  | some (m, k) => arrive s r m k t
  | none =>
    match attachOf n o with
    | some a => s.modRegion r (fun g => { g with trl := { g.trl with inq := fset g.trl.inq a (fgetD g.trl.inq a [] ++ [t]) } })
    | none => s

/-- The emission at the head of a VC that an outgoing track has not yet taken. -/
def outHead (x : Site) (o vc : Nat) : Option Emission :=
  match x.out.find? (fun e => e.tok.vc == vc && !e.left.isEmpty) with
  | some e => if e.left.contains o then some e else none
  | none => none

/-- The emission a VC of an outgoing track carries: of the element, where SW names it, and on the east tracks of a port tile those of its boxes,
which emit on the track they name. -/
def ownHead (n : Nat) (x : Site) (o vc : Nat) : Option Token :=
  if x.act.sw o == 9 || (n % 32 == 0 && (o == 2 || o == 3)) then (outHead x o vc).map (·.tok) else none

/-- The token of a VC at an outgoing track's source (R164): the emission, or a pass-through's head; on the east tracks of a port tile a box's
emission comes first (DESIGN CHOICE, log 47). -/
def srcHead (n : Nat) (x : Site) (o vc : Nat) : Option Token :=
  let w := x.act.sw o
  (ownHead n x o vc).orElse (fun _ =>
    if 1 ≤ w && w ≤ 8 then
      match fgetD x.bufs (bufKey (w - 1) vc) [] with
      | b :: _ => if b.left.contains o then some b.tok else none
      | [] => none
    else none)

/-- Remove an outgoing track from what an emission or a buffered token waits for. -/
def takeOut (x : Site) (o vc : Nat) : List Emission → List Emission
  | [] => []
  | e :: es =>
    if e.tok.vc == vc && e.left.contains o then
      let left := e.left.erase o
      if left.isEmpty then es else { e with left := left } :: es
    else e :: takeOut x o vc es

def takeHead (n : Nat) (x : Site) (o vc : Nat) : Site :=
  let w := x.act.sw o
  if (ownHead n x o vc).isSome then { x with out := takeOut x o vc x.out }
  else
    let k := bufKey (w - 1) vc
    match fgetD x.bufs k [] with
    | b :: bs =>
      let left := b.left.erase o
      let rest := if left.isEmpty then bs else { b with left := left } :: bs
      { x with bufs := if rest.isEmpty then ferase x.bufs k else fset x.bufs k rest }
    | [] => x

/-- The VC granted next on an outgoing track: round-robin among those that hold a token with room downstream (R165). -/
def grantVc (s : State) (r n o : Nat) : Option Nat :=
  let x := s.site r n
  let p := fgetD x.rr o 0
  ((List.range 32).map (fun i => (p + i) % 32)).find? (fun vc => (srcHead n x o vc).isSome && roomBeyond s r n o vc)

/-- The spawn colours whose returns have left a site (R174). -/
def coloursOut (x y : Site) : List Nat := (x.out.filterMap (·.colour)).filter (fun c => !(y.out.filterMap (·.colour)).contains c)

def freeColours (g : Region) (cs : List Nat) : Region := { g with colours := cs.foldl ferase g.colours }

/-- One token moves over an outgoing track. -/
def hop (s : State) (r n o : Nat) : State :=
  match grantVc s r n o with
  | none => s
  | some vc =>
    let x := s.site r n
    match srcHead n x o vc with
    | none => s
    | some t =>
      let y := takeHead n x o vc
      let s := moved (s.setSite r n (settleSite { y with rr := fset y.rr o ((vc + 1) % 32) })) r n
      let cs := coloursOut x y
      goBeyond (if cs.isEmpty then s else s.modRegion r (fun g => freeColours g cs)) r n o t

/-- The outgoing east track of the lead port that feeds the parser (R191). -/
def isLead (g : Region) (n o : Nat) : Bool := n == g.lead.1 * 32 && o == 2 + g.lead.2

/-- A mark would leave on the lead track: MARK_ENQUEUE moves it (R193). -/
def leadMark (s : State) (r n o : Nat) : Bool :=
  isLead (s.region r) n o &&
  (match grantVc s r n o with
   | some vc => ((ownHead n (s.site r n) o vc).map (fun t => t.kind == .mark)).getD false
   | none => false)

/-- Count a data token that leaves on a port's east track: the lead stream's run and position (R191, R193, R210). -/
def countLead (s : State) (r n o : Nat) : State :=
  match grantVc s r n o with
  | some vc =>
    match ownHead n (s.site r n) o vc with
    | some t =>
      if isLead (s.region r) n o && t.kind == .data then
        s.modRegion r (fun g =>
          let p := fgetD g.ports (n / 32) {}
          { g with leadPos := g.leadPos + 1, ports := fset g.ports (n / 32) { p with run := fset p.run (o - 2) (fgetD p.run (o - 2) 0 + 1) } })
      else s
    | none => s
  | none => s

/-- TOKEN_HOP (R163 to R165). -/
def stepTokenHop (r site trk : Nat) (s : State) : State :=
  if (s.region r).gang.isNone || 1024 ≤ site || 8 ≤ trk || leadMark s r site trk then s
  else hop (countLead s r site trk) r site trk

/-- A completion token enters a site's incoming track (R333): possible only with room. -/
def injectRoom (s : State) (r site port trk vc : Nat) : Bool := hasRoom s r site (port * 2 + trk) vc
def inject (s : State) (r site port trk vc : Nat) (t : Token) : State := arrive s r site (port * 2 + trk) { t with vc := vc }

/- The header of a descriptor (R333). -/

def Desc.word (d : Desc) (k : Nat) : Nat := (d.words.getD k 0).toNat
def Desc.kind (d : Desc) : Nat := nbits (d.word 0) 7 0
def Desc.cmode (d : Desc) : Nat := nbits (d.word 0) 11 10
def Desc.csite (d : Desc) : Nat := nbits (d.word 0) 21 12
def Desc.cport (d : Desc) : Nat := nbits (d.word 0) 23 22
def Desc.ctrk (d : Desc) : Nat := nbits (d.word 0) 24 24
def Desc.cvc (d : Desc) : Nat := nbits (d.word 0) 29 25
def Desc.next (d : Desc) : W64 := d.words.getD 1 0
def Desc.ctag (d : Desc) : W64 := d.words.getD 2 0

/-- Region of the issuer. -/
def Desc.region (d : Desc) : Nat := d.by_.core / 10

/-- The completion token of a descriptor can be delivered now. -/
def mayComplete (s : State) (d : Desc) : Bool :=
  d.cmode == 0 || 640 ≤ d.by_.core || injectRoom s d.region d.csite d.cport d.ctrk d.cvc

/-- A command has ended: its token goes to CSITE under CMODE 1, and the region counts one command fewer (R200, R333). -/
def commandEnded (s : State) (d : Desc) : State :=
  if 640 ≤ d.by_.core then s else s.modRegion d.region (fun g => { g with cmds := g.cmds - 1 })

def completeTok (s : State) (d : Desc) (t : Token) : State :=
  let s := commandEnded s d
  if d.cmode == 0 || 640 ≤ d.by_.core then s
  else inject s d.region d.csite d.cport d.ctrk d.cvc t

def completeDesc (s : State) (d : Desc) (v : Nat) : State :=
  completeTok s d { kind := .ctl, v := BitVec.ofNat 32 v, tag := d.ctag, lvl := 0 }

/-- A command is refused: it ends, with no completion (R424). -/
def rejectDesc (s : State) (d : Desc) (c : FCode) (cause : Nat) : State := refuseDesc (commandEnded s d) d c cause

end Sys2Proof.Machine
end

