-- ==== Sys2Proof/Machine/Elements.lean ====
section
/-! DEFINITION. Fabric elements: how an element takes its queue heads (R166, R167, R169), the mark policy and the action queue (R170,
R202), allocators (R173), and the firing of every opcode (R394 to R409). -/

namespace Sys2Proof.Machine

/- Queues and emissions. -/

def qHead (x : Site) (q : Nat) : Option Token := (fgetD x.q q []).head?

/-- The heads of the first n queues. -/
def qHeads (x : Site) (n : Nat) : List (Option Token) := (List.range n).map (qHead x)

/-- Consume the head of a queue. -/
def popQ (x : Site) (q : Nat) : Site :=
  let rest := (fgetD x.q q []).drop 1
  { x with q := if rest.isEmpty then ferase x.q q else fset x.q q rest }

def popQs (x : Site) (n : Nat) : Site := (List.range n).foldl popQ x

/-- The outgoing tracks that carry an output: those whose source is 9, of a special function tile those of one parity (R164,
R420). -/
def outTracks (p : PlaneRec) (keep : Nat → Bool) : List Nat := (List.range 8).filter (fun o => p.sw o == 9 && keep o)

/-- Queue an emission; with no track to carry it the token goes nowhere. -/
def emitOn (x : Site) (tracks : List Nat) (sec : Bool) (t : Token) : Site :=
  if tracks.isEmpty then x else { x with out := x.out ++ [{ tok := t, sec := sec, left := tracks }] }

/-- A special function tile other than an XPS: its outgoing tracks numbered 0 carry the primary output, those numbered 1 the
secondary (R420). -/
def twoOutputs (fop : Nat) : Bool := 0xF2 ≤ fop && fop != 0xF6

/-- An element's output, or a tile's primary one, on VC OVC (R164, R420). -/
def emitEl (x : Site) (t : Token) : Site :=
  emitOn x (outTracks x.act (fun o => !twoOutputs x.act.fop || o % 2 == 0)) false { t with vc := x.act.ovc }

/-- A tile's secondary output (R420). -/
def emitSec (x : Site) (t : Token) : Site := emitOn x (outTracks x.act (fun o => o % 2 == 1)) true { t with vc := x.act.ovc }

/-- An element's output on another VC (R405). -/
def emitVc (x : Site) (vc : Nat) (t : Token) : Site := emitOn x (outTracks x.act (fun _ => true)) false { t with vc := vc % 32 }

def isMemPort (fop : Nat) : Bool := 0x40 ≤ fop && fop ≤ 0x45

/-- A fence or a drain token heads q0 of a memory port, which takes it alone, whatever the other heads hold (R417). -/
def portCtl (x : Site) : Bool :=
  isMemPort x.act.fop && ((qHead x 0).map (fun t => t.kind == .ctl && (t.lvl == 2 || t.lvl == 3))).getD false

/- Taking the heads (R167). -/

/-- What the used heads come to. -/
inductive Take where
  | wait
  | fault (code : Nat)
  | data (ts : List Token)
  | marks (ts : List Token)
  deriving DecidableEq, Repr

/-- One level of mark, or one subtype of control. -/
def oneKind (ts : List Token) : Bool :=
  match ts with
  | [] => false
  | t :: _ => (t.kind == .mark || t.kind == .ctl) && ts.all (fun u => u.kind == t.kind && u.lvl == t.lvl)

/-- The tags of an ORDERED data set agree, NTC queues aside (R167). -/
def tagsAgree (p : PlaneRec) (ts : List Token) : Bool :=
  let counted := ((List.range ts.length).filter (fun k => !(p.vc (p.qvc k)).ntc)).filterMap (fun k => (ts[k]?).map (·.tag))
  counted.all (fun t => counted.head? == some t)

/-- The fault number of a fault token (R92). -/
def faultNum (t : Token) : Nat := t.v.toNat % 65536

/-- ORDERED taking. -/
def takeOrdered (p : PlaneRec) (hs : List (Option Token)) : Take :=
  match hs.filterMap (fun h => h.filter (fun t => t.kind == .fault)) with
  | t :: _ => .fault (faultNum t)
  | [] =>
    if hs.any (·.isNone) then .wait
    else
      let ts := hs.filterMap id
      if ts.all (fun t => t.kind == .data) then (if tagsAgree p ts then .data ts else .fault FCode.tagskew.num)
      else if oneKind ts then .marks ts
      else .fault FCode.markskew.num

/-- The V of a head, zero-extended. -/
def headV : Option Token → W64
  | some t => t.v.setWidth 64
  | none => 0

/-- The token that a fault at the heads of queues qs is about: the fault token of that number, or else the first head (R92, R95). -/
def faultyHead (x : Site) (code : Nat) (qs : List Nat) : Token :=
  let hs := qs.filterMap (qHead x)
  ((hs.find? (fun t => t.kind == .fault && faultNum t == code)).orElse (fun _ => hs.head?)).getD {}

/-- AUX of a fault that a token brought: a collective's contributor bitmap (R446), the cause of an F_XLATE (R126). -/
def tokAux (g : Region) (code : Nat) (t : Token) : Nat :=
  if code == FCode.colltmo.num then fgetD g.collMaps t.tag.toNat 0 else if code == FCode.xlate.num then t.cause else 0

/-- An element freezes at its heads (R93, R167): OPA and OPB hold the V of q0 and q1, TAG is that of the faulting token. -/
def freezeQs (s : State) (r n code : Nat) (memPort : Bool) (qs : List Nat) : State :=
  let x := s.site r n
  let h := qHead x 0
  let k := if 2 ≤ (usedQueues n x.act).length then qHead x 1 else none
  let t := faultyHead x code qs
  freezeSite s r n
    { code := code, opa := headV h, opb := headV k, aux := tokAux (s.region r) code t, tag := t.tag
      poi := (h.map (·.poi)).getD false || (k.map (·.poi)).getD false
      valid := (if h.isSome then 1 else 0) + (if k.isSome then 2 else 0), qs := qs } memPort

/-- The heads of every used queue caused the fault. -/
def freezeHeads (s : State) (r n code : Nat) (memPort : Bool) : State :=
  freezeQs s r n code memPort (usedQueues n (s.site r n).act)

/-- Queues whose heads are fault tokens. -/
def faultQs (hs : List (Option Token)) : List Nat :=
  (List.range hs.length).filter (fun q => ((hs.getD q none).map (fun t => t.kind == .fault)).getD false)

/-- A site changes as an operation issues: buffers move up, and the site has moved (R181). -/
def putSite (s : State) (r n : Nat) (x : Site) : State := moved (s.setSite r n (settleSite x)) r n

/- Allocators (R173). -/

/-- Draw the next value of field f; `none` at the limit. -/
def drawAlloc (g : Region) (f : Nat) : Option (Nat × Region) :=
  let w := fieldWidth g.layout f
  let (iss, ret) := fgetD g.allocs f (0, 0)
  if (iss + 2 ^ w - ret) % 2 ^ w == min (2 ^ w - 1) 65535 then none
  else some (iss, { g with allocs := fset g.allocs f ((iss + 1) % 2 ^ w, ret) })

/-- The tag TAGOP gives an output, drawing an allocator value where it asks for one; `none` while there is none. -/
def outTag (s : State) (r : Nat) (p : PlaneRec) (tag : W64) (ts : List Token) (j : Nat) : Option (W64 × State) :=
  let l := (s.region r).layout
  if tagopDraws l p.tagop then
    (drawAlloc (s.region r) (tagopF p.tagop)).map (fun (v, g) => (applyTag l p.tagop tag ts v j, s.setRegion r g))
  else some (applyTag l p.tagop tag ts 0 j, s)

/- Marks (R170, R202). -/

def tokPoison (ts : List Token) : Bool := ts.any (·.poi)

/-- The immediate in force (R202, SETIMM). -/
def immOf (x : Site) : Nat := x.immSet.getD x.act.imm

/-- The mark or control token an element emits: V and tag of q0's, TAGOP applied (R170, R172). -/
def markTok (l : List TagField) (p : PlaneRec) (ts : List Token) : Token :=
  let t := ts.headD {}
  { t with tag := markTag l p.tagop t.tag ts, poi := tokPoison ts }

/-- The accumulator at its reset value. -/
def resetAcc (x : Site) : Site := { x with acc := accResetLanes x.act, accPoi := false }

/-- The accumulated value as a data token. -/
def accTok (x : Site) (tag : W64) : Token := { kind := .data, v := accV x.act x.acc, tag := tag, poi := x.accPoi }

/-- Marks that steer leaves twice, on OVC and on OVC + 1 (R405). -/
def emitMark (x : Site) (t : Token) : Site :=
  if x.act.fop == 0x29 then emitVc (emitEl x t) (x.act.ovc + 1) t else emitEl x t

/-- The policy acts on a consumed set (R170); the set has left the queues. -/
def policyActs (l : List TagField) (x : Site) (ts : List Token) : Site :=
  let p := x.act
  let t := markTok l p ts
  if t.kind == .mark && p.level ≤ t.lvl then
    match p.policy with
    | 1 => if hasAcc p.fop then emitMark (resetAcc (emitEl x (accTok x t.tag))) t else emitMark x t
    | 2 => if hasAcc p.fop then emitMark (resetAcc x) t else emitMark x t
    | 4 => emitMark { (emitEl x { kind := .data, v := BitVec.ofNat 32 x.cnt, tag := t.tag, poi := t.poi }) with cnt := 0 } t
    | _ => emitMark x t
  else if t.kind == .mark && p.policy == 3 then x
  else emitMark x t

/-- Mark-sync mode (R202). -/
def markSync (p : PlaneRec) : Bool := p.policy == 0 && p.level != 0

/-- a ≥ b in serial arithmetic on 32 bits (R202). -/
def serialGe (a b : Nat) : Bool := (a % 2 ^ 32 + 2 ^ 32 - b % 2 ^ 32) % 2 ^ 32 < 2 ^ 31

/-- The set is one that a mark-sync element holds until settled reaches it. -/
def syncSet (p : PlaneRec) (ts : List Token) : Bool :=
  match ts with
  | t :: _ => markSync p && t.kind == .mark && p.level ≤ t.lvl
  | [] => false

/-- What an opcode does besides the policy when it consumes marks: cfw empties its sides at level L or above (R409), mkgen
starts its run again at level G or above (R408), an MST returns NXT to 0 at its level or above (R243). -/
def markSide (x : Site) (ts : List Token) : Site :=
  let t := ts.headD {}
  if x.act.fop == 0x38 && t.kind == .mark && x.act.level ≤ t.lvl then { x with s0 := none, s1 := none }
  else if x.act.fop == 0xF7 && t.kind == .mark && extBits x.act 6 4 ≤ t.lvl then { x with regs := ferase x.regs 0 }
  else if x.act.fop == 0x31 && t.kind == .mark && nbits (immOf x) 22 20 ≤ t.lvl then { x with run := 0 }
  else x

/-- An entry of the action queue acts (R202, R209). -/
def applyEntry (l : List TagField) (ts : List Token) (x : Site) (e : ActEntry) : Site :=
  let tag := (markTok l x.act ts).tag
  if e.poison then
    (if hasAcc x.act.fop then resetAcc (emitEl x { accTok x tag with poi := true })
     else emitEl x { kind := .data, v := 0, tag := tag, poi := true })
  else
    match e.fn with
    | .reset => if hasAcc x.act.fop then resetAcc x else x
    | .emit => if hasAcc x.act.fop then resetAcc (emitEl x (accTok x tag)) else x
    | .setimm => { x with immSet := some (e.v % 2 ^ 24) }

/-- An entry that waits at the site enters the action queue as soon as there is room (R203). -/
def pullEntries (x : Site) : Site :=
  let k := 8 - x.aq.length
  { x with aq := x.aq ++ x.aqWait.take k, aqWait := x.aqWait.drop k }

/-- What the replay units see of the tokens that their root emits (R442): each data token counts and, but for the k-th of its row, sends
a removal to its leaf; a mark of the row's level or above starts the count again. -/
def replayOne (r n : Nat) (s : State) (u : Nat) (t : Token) : State :=
  let g := s.region r
  match fget g.reps u with
  | none => s
  | some x =>
    if !x.on || x.root != n then s
    else if t.kind == .mark && x.lvl ≤ t.lvl then s.setRegion r { g with reps := fset g.reps u { x with r := 0 } }
    else if t.kind != .data then s
    else
      let id := getField g.layout x.fld t.tag
      let s := s.setRegion r { g with reps := fset g.reps u { x with r := x.r + 1 } }
      if 2 ^ x.lge ≤ id then
        raiseRegion (s.modRegion r (fun g => { g with reps := fset g.reps u { x with r := x.r + 1, frozen := some { code := FCode.tagskew.num } } })) r
          (.replay u) { code := FCode.tagskew.num, mid := regionMid r 40, tag := t.tag, opa := t.v.setWidth 64, flg := 1 }
      else if x.r + 1 < x.k then
        let e := x.lmap.getD id 0
        s.send (.removal r u (e % 1024) (e / 1024 % 2) { v := 0xFFFFFFFF, tag := t.tag, poi := t.poi })
      else s

def replayNotes (s : State) (r n : Nat) (ts : List Token) : State :=
  ts.foldl (fun s t => ((s.region r).reps.map (·.1)).foldl (fun s u => replayOne r n s u t) s) s

/-- Consume a set of n marks and act on it. -/
def consumeMarks (s : State) (r n k : Nat) (ts : List Token) : State :=
  let x := popQs (s.site r n) k
  let y := policyActs (s.region r).layout (markSide x ts) ts
  replayNotes (putSite s r n y) r n (y.out.map (·.tok))

/- Data (R394 to R409). -/

/-- How the firing of one data set ends. -/
inductive Fired where
  | wait
  | fault (c : FCode)
  | go (s : State) (x : Site)

/-- Emit a value under TAGOP and go on. -/
def fireEmit (s : State) (r : Nat) (x : Site) (tag : W64) (ts : List Token) (f : W64 → Token) : Fired :=
  match outTag s r x.act tag ts 0 with
  | none => .wait
  | some (tg, s) => .go s (emitEl x (f tg))

/-- The node of the tournament tree (R409): one side's token against the other's. -/
def cfwStore (x : Site) (k : Nat) (t : Token) : Option Site :=
  let (mine, other) := if k == 0 then (x.s0, x.s1) else (x.s1, x.s0)
  if mine.isSome && other.isNone then none else some (if k == 0 then { x with s0 := some t } else { x with s1 := some t })

def cfwFire (s : State) (r : Nat) (x : Site) : Fired :=
  match x.s0, x.s1 with
  | some a, some b =>
    let l := (s.region r).layout
    let f := nbits (immOf x) 2 0
    if setField l f a.tag 0 != setField l f b.tag 0 then .fault .tagskew
    else
      let w := cfwWinner l f a b
      fireEmit s r x w.tag [a, b] (fun tg => { kind := .data, v := w.v, tag := tg, poi := a.poi || b.poi })
  | _, _ => .go s x

/-- One data set of an opcode other than mrg, cfw and the memory ports; T is `tag`. The set has left the queues. mkgen passes V as it is (R408;
DESIGN CHOICE, log 47). -/
def fireData (s : State) (r : Nat) (x : Site) (tag : W64) (ts : List Token) : Fired :=
  let p := x.act
  let a := ts.headD {}
  let b := ts.getD 1 {}
  let poi := tokPoison ts
  let x := { x with cnt := x.cnt + 1 }
  match p.fop with
  | 0x1B =>
    let e := p.vc (p.qvc 0)
    let o := p.vc p.ovc
    .go s { x with
      coll := (List.range (fmtLanes p.ty)).map (fun i =>
        { kind := .data, v := BitVec.ofNat 32 (encLane o (decLane e (laneBits e.fmt a.v.toNat i))), tag := tag, poi := poi })
      s0 := some a, copyNo := 0 }
  | 0x1C =>
    let coll := x.coll ++ [a]
    if coll.length < fmtLanes p.ty then .go s { x with coll := coll }
    else
      let e := p.vc (p.qvc 0)
      let o := p.vc p.ovc
      let v := joinLanes (fmtWidth p.ty) (coll.map (fun t => encLane o (decLane e (laneBits e.fmt t.v.toNat 0))))
      fireEmit s r { x with coll := [] } ((coll.headD {}).tag) coll (fun tg =>
        { kind := .data, v := BitVec.ofNat 32 v, tag := tg, poi := tokPoison coll })
  | 0x20 | 0x21 | 0x22 | 0x23 | 0x24 => .go s { x with acc := accUpdate p x.acc ts, accPoi := x.accPoi || poi }
  | 0x29 =>
    if b.poi then .fault .poison
    else
      match outTag s r p tag ts 0 with
      | none => .wait
      | some (tg, s) => .go s (emitVc x (if b.v == 0 then p.ovc else p.ovc + 1) { kind := .data, v := a.v, tag := tg, poi := poi })
  | 0x2A =>
    if b.poi then .fault .poison
    else if b.v == 0 then .go s x
    else fireEmit s r x tag ts (fun tg => { kind := .data, v := a.v, tag := tg, poi := poi })
  | 0x2B =>
    if b.poi then .fault .poison
    else if b.v == 0 then .go s x
    else .go s { x with s0 := some { a with tag := tag, poi := poi }, s1 := some b, copies := b.v.toNat, copyNo := 0 }
  | 0x30 =>
    let ret := nbit (immOf x) 0
    fireEmit s r x tag ts (fun tg => { kind := if ret then .ctl else .data, lvl := if ret then 4 else 0, v := a.v, tag := tg, poi := poi })
  | 0x31 =>
    match outTag s r p tag ts 0 with
    | none => .wait
    | some (tg, s) =>
      let x := emitEl x { kind := .data, v := a.v, tag := tg, poi := poi }
      if x.run + 1 < nbits (immOf x) 19 0 then .go s { x with run := x.run + 1 }
      else
        .go s (emitEl { x with run := 0, marks := x.marks + 1 }
          { kind := .mark, lvl := nbits (immOf x) 22 20, v := BitVec.ofNat 32 (x.marks + 1), tag := tg })
  | _ => fireEmit s r x tag ts (fun tg => { kind := .data, v := computeV p (immOf x) ts, tag := tg, poi := poi })

/-- Emissions that an operation still makes, one an issue: the lanes of unpk, the copies of rpt (R396, R401, R406). -/
def pendingOut (x : Site) : Bool := (x.act.fop == 0x1B && !x.coll.isEmpty) || x.copies != 0

def firePending (s : State) (r n : Nat) : State :=
  let x := s.site r n
  if x.copies != 0 then
    let a := x.s0.getD {}
    let b := x.s1.getD {}
    match outTag s r x.act a.tag [a, b] x.copyNo with
    | none => s
    | some (tg, s) =>
      let x := { x with copies := x.copies - 1, copyNo := x.copyNo + 1 }
      let x := if x.copies == 0 then { x with s0 := none, s1 := none } else x
      putSite s r n (emitEl x { kind := .data, v := a.v, tag := tg, poi := a.poi })
  else
    match x.coll with
    | t :: ts =>
      (match outTag s r x.act t.tag [x.s0.getD {}] x.copyNo with
       | none => s
       | some (tg, s) =>
         let x := { x with coll := ts, copyNo := x.copyNo + 1, s0 := if ts.isEmpty then none else x.s0 }
         putSite s r n (emitEl x { t with tag := tg }))
    | [] => s

/-- mrg (R404): from the first used queue after the one last taken that has data or a fault token at its head. TAGOP's input k is the head of
queue k, 0 where it has none. DESIGN CHOICE, log 47. -/
def fireMrg (s : State) (r n : Nat) (data marks : Bool) : State :=
  let x := s.site r n
  let k := x.act.arity
  let ready := ((List.range k).map (fun i => (x.last + 1 + i) % k)).find? (fun q =>
    match qHead x q with
    | some t => t.kind == .data || t.kind == .fault
    | none => false)
  match ready with
  | some q =>
    if !data then s
    else
      let t := (qHead x q).getD {}
      let x1 := { popQ x q with last := q }
      if t.kind == .fault then putSite s r n (emitEl x1 t)
      else
        match outTag s r x.act t.tag (qHeads x k |>.map (·.getD {})) 0 with
        | none => s
        | some (tg, s) => putSite s r n (emitEl { x1 with cnt := x1.cnt + 1 } { t with tag := tg })
  | none =>
    let hs := qHeads x k
    if !marks || hs.any (·.isNone) then s
    else
      let ts := hs.filterMap id
      if !oneKind ts then freezeHeads s r n FCode.markskew.num false
      else if syncSet x.act ts then s
      else consumeMarks s r n k ts

/-- cfw (R409): one data token of either queue, or a mark set. -/
def fireCfw (s : State) (r n : Nat) (data marks : Bool) : State :=
  let x := s.site r n
  let hs := qHeads x 2
  match hs.filterMap (fun h => h.filter (fun t => t.kind == .fault)) with
  | t :: _ => freezeQs s r n (faultNum t) false ((faultQs hs).take 1)
  | [] =>
    let isMark (h : Option Token) : Bool := (h.map (fun t => t.kind != .data)).getD false
    let isData (h : Option Token) : Bool := (h.map (fun t => t.kind == .data)).getD false
    let h0 := qHead x 0
    let h1 := qHead x 1
    if (isMark h0 && isData h1) || (isData h0 && isMark h1) then freezeHeads s r n FCode.markskew.num false
    else if isMark h0 && isMark h1 then
      let ts := hs.filterMap id
      if !oneKind ts then freezeHeads s r n FCode.markskew.num false
      else if !marks || syncSet x.act ts then s
      else consumeMarks s r n 2 ts
    else if !data || isMark h0 || isMark h1 then s
    else
      let k := if isData h0 then 0 else 1
      match qHead x k with
      | none => s
      | some t =>
        match cfwStore (popQ x k) k t with
        | none => freezeQs s r n FCode.tagdup.num false [k]
        | some y =>
          match cfwFire s r { y with cnt := y.cnt + 1 } with
          | .wait => s
          | .fault c => freezeQs s r n c.num false [k]
          | .go s y => replayNotes (putSite s r n y) r n (y.out.map (·.tok))

/-- A fabric element that may act: its region runs, it holds an operation, it is not frozen, nothing is queued to leave (R170), and no
replay unit whose root it is has stopped. -/
def elemReady (s : State) (r n : Nat) : Bool :=
  let x := s.site r n
  (s.region r).gang.isSome && n < 1024 && siteKind n == .fe && x.act.fop != 0 && x.frozen.isNone && x.out.isEmpty &&
    !(s.region r).reps.any (fun u => u.2.on && u.2.root == n && u.2.frozen.isSome)

/-- The general ORDERED opcodes. `passFaults` is tag's (R395). -/
def fireGeneral (s : State) (r n : Nat) (data marks : Bool) : State :=
  let x := s.site r n
  let p := x.act
  let k := p.arity
  let hs := qHeads x k
  if portCtl x then s
  else
  match (if p.fop == 0x30 then (qHead x 0).filter (fun t => t.kind == .fault) else none) with
  | some t => if data then putSite s r n (emitEl (popQ x 0) t) else s
  | none =>
    match takeOrdered p hs with
    | .wait => s
    | .fault c => freezeHeads s r n c (isMemPort p.fop)
    | .marks ts =>
      if !marks || syncSet p ts || !x.reqs.isEmpty then s
      else if p.fop == 0x1C && !x.coll.isEmpty then freezeHeads s r n FCode.markskew.num false
      else consumeMarks s r n k ts
    | .data ts =>
      if !data || isMemPort p.fop then s
      else
        match fireData s r (popQs x k) ((ts.headD {}).tag) ts with
        | .wait => s
        | .fault c => freezeHeads s r n c.num false
        | .go s y => putSite s r n y

def fireOrdered (s : State) (r n : Nat) (data marks : Bool) : State :=
  match (s.site r n).act.fop with
  | 0x28 => fireMrg s r n data marks
  | 0x38 => fireCfw s r n data marks
  | _ => fireGeneral s r n data marks

/- MATCHED mode (R169). -/

/-- A token joins the entry of its tag, or opens one; `none` where neither can be, and a duplicate is told apart. -/
inductive Place where
  | full
  | dup
  | ok (store : List MatchEntry) (complete : Option MatchEntry)
  deriving DecidableEq, Repr

/-- Complete entries that wait in the store: those of an MST under ordered release whose field is not NXT (R243). -/
def heldComplete (l : List TagField) (x : Site) : List MatchEntry :=
  if x.act.fop == 0xF7 && nbit (extBits x.act 0 0) 0 then
    x.issue.filter (fun e => getField l (extBits x.act 3 1) e.tag != fgetD x.regs 0 0)
  else []

/-- A token at queue q against a store of `size` entries, `held` of them complete. -/
def placeTok (size k : Nat) (held store : List MatchEntry) (q : Nat) (t : Token) : Place :=
  if held.any (fun e => e.tag == t.tag) then .dup
  else match store.find? (fun e => e.tag == t.tag) with
  | some e =>
    if ((e.slots.getD q none)).isSome then .dup
    else
      let e := { e with slots := e.slots.set q (some t) }
      if e.slots.all (·.isSome) then .ok (store.filter (fun x => x.tag != t.tag)) (some e)
      else .ok (store.map (fun x => if x.tag == t.tag then e else x)) none
  | none =>
    if size ≤ store.length + held.length then .full
    else .ok (store ++ [{ tag := t.tag, slots := (List.replicate k none).set q (some t) }]) none

/-- Take what can be placed of queues q, q + 1, … of k, one token of each: the site, and the fault that stops it. -/
def takeMatched (size k : Nat) (l : List TagField) (x : Site) : Nat → Nat → Site × Option (FCode × Nat)
  | 0, _ => (x, none)
  | fuel + 1, q =>
    match qHead x q with
    | some t =>
      if t.kind == .data then
        match placeTok size k (heldComplete l x) x.store q t with
        | .full => takeMatched size k l x fuel (q + 1)
        | .dup => (x, some (.tagdup, q))
        | .ok st c => takeMatched size k l { popQ x q with store := st, issue := x.issue ++ c.toList } fuel (q + 1)
      else takeMatched size k l x fuel (q + 1)
    | none => takeMatched size k l x fuel (q + 1)

/-- MATCHED taking of an element or an MST: places data, or consumes a mark set with the store empty; only an element can be in mark-sync mode
(R202). -/
def matchedTake (s : State) (r n size k : Nat) : State :=
  let x := s.site r n
  let hs := qHeads x k
  if siteKind n == .fe && portCtl x then s
  else
  match hs.filterMap (fun h => h.filter (fun t => t.kind == .fault)) with
  | t :: _ => freezeQs s r n (faultNum t) false ((faultQs hs).take 1)
  | [] =>
    let allMarks := hs.all (fun h => (h.map (fun t => t.kind != .data)).getD false)
    if allMarks then
      if !x.store.isEmpty || !x.issue.isEmpty || !x.out.isEmpty || pendingOut x || !x.reqs.isEmpty then s
      else
        let ts := hs.filterMap id
        if !oneKind ts then freezeHeads s r n FCode.markskew.num false
        else if siteKind n == .fe && syncSet x.act ts then s
        else consumeMarks s r n k ts
    else
      match takeMatched size k (s.region r).layout x k 0 with
      | (y, none) => if y == x then s else putSite s r n y
      | (y, some (c, q)) => freezeQs (if y == x then s else putSite s r n y) r n c.num false [q]

/-- MATCHED_STORE_TAKE of an element (R169). An MST takes through the same rule with 1,024 entries (R243). -/
def stepMatchedStoreTake (r site : Nat) (s : State) : State :=
  let x := s.site r site
  if (s.region r).gang.isNone || 1024 ≤ site || x.frozen.isSome then s
  else
    match siteKind site with
    | .fe => if x.act.matched && x.act.fop != 0 then matchedTake s r site 16 x.act.arity else s
    | .mst _ => if x.act.fop == 0xF7 then matchedTake s r site 1024 2 else s
    | _ => s

/-- The first complete entry issues (R169). -/
def issueMatched (s : State) (r n : Nat) : State :=
  let x := s.site r n
  match x.issue with
  | [] => s
  | e :: es =>
    let ts := e.slots.filterMap id
    match fireData s r { x with issue := es } e.tag ts with
    | .wait => s
    | .fault c =>
      freezeSite s r n
        { code := c.num, opa := ((ts.headD {}).v).setWidth 64, opb := ((ts.getD 1 {}).v).setWidth 64, tag := e.tag
          poi := tokPoison ts, issued := true } false
    | .go s y => putSite s r n y

/- The rows. -/

/-- Fields whose allocators have issued between two states of a region. -/
def drewOf (a b : Region) : List Nat := (b.allocs.filter (fun v => (fgetD a.allocs v.1 (0, 0)).1 != v.2.1)).map (·.1)

/-- The draws that site n has made between two states are noted, with their cycle. -/
def noteDraws (r n : Nat) (s t : State) : State :=
  let fs := drewOf (s.region r) (t.region r)
  if fs.isEmpty then t else t.modRegion r (fun g => { g with drawn := fs.foldl (fun d f => fset d f (s.cyc, n)) g.drawn })

/-- Elements that ask one allocator in one cycle are served by ascending site (R173): a draw that a higher site has made in this cycle comes
first no more, and the lower site waits for the next cycle. -/
def drawOrder (r n : Nat) (s t : State) : State :=
  if (drewOf (s.region r) (t.region r)).any (fun f => match fget (s.region r).drawn f with
      | some (c, m) => c == s.cyc && n < m
      | none => false) then s
  else noteDraws r n s t

/-- An element of an opcode acts: an ORDERED one takes data at its heads, a MATCHED one issues. -/
def elemAct (only : Nat → Bool) (r n : Nat) (s : State) : State :=
  let x := s.site r n
  if !elemReady s r n || !only x.act.fop then s
  else drawOrder r n s (if pendingOut x then firePending s r n else if x.act.matched then issueMatched s r n else fireOrdered s r n true false)

/-- ELEMENT_FIRE_ORDERED (R167, R170): whatever the opcode, data or marks. -/
def stepElementFireOrdered (r site : Nat) (s : State) : State :=
  let x := s.site r site
  if !elemReady s r site then s
  else if pendingOut x then drawOrder r site s (firePending s r site)
  else if x.act.matched then s
  else drawOrder r site s (fireOrdered s r site true true)

/-- MATCHED_ISSUE (R169). -/
def stepMatchedIssue (r site : Nat) (s : State) : State :=
  let x := s.site r site
  if !elemReady s r site || !x.act.matched || isMemPort x.act.fop then s
  else drawOrder r site s (if pendingOut x then firePending s r site else issueMatched s r site)

def stepElementArith (r site : Nat) (s : State) : State := elemAct (fun f => 0x01 ≤ f && f ≤ 0x10) r site s
def stepElementFmaScl (r site : Nat) (s : State) : State := elemAct (fun f => f == 0x11 || f == 0x15) r site s
def stepElementCompareSelect (r site : Nat) (s : State) : State := elemAct (fun f => 0x12 ≤ f && f ≤ 0x14) r site s
def stepElementConvert (r site : Nat) (s : State) : State := elemAct (fun f => 0x18 ≤ f && f ≤ 0x1A) r site s
def stepElementUnpk (r site : Nat) (s : State) : State := elemAct (fun f => f == 0x1B) r site s
def stepElementPack (r site : Nat) (s : State) : State := elemAct (fun f => f == 0x1C) r site s
def stepElementAccumulate (r site : Nat) (s : State) : State := elemAct hasAcc r site s
def stepElementMrg (r site : Nat) (s : State) : State := elemAct (fun f => f == 0x28) r site s
def stepElementSteerGate (r site : Nat) (s : State) : State := elemAct (fun f => f == 0x29 || f == 0x2A) r site s
def stepElementRpt (r site : Nat) (s : State) : State := elemAct (fun f => f == 0x2B) r site s
def stepElementTag (r site : Nat) (s : State) : State := elemAct (fun f => f == 0x30) r site s
def stepElementMkgen (r site : Nat) (s : State) : State := elemAct (fun f => f == 0x31) r site s
def stepElementCfw (r site : Nat) (s : State) : State := elemAct (fun f => f == 0x38) r site s

/-- MARK_SYNC_APPLY (R202): once settled reaches the mark's ordinal, the entries for it act and the mark passes; a stale entry
at the head of the action queue faults and applies nothing. -/
def stepMarkSyncApply (r site : Nat) (s : State) : State :=
  let x := pullEntries (s.site r site)
  let k := x.act.arity
  let hs := qHeads x k
  let ts := hs.filterMap id
  if !elemReady s r site || hs.any (·.isNone) || !oneKind ts || !syncSet x.act ts || pendingOut x || !x.reqs.isEmpty then s
  else if x.act.matched && (!x.store.isEmpty || !x.issue.isEmpty) then s
  else if x.act.fop == 0x1C && !x.coll.isEmpty then freezeHeads s r site FCode.markskew.num false
  else
    let m := (ts.headD {}).v.toNat
    let reached := match (s.region r).parser.settled with
      | none => true
      | some u => serialGe u m
    if !reached then s
    else
      match x.aq with
      | e :: _ =>
        if !serialGe e.ord m then
          freezeSite s r site
            { code := FCode.markskew.num, opa := BitVec.ofNat 64 e.ord, opb := BitVec.ofNat 64 m, tag := (ts.headD {}).tag, stale := some m } false
        else
          let l := (s.region r).layout
          let mine := x.aq.takeWhile (fun e => e.ord % 2 ^ 32 == m)
          let y := { popQs x k with aq := x.aq.drop mine.length }
          let y := pullEntries (emitMark (mine.foldl (applyEntry l ts) (markSide y ts)) (markTok l x.act ts))
          replayNotes (putSite s r site y) r site (y.out.map (·.tok))
      | [] =>
        let y := emitMark (markSide (popQs x k) ts) (markTok (s.region r).layout x.act ts)
        replayNotes (putSite s r site y) r site (y.out.map (·.tok))

/-- ACTION_ENTRY_ARRIVE (R203, R209): an entry waits at a full action queue, and faults an element that is not in mark-sync
mode. -/
def stepActionEntryArrive (k : Nat) (s : State) : State :=
  match s.net[k]? with
  | some (.tact r n e) =>
    -- entries to one site arrive in issue order
    if (s.net.take k).any (fun m => match m with
        | .tact r' n' _ => r' == r && n' == n
        | _ => false) then s
    else if (s.site r n).frozen.isSome then s
    else
      let s := s.drop k
      let x := s.site r n
      if siteKind n == .fe && x.act.fop != 0 && markSync x.act then
        s.setSite r n (pullEntries { x with aqWait := x.aqWait ++ [e] })
      else
        let fn := if e.poison then 3 else match e.fn with
          | .reset => 0
          | .emit => 1
          | .setimm => 2
        freezeSite s r n { code := FCode.cfgop.num, opa := BitVec.ofNat 64 e.ord, opb := BitVec.ofNat 64 fn } false
  | _ => s

end Sys2Proof.Machine
end

