-- ==== Sys2Proof/Machine/Homes.lean ====
section
/-! DEFINITION. What happens at the homes: answers and refusals on their way back, presence words (R146), releases, acquires and
line requests (R147, R148), atomics and the prefix-cache functions (R149, R252, R376), chains and their Turnstiles (R151 to
R155). -/

namespace Sys2Proof.Machine

/- Answers. -/

/-- The fault of a returning access: its own, or F_POISON for poison that would reach a g-register (R345, R347). -/
def flightFault (d : Option Dst) (poi : Bool) (fault : Option (Nat × Nat)) : Option (Nat × Nat) :=
  match fault, d with
  | some f, _ => some f
  | none, some (.g _) => if poi then some (FCode.poison.num, 0) else none
  | none, _ => none

/-- The slot of a returning access. -/
def flightSlot (x : Slot) (now : Nat) (v : W64) (poi : Bool) (fault : Option (Nat × Nat)) : Slot :=
  match fault with
  | some f => { x with flight := false, ready := some now, val := 0, poi := true, fault := some f }
  | none => { x with flight := false, ready := some now, val := v, poi := poi }

/-- A core one of whose at-fire accesses returns: the result is available from the next cycle, or from now (R345). -/
def flightCore (c : Core) (now i : Nat) (v : W64) (poi : Bool) (fault : Option (Nat × Nat)) : Core :=
  let x := c.run.slot i
  let f := flightFault (wordDst x.word) poi fault
  let t := if now < c.run.cyc + 1 then c.run.cyc + 1 else now
  { c with run := c.run.setSlot i (flightSlot x t v poi f) }

/-- An at-fire access of slot i of core k returns. -/
def landFlight (s : State) (k i : Nat) (v : W64) (poi : Bool) (fault : Option (Nat × Nat)) : State :=
  let c := s.core k
  if (c.run.slot i).flight then s.setCore k (flightCore c (s.cyc - c.run.startCyc) i v poi fault) else s

/-- The value an access returns, extended under its type. -/
def answerVal (a : Access) (bs : List Byte) : W64 := extTy a.t (leNat bs)

/-- The bytes of a 64-byte line as a mask of its poisoned 4-byte words. -/
def wordsOf (poi : List Bool) : W16 :=
  (List.range 16).foldl (fun (p : W16) k => if ((poi.drop (4 * k)).take 4).any id then p ||| BitVec.ofNat 16 (2 ^ k) else p) 0

/-- The poison of each byte that an access returns. What a deferred read returns has been written in one write, with one poison (R146). -/
def answerPoison (s : State) (a : Access) (n : Nat) (poi : Bool) : List Bool :=
  match poi && a.data.isEmpty, a.locate s with
  | true, .at_ _ ma => memBytePoison s ma n
  | _, _ => List.replicate n poi

/-- The value of an at-fire access: an ld or ldp takes the bytes its block's earlier stores forward (R369), and the line that a load has set out
for enters the cache, under what the core has dirtied there meanwhile (R370). -/
def slotBytes (s : State) (k i : Nat) (a : Access) (bs : List Byte) (poi : Bool) : State × W64 × Bool :=
  let ps := answerPoison s a bs.length poi
  let (s, bs, ps) := match a.line with
    | some n => fillLine s k a.va n a.tgt bs (wordsOf ps)
    | none => (s, bs, ps)
  let r := (s.core k).run
  if isLoad (slotOp r i) then
    let (bs, poi) := mergeForward r i a.va.toNat bs ps
    (s, answerVal a bs, poi)
  else (s, answerVal a bs, poi)

/-- The RRS of a request of another station: sent after the access has been performed, or with its fault token (R32). It is one frame and fits
its port (R28). A frame that would carry poisoned bytes is not sent, and its channel closes (R55). -/
def sendRrs (s : State) (chan fsq : Nat) (bs : List Byte) (poi : Bool) (fault : Option (Nat × Nat)) : State :=
  if poi then endChan s chan
  else sendFrames s chan [{ typ := 6, payload := (Config.rrsPayload fsq bs fault).take (pmax (s.portOf (s.chan chan).port)) }]

/-- The first bytes for the next tile of a bulk fill have come from the remote backing place, or a refusal in their place, which starts no fill
(R102). -/
def firstBytes (x : Window) (n : Nat) (bs : List Byte) (code : Nat) : Window :=
  match x.fills with
  | f :: fs =>
    if n != x.head || f.seq.isSome then x
    else { x with fills := (if code != 0 then { f with bad := some code } else { f with first := some bs }) :: fs }
  | [] => x

/-- The answer of a window's own access of m bytes to its remote backing: a filling tile takes the bytes, a tile being written back
is that much further; `code` is a refusal, which ends the fill, or the write-back without its bytes. -/
def tileAnswer (s : State) (w n m : Nat) (bs : List Byte) (code : Nat) : State :=
  let x := s.win w
  match fget x.tiles n with
  | none => s.setWin w (firstBytes x n bs code)
  | some t =>
    if code != 0 then
      if t.st == .fill then
        s.setWin w { x with
          tiles := ferase x.tiles n
          fills := (match x.fills with
            | f :: fs => { f with bad := some code } :: fs
            | [] => []) }
      else s.setWin w { x with tiles := fset x.tiles n { t with got := tileSize x } }
    else
      let s := if t.st == .fill then s.storeMem (cmnAddr (w / 4096) (slotAddr x n + t.got)) (bs ++ List.replicate (m - bs.length) 0 |>.take m) false else s
      s.setWin w { x with tiles := fset x.tiles n { t with got := t.got + m } }

/-- The answer of a port tile's access to another station waits at the port. -/
def unitAnswer (s : State) (r u : Nat) (bs : List Byte) (poi : Bool) (code cause : Nat) : State :=
  s.modRegion r (fun g =>
    let p := fgetD g.ports u {}
    { g with ports := fset g.ports u { p with resp := some (bs, poi, code, cause) } })

/-- The answer of an access goes to whoever made it. -/
def answer (s : State) (a : Access) (bs : List Byte) (poi : Bool) : State :=
  match a.who with
  | .slot k i =>
    let (s, v, p) := slotBytes s k i a bs poi
    landFlight s k i v p none
  | .reg k g _ _ => s.send (.reply k g (answerVal a bs) poi)
  | .port r y id =>
    let st := s.site r (y * 32 + 1)
    let ws := (List.range (bs.length / 4)).map (fun j => (BitVec.ofNat 32 (leNat ((bs.drop (4 * j)).take 4)), poi))
    s.setSite r (y * 32 + 1) { st with reqs := st.reqs.map (fun q => if q.id == id then { q with st := .done ws } else q) }
  | .peer c f => sendRrs s c f bs poi none
  | .tile w n => tileAnswer s w n a.n bs 0
  | .unit r u => unitAnswer s r u bs poi 0 0
  | .op _ _ _ | .wb _ | .none => s

/-- A refusal goes to whoever made the access: an exact fault of a running instruction, a post-commit fault, a refused
memory-port request, a fault token in an RRS (R94, R365, R367, R418). -/
def refuse (s : State) (a : Access) (c : FCode) (cause : Nat) : State :=
  match a.who with
  | .slot k i => landFlight s k i 0 true (some (c.num, cause))
  | .reg k g idx ba => postFault s k c cause idx a.va ba (some g)
  | .op k idx ba => postFault s k c cause idx a.va ba none
  | .wb k => postFault s k c cause 0x7F a.va 0 none
  | .port r y id =>
    let st := s.site r (y * 32 + 1)
    s.setSite r (y * 32 + 1) { st with reqs := st.reqs.map (fun q => if q.id == id then { q with st := .refused c.num cause } else q) }
  | .peer ch f => sendRrs s ch f [] false (some (c.num, cause))
  | .tile w n => tileAnswer s w n a.n [] c.num
  | .unit r u => unitAnswer s r u [] false c.num cause
  | .none => s

/- Accesses to another station (R32, R33). -/

/-- The session an access belongs to. -/
def accessSid (s : State) (a : Access) : Nat :=
  let ofRegion (r : Nat) : Nat := match (s.region r).gang with
    | some g => (fgetD s.gangs g {}).sid
    | none => 0
  match a.who with
  | .slot k _ | .reg k _ _ _ | .op k _ _ | .wb k => ofRegion (k / 10)
  | .port r _ _ | .unit r _ => ofRegion r
  | .tile w _ => (s.win w).owner
  | .peer c _ => c / 65536
  | .none => 0

/-- Type code of an atomic's type in a RAT frame. -/
def tyNum : Ty → Nat
  | .i8 => 0 | .i16 => 1 | .i32 => 2 | .i64 => 3 | .n8 => 4 | .n16 => 5 | .n32 => 6 | .n64 => 7 | .f32 => 8 | .bf16 => 9 | .t8 => 10

/-- The request frame of an access (R23, R24). -/
def remoteFrame (a : Access) (d w off : Nat) : Frame :=
  let typ := match a.kind with
    | .read => 5
    | .write => 7
    | _ => 8
  let payload := match a.kind with
    | .read => leBytes a.n 8
    | .write => a.data
    | _ => Config.ratPayload a.fn (tyNum a.t) a.b a.c
  { typ := typ, pos := BitVec.ofNat 64 off, die := d, win := w, payload := payload }

/-- An access's request leaves for another station, and what waits for its RRS until the channel's limit (R32, R33). A frame that would carry
poisoned bytes is not sent, and its channel closes (R55). -/
def askRemote (s : State) (a : Access) (d w c off : Nat) : State × NetMsg :=
  let k := chanKey (accessSid s a) c
  let x := s.chan k
  let isOpen := (fget s.chans k).isSome
  let f := if isOpen && !a.poi then (x.tx + x.unsent.length) % 65536 else 65536
  (if a.poi then (if isOpen then endChan s k else s) else sendFrames s k [remoteFrame a d w off],
   .remote { a with tgt := .remote d w c off } (s.ns + (if isOpen then x.limit else 200) * 1000) f)

/-- An access sets out for another station. -/
def sendRemote (s : State) (a : Access) (d w c off : Nat) : State :=
  let (s, m) := askRemote s a d w c off
  s.send m

/-- An access that was message j goes on to another station, and keeps its place among the requests of its channel (R32). -/
def sendOn (s : State) (j : Nat) (a : Access) (d w c off : Nat) : State :=
  let (s, m) := askRemote s a d w c off
  s.putMsg j m

/- A peer station's request over several tiles (R32). -/

/-- The piece of a request that the tile of its first byte holds; what was read of earlier pieces stays with it. -/
def peerPiece (s : State) (a : Access) (r : PeerRest) : Access :=
  match a.tgt with
  | .win die w off =>
    let size := tileSize (s.win (die * 4096 + w))
    let m := min a.n (size - off % size)
    { a with n := m, data := a.data.take m, rest := some { r with at_ := .win die w (off + m), n := a.n - m, data := a.data.drop m } }
  | _ => { a with rest := some { r with n := 0 } }

/-- Message j has been performed, and what it read: a request over several tiles goes on with its next piece, in its place; another is answered. -/
def served (s : State) (j : Nat) (a : Access) (bs : List Byte) (poi : Bool) : State :=
  match a.rest with
  | some r =>
    if r.n == 0 then answer (s.drop j) a (r.got ++ bs) (r.poi || poi)
    else s.putMsg j (.plain (peerPiece s { a with tgt := r.at_, n := r.n, data := r.data } { r with got := r.got ++ bs, poi := r.poi || poi }))
  | none => answer (s.drop j) a bs poi

/- Presence words (R146). -/

/-- The bank group of a Commons address. -/
def bankOf (ma : Nat) : Nat := ma / 2 ^ 30 * 64 + ma % 2 ^ 30 / 1024 % 64

/-- The full/empty bit of a word of a window is kept by the window and the word's place in it, wherever its tile stands (R146). -/
def presBase (key : Nat) : Nat := 2 ^ 64 + key * 2 ^ 61
def presWord : Tgt → Nat
  | .win die w off => presBase (die * 4096 + w) + off / 8
  | _ => 0

/-- The bank group of a word of a window. -/
def presBank (s : State) (t : Tgt) : Nat :=
  match t with
  | .win die w off =>
    let x := s.win (die * 4096 + w)
    bankOf (cmnAddr die (slotAddr x (off / tileSize x) + off % tileSize x))
  | _ => 0

/-- Reads deferred at a bank group. -/
def deferredAt (s : State) (bank : Nat) : Nat :=
  (s.net.filter (fun m => match m with
    | .deferred a => presBank s a.tgt == bank
    | _ => false)).length

/-- The channel of a peer station whose request a message is; one that has been sent on to a backing place of yet another station is not performed
before its answer. -/
def peerOf : NetMsg → Option Nat
  | .plain a | .presence a | .atomic a | .remote a _ _ =>
    match a.who with
    | .peer c _ => some c
    | _ => none
  | _ => none

/-- Message k, where it may be performed: the requests of one channel are performed in FSQ order (R32). -/
def State.msg (s : State) (k : Nat) : Option NetMsg :=
  match s.net[k]? with
  | some m => if (peerOf m).isSome && (s.net.take k).any (fun x => peerOf x == peerOf m) then none else some m
  | none => none

/-- A presence or chained access, a release or an acquire whose bytes stand at another station: remote windows carry plain reads, plain writes and
atomics (R32, R147). DEDUCED, log 45: cause 4. -/
def noRemote (s : State) (k : Nat) (a : Access) : State := refuse (s.drop k) a .xlate 4

/-- The reads deferred for a word take the value of the write that fills it (R146). -/
def tellDeferred (s : State) (a : Access) : State :=
  { s with net := s.net.map (fun m => match m with
      | .deferred b => if presWord b.tgt == presWord a.tgt then .deferred { b with data := a.data, poi := a.poi } else m
      | _ => m) }

def stepPresenceWrite (k : Nat) (s : State) : State :=
  match s.msg k with
  | some (.presence a) =>
    if a.kind != .pWrite then s
    else
      match a.locate s with
      | .wait s' => s'
      | .remote s' _ _ _ _ => noRemote s' k a
      | .refused s' c cause => refuse (s'.drop k) a c cause
      | .at_ s' ma =>
        if smem s.full (presWord a.tgt) then refuse ((endArrival s a.key).drop k) a .presence 0
        else
          let s' := tellDeferred ((s'.drop k).storeMem ma a.data a.poi) a
          answer { s' with full := sinsert s'.full (presWord a.tgt) } a [] false
  | _ => s

/-- A presence read: of an empty word it is deferred, checked once and for all (R51, R146). -/
def stepPresenceRead (k : Nat) (s : State) : State :=
  match s.msg k with
  | some (.presence a) =>
    if a.kind != .pRead then s
    else
      match a.locate s with
      | .wait s' => s'
      | .remote s' _ _ _ _ => noRemote s' k a
      | .refused s' c cause => refuse (s'.drop k) a c cause
      | .at_ s' ma =>
        if smem s.full (presWord a.tgt) then
          let (bs, p) := s'.loadMem ma 8
          answer (s'.drop k) a bs p
        else if deferredAt s (presBank s a.tgt) < 64 then (noteArrival s' a.key).putMsg k (.deferred a)
        else s
  | _ => s

/-- A deferred read returns the value of the write that filled its word; until then it meets what becomes of its window. -/
def stepPresenceDeferralEnd (k : Nat) (s : State) : State :=
  match s.msg k with
  | some (.deferred a) =>
    if !a.data.isEmpty then answer ((endArrival s a.key).drop k) a a.data a.poi
    else
      match a.locate s with
      | .wait s' => s'
      | .remote s' _ _ _ _ => noRemote s' k a
      | .refused s' c cause => refuse (s'.drop k) a c cause
      | .at_ _ _ => s
  | _ => s

/- Lazy release (R147, R148). -/

/-- The gang a core's region belongs to. -/
def keyGang (s : State) (k : Nat) : Option Nat :=
  match keyRegion k with
  | some r => (s.region r).gang
  | none => none

/-- Party x lies within scope sc of party c (R140). -/
def within (s : State) (sc : Scope) (c x : Nat) : Bool :=
  match sc with
  | .site | .cl => c == x
  | .rg => (keyRegion c).isSome && keyRegion c == keyRegion x
  | .gang => (keyGang s c).isSome && keyGang s c == keyGang s x
  | .die => keyDie c == keyDie x
  | .stn => true

/-- Core c still holds dirty lines of an epoch, or has sent a write-back that is not yet performed. -/
def epochDirty (s : State) (c epoch : Nat) : Bool :=
  (s.core c).cache.any (fun l => l.dirty != 0 && l.epochs.contains epoch) || wbOut s c

/-- A sync variable is a word of its window, wherever its tile stands (R147). -/
def syncKey (t : Tgt) (ma : Nat) : Nat :=
  match t with
  | .win _ _ _ => presWord t
  | _ => ma

/-- The bank group that is a sync variable's home. -/
def syncBank (s : State) (v : Nat) : Nat :=
  let o := v - 2 ^ 64
  if v < 2 ^ 64 then bankOf v else presBank s (.win (o / 2 ^ 61 / 4096) (o / 2 ^ 61 % 4096) (o % 2 ^ 61 * 8))

/-- Room for a record at a variable's home: 1,024 records, 8 releasers a variable (R148). -/
def syncRoom (s : State) (v core : Nat) : Bool :=
  let bank := (s.sync.filter (fun x => syncBank s x.1 == syncBank s v)).foldl (fun n x => n + x.2.length) 0
  let here := (fgetD s.sync v []).map (·.core)
  bank < 1024 && (here.contains core || here.eraseDups.length < 8)

/-- A release writes the variable and places a record of the releaser's epoch; where there is no room the epoch is written
back first, and no record is placed (R147, R148). -/
def stepReleaseAtHome (k : Nat) (s : State) : State :=
  match s.msg k with
  | some (.release a) =>
    match a.locate s with
    | .wait s' => s'
    | .remote s' _ _ _ _ => noRemote s' k a
    | .refused s' c cause => refuse (s'.drop k) a c cause
    | .at_ s' ma =>
      let v := syncKey a.tgt ma
      match a.epoch, a.who with
      | some e, .op core _ _ =>
        if syncRoom s v core then
          let s' := (s'.drop k).storeMem ma a.data a.poi
          answer { s' with sync := fset s'.sync v (fgetD s'.sync v [] ++ [{ core := core, epoch := e, scope := a.scope }]) } a [] false
        else
          match writeBack s' core (fun l => l.dirty != 0 && l.epochs.contains e) false with
          | (s'', true) => if wbOut s'' core then noteArrival s'' a.key else answer ((s''.drop k).storeMem ma a.data a.poi) a [] false
          | (s'', false) => noteArrival s'' a.key
      | _, _ => answer ((s'.drop k).storeMem ma a.data a.poi) a [] false
  | _ => s

/-- The records of a variable that an acquire must obtain lines for. -/
def acquireNeeds (s : State) (v acq : Nat) (sc : Scope) : List SyncRec :=
  (fgetD s.sync v []).filter (fun x => within s x.scope x.core acq && within s sc acq x.core)

/-- Records whose lines all stand written are removed. -/
def acquireClear (s : State) (v acq : Nat) (sc : Scope) : State :=
  let keep := (fgetD s.sync v []).filter (fun x =>
    !(within s x.scope x.core acq && within s sc acq x.core) || epochDirty s x.core x.epoch)
  { s with sync := if keep.isEmpty then ferase s.sync v else fset s.sync v keep }

/-- An acquire obtains the lines of every matching record, then returns the value; the acquirer invalidates its clean bytes
(R147). At scope site or cluster it acts as a fence of its own scope. -/
def stepAcquireAtHome (k : Nat) (s : State) : State :=
  match s.msg k with
  | some (.acquire a) =>
    match a.locate s with
    | .wait s' => s'
    | .remote s' _ _ _ _ => noRemote s' k a
    | .refused s' c cause => refuse (s'.drop k) a c cause
    | .at_ s' ma =>
      match a.who with
      | .slot core _ =>
        if !scopeWide a.scope then
          let (bs, p) := s'.loadMem ma 8
          answer (s'.drop k) a bs p
        else
          let s1 := acquireClear s' (syncKey a.tgt ma) core a.scope
          let need := acquireNeeds s1 (syncKey a.tgt ma) core a.scope
          if need.isEmpty then
            let (bs, p) := s1.loadMem ma 8
            (answer (s1.drop k) a bs p).modCore core invalidateClean
          else
            let asked := s1.net
            need.foldl (fun s x =>
              let m := NetMsg.lineReq x.core x.epoch (syncKey a.tgt ma)
              if asked.contains m then s else s.send m) (noteArrival s1 a.key)
      | _ => s
  | _ => s

/-- A releaser answers a request for the dirty lines of an epoch (R148). -/
def stepLineRequest (k : Nat) (s : State) : State :=
  match s.msg k with
  | some (.lineReq core e _) =>
    match writeBack s core (fun l => l.dirty != 0 && l.epochs.contains e) false with
    | (s', true) => s'.drop k
    | (s', false) => s'
  | _ => s

/- Atomics (R149, R376). -/

/-- The prefix-cache functions on a state word (R252). -/
def prefixFn (fn : Nat) (old : W64) : W64 :=
  let x := old.toNat
  let st := nbits x 1 0
  let pin := nbits x 31 16
  let gen := nbits x 63 32
  match fn with
  | 8 => if st == 1 && pin < 65535 then BitVec.ofNat 64 (x + 2 ^ 16) else old
  | 9 => if st == 1 && 0 < pin then BitVec.ofNat 64 (x - 2 ^ 16) else old
  | 10 => if st == 1 && pin == 0 then BitVec.ofNat 64 (x + 1) else old
  | 11 => if st == 2 then BitVec.ofNat 64 (x - 2) else old
  | 12 => if st == 0 then BitVec.ofNat 64 (x % 2 ^ 16 + 1 + (gen + 1) % 2 ^ 32 * 2 ^ 32) else old
  | _ => old

/-- The new value an atomic writes (R376). -/
def atomicNew (fn : Nat) (t : Ty) (old : W64) (b c : W64) : W64 :=
  let n := tyBits t
  let o := old.toNat % 2 ^ n
  let x := b.toNat % 2 ^ n
  match fn with
  | 0 => BitVec.ofNat 64 ((o + x) % 2 ^ n)
  | 1 => BitVec.ofNat 64 (o &&& x)
  | 2 => BitVec.ofNat 64 (o ||| x)
  | 3 => BitVec.ofNat 64 (o ^^^ x)
  | 4 => BitVec.ofNat 64 (if readInt (tySigned t) n x < readInt (tySigned t) n o then x else o)
  | 5 => BitVec.ofNat 64 (if readInt (tySigned t) n o < readInt (tySigned t) n x then x else o)
  | 6 => BitVec.ofNat 64 x
  | 7 => if o == c.toNat % 2 ^ n then BitVec.ofNat 64 x else BitVec.ofNat 64 o
  | fn => prefixFn fn old

/-- An atomic is performed at its word's home and returns the old value; a poisoned word is returned poisoned and not
changed (R376). -/
def stepAtomicAtHome (k : Nat) (s : State) : State :=
  match s.msg k with
  | some (.atomic a) =>
    match a.locate s with
    | .wait s' => s'
    | .remote s' d w c o => sendOn s' k a d w c o
    | .refused s' c cause => refuse (s'.drop k) a c cause
    | .at_ s' ma =>
      let (bs, p) := s.loadMem ma a.n
      if p then answer ((endArrival s a.key).drop k) a bs true
      else
        let new := atomicNew a.fn a.t (BitVec.ofNat 64 (leNat bs)) a.b a.c
        answer ((s'.drop k).storeMem ma (leBytes new.toNat a.n) false) a bs false
  | _ => s

/- Chains (R151 to R155). -/

/-- The key of chain ch of a gang; gang 0 stands for the Lodge's cores. -/
def chainKey (gang ch : Nat) : Nat := gang * 256 + ch

/-- The die of a chain's home: that of the gang's lowest-numbered region, or die 0 for a Lodge core (R151, R371). -/
def chainDie (s : State) (key : Nat) : Nat :=
  match (fgetD s.gangs (key / 256) {}).regions.head? with
  | some r => r / 16
  | none => 0

/-- The Turnstile of a chain: die × 64 + CH mod 64. -/
def chainHome (s : State) (key : Nat) : Nat := chainDie s key * 64 + key % 64

/-- Entries held at a Turnstile (R152). -/
def heldAt (s : State) (home : Nat) : Nat :=
  (s.chains.filter (fun c => chainHome s c.1 == home)).foldl (fun n c => n + c.2.held.length) 0

def chainOf (a : Access) : Chain4 := a.chain.getD { ch := 0, sq := 0, pd := 0, sc := 0 }

/-- R152: an access is eligible. -/
def eligible (c : ChainSt) (a : Access) : Bool :=
  let f := chainOf a
  (f.pd == c.l && (c.sl == f.sq || c.sl == 0xFFFFFF)) || (f.pd == 0xFFFFFF && c.sl == f.sq)

/-- A null link performs nothing at any target (R151). -/
def nullLink (a : Access) : Bool := a.n == 0

/-- A refused access of the chain would be the next: no younger one is performed past it (R155, R418). -/
def stuck (c : ChainSt) : Bool := c.waitFault.any (eligible c)

/-- An access of the chain may be forwarded now (R152). -/
def mayForward (c : ChainSt) : Bool := !c.flying && !stuck c

/-- L and SL after the performance of an access (R152). -/
def chainAdvance (c : ChainSt) (a : Access) : ChainSt :=
  let f := chainOf a
  if f.sc == 0 then { c with l := 0, sl := 0xFFFFFF } else { c with l := f.sq, sl := f.sc }

/-- Forward the earliest-arrived held entry that is eligible; null links are performed at once. `fuel` bounds the chain of
null links by the entries held. -/
def chainPump (s : State) (key : Nat) : Nat → State
  | 0 => s
  | fuel + 1 =>
    let c := fgetD s.chains key {}
    if !mayForward c then s
    else
      match c.held.find? (eligible c) with
      | none => s
      | some a =>
        let c := { c with held := c.held.erase a }
        if nullLink a then
          chainPump (answer { s with chains := fset s.chains key (chainAdvance c a) } a [] false) key fuel
        else { s with chains := fset s.chains key { c with flying := true } }.send (.chained a)

/-- Where a chained access is performed, and whether that is the backing place of its window (R101, R152). -/
def chainAt (s : State) (a : Access) : Loc × Bool :=
  match a.tgt with
  | .win d x off =>
    (match windowRes d (s.win (d * 4096 + x)) off (a.kind == .chWrite) false with
     | .tile n ma => (.at_ (if a.kind == .chWrite then dirtyTile s (d * 4096 + x) n else s) ma, false)
     | .slot ma => (.at_ s ma, false)
     | .back ma => (.at_ s ma, true)
     | .remote _ _ _ _ => (.refused s .xlate 4, false)
     | .wait => (.wait s, false)
     | .refuse c => (.refused s c 0, false))
  | .hbm p => (.at_ s (hbmAddr p), false)
  | .cmn d p => (.at_ s (cmnAddr d p), false)
  | _ => (a.locate s, false)

/-- The place in the Commons whose table checks a chained access to a window. -/
def chainSlot (s : State) (a : Access) : Nat :=
  match a.tgt with
  | .win d w off =>
    let x := s.win (d * 4096 + w)
    cmnAddr d (slotAddr x (off / tileSize x) + off % tileSize x)
  | .hbm p => hbmAddr p
  | .cmn d p => cmnAddr d p
  | _ => codeAddr 0

/-- The table check of a chained access on arrival, against the target that holds its bytes (R51, R152): the access, which notes whether that is
the backing place, where it is permitted. -/
def chainCheck (s : State) (a : Access) : Option Access × State :=
  if nullLink a then (some a, s)
  else
    let (ma, back) := match chainAt s a with
      | (.at_ _ ma, true) => (ma, true)
      | _ => (chainSlot s a, false)
    match checkAt s ma a.n a.kind a.mid with
    | (true, s) => (some { a with back := back }, s)
    | (false, s) => (none, s)

/-- A refused access of a chain waits for its trap block's answer; the chain does not advance (R155). -/
def chainRefused (s : State) (key : Nat) (c : ChainSt) (a : Access) : State :=
  { s with chains := fset s.chains key { c with waitFault := c.waitFault ++ [a] } }

/-- A permitted access comes to its chain: it is forwarded, or held, or finds the Turnstile full (R152). -/
def chainArrive (s : State) (key : Nat) (a : Access) : State :=
  let c := fgetD s.chains key {}
  if eligible c a && mayForward c then
    if nullLink a then chainPump (answer { s with chains := fset s.chains key (chainAdvance c a) } a [] false) key (c.held.length + 1)
    else { s with chains := fset s.chains key { c with flying := true } }.send (.chained a)
  else if heldAt s (chainHome s key) < 256 then { s with chains := fset s.chains key { c with held := c.held ++ [{ a with since := s.ns }] } }
  else refuse s a .tsfull 0

def stepChainArrival (k : Nat) (s : State) : State :=
  match s.msg k with
  | some (.chain a) =>
    let key := chainKey a.gang (chainOf a).ch
    if !pathUp s (a.mid / 8192) (chainDie s key) then s
    else
      match chainCheck s a with
      | (none, s') => refuse (chainRefused (s'.drop k) key (fgetD s.chains key {}) a) a .access 0
      | (some a, s') => chainArrive (s'.drop k) key a
  | _ => s

/-- A forwarded access is performed at its target, its acknowledgement advances the chain, and the earliest eligible held
entry follows (R152). A target that its bytes have moved to meanwhile checks it too (R51). A refusal at the target leaves the chain where it is,
and nothing goes past it (R155). -/
def stepChainPerformed (k : Nat) (s : State) : State :=
  match s.msg k with
  | some (.chained a) =>
    let key := chainKey a.gang (chainOf a).ch
    let c := fgetD s.chains key {}
    let no (s : State) (f : FCode) (cause : Nat) : State := refuse (chainRefused (s.drop k) key { c with flying := false } a) a f cause
    if !pathUp s (chainDie s key) (tgtDie a.tgt) then s
    else
      match chainAt s a with
      | (.wait s', _) => s'
      | (.remote s' _ _ _ _, _) => no s' .xlate 4
      | (.refused s' f cause, _) => no s' f cause
      | (.at_ s' ma, back) =>
        match if back == a.back then (true, s') else checkAt s' ma a.n a.kind a.mid with
        | (false, s') => no s' .access 0
        | (true, s') =>
          let s' := s'.drop k
          let w := a.kind == .chWrite
          let (bs, p) := if w then ([], false) else s'.loadMem ma a.n
          let s' := if w then s'.storeMem ma a.data a.poi else s'
          let s' := { s' with chains := fset s'.chains key { chainAdvance c a with flying := false } }
          chainPump (answer s' a bs p) key (c.held.length + 1)
  | _ => s

/-- What is left of a chain that F_GAP closes: an access in flight, and the refused accesses whose trap blocks have not answered. -/
def gapClosed (c : ChainSt) : Option ChainSt :=
  let live := c.waitFault.filter (fun a => a.who != .none)
  if c.flying || !live.isEmpty then some { flying := c.flying, waitFault := live } else none

/-- A held entry returns F_GAP to its issuer, the first with CH and L in its record (R153). -/
def gapOne (p : State × Option Nat) (e : Access) : State × Option Nat :=
  let s := p.1
  let told (core idx aux : Nat) (ba : W64) (g : Option Nat) : State :=
    s.send (.fault core { postRecord core FCode.gap.num 0 idx e.va ba 0 with aux := BitVec.ofNat 32 aux } g)
  match e.who, p.2 with
  | .reg core g idx ba, some aux => (told core idx aux ba (some g), none)
  | .op core idx ba, some aux => (told core idx aux ba none, none)
  | _, aux => (refuse s e .gap (aux.getD 0), none)

/-- F_GAP: the chain's oldest held entry has been held for GAPLIM; every held entry returns F_GAP and the chain closes
(R153), unless a pre-emption has stopped the timers (R88). -/
def stepGapTimeout (key : Nat) (s : State) : State :=
  let c := fgetD s.chains key {}
  let die := chainDie s key
  match c.held.head? with
  | none => s
  | some a =>
    if (fgetD s.gangs (key / 256) {}).pre.isSome || s.ns < a.since + s.gapLim.getD die 50 * 1000 then s
    else
      let s := { s with
        chains := match gapClosed c with
          | some c => fset s.chains key c
          | none => ferase s.chains key
        gaps := s.gaps.set die ((s.gaps.getD die 0 + 1) % 65536) }
      (c.held.foldl gapOne (s, some (key % 256 * 2 ^ 24 + c.l))).1

/-- The chain whose refused access is the one that a test names, and that access (R155). -/
def refusedChain (s : State) (mine : Access → Bool) : Option (Nat × Access) :=
  s.chains.findSome? (fun c => (c.2.waitFault.find? mine).map (fun a => (c.1, a)))

/-- A core's refused access that a post-commit record tells of. -/
def accessOf (k : Nat) (f : FaultRec) (a : Access) : Bool :=
  a.va == f.opa && (match a.who with
    | .reg c _ _ ba | .op c _ ba => c == k && ba == f.opb
    | _ => false)

/-- Who is told of the null link that takes a refused access's place: its register already has the supplied value. -/
def Who.null : Who → Who
  | .reg k _ idx ba => .op k idx ba
  | w => w

/-- The trap block of a refused chained access has returned: with a supplied token the home treats the access as a null link; without one the
access stays refused, and its chain does not advance (R155, R389). -/
def chainGo (s : State) (key : Nat) (a : Access) (sup : Bool) : State :=
  let c := fgetD s.chains key {}
  if sup then
    chainArrive { s with chains := fset s.chains key { c with waitFault := c.waitFault.erase a } } key { a with n := 0, data := [], who := a.who.null }
  else
    { s with chains := fset s.chains key { c with waitFault := c.waitFault.map (fun b => if b == a then { a with who := .none } else b) } }

end Sys2Proof.Machine
end

