-- ==== Sys2Proof/Machine/UnitMem.lean ====
section
/-! DEFINITION. Translation and plain accesses of a region's units: port tiles, engines, the Carousel station, the Trellis (R50, R51,
R119 to R126, R138). -/

namespace Sys2Proof.Machine

/-- The key of a unit among the withheld translations of its region. -/
def unitKey (r u : Nat) : Nat := 2 * (100000 + r * 64 + u) + 1

/-- The leaf of one page for unit u of region r, by a walk. A unit has a miss when it comes to another page than that of its last walk (R133).
DESIGN CHOICE, log 44. -/
def unitLeaf (s : State) (r u : Nat) (a : W64) : State × WalkRes :=
  let page := a.toNat / 65536
  let p := fgetD (s.region r).ports u {}
  if !xrootEn (s.region r).xroot then (s, .fault 1)
  else
    walkOrHeld s r (unitKey r u) a (fun s =>
      if p.page == some page then doWalk s r a
      else doWalk ((countMiss s r).modRegion r (fun g => { g with ports := fset g.ports u { p with page := some page } })) r a)

/-- Translation of an access of n bytes by a unit of region r (R119 to R126, R138). -/
def unitTr (s : State) (r u : Nat) (kind : AKind) (a : W64) (n : Nat) : TrRes :=
  if !canonical a n then .fault s .noncanon 0
  else if apertureBase ≤ a.toNat then
    let off := a.toNat - apertureBase
    if (kind == .read || kind == .write) && off + n ≤ 0x600000 then .ok s (.scratch r off) else .fault s .xlate 6
  else
    let key := unitKey r u
    match unitLeaf s r u a with
    | (s, .pending) => .withheld (withhold s r key a) (some a)
    | (s, .wait) => .withheld s none
    | (s, .fault c) => .fault (unhold s r key a) .xlate c
    | (s, .leaf e l1) =>
      let s := unhold s r key a
      if !leafRights e kind then .fault s .xlate 2
      else
        let t := leafTgt e l1 a
        match extentBad s t n with
        | some (c, cause) => .fault s c cause
        | none =>
          if a.toNat % 65536 + n ≤ 65536 then .ok s t
          else
            let m := 65536 - a.toNat % 65536
            let b := a + BitVec.ofNat 64 m
            if apertureBase ≤ b.toNat then .fault s .straddle 0
            else
              match unitLeaf s r u b with
              | (s, .pending) => .withheld (withhold s r key b) (some b)
              | (s, .wait) => .withheld s none
              | (s, .fault _) => .fault (unhold s r key b) .straddle 0
              | (s, .leaf e2 l2) =>
                match crossing t m kind e2 (leafTgt e2 l2 b) with
                | some (c, cause) => .fault (unhold s r key b) c cause
                | none => .ok (unhold s r key b) t

/-- How a unit's access ends. -/
inductive UnitRes where
  | ok (s : State) (bs : List Byte) (poi : Bool)
  | wait (s : State)
  | fault (s : State) (code cause : Nat)

/-- The path to memory of unit u of region r changes. -/
def State.modPath (s : State) (r u : Nat) (f : PortTile → PortTile) : State :=
  s.modRegion r (fun g => { g with ports := fset g.ports u (f (fgetD g.ports u {})) })

/-- An answer that has come joins the answers of its port. -/
def PortTile.settle (p : PortTile) : PortTile :=
  match p.resp, p.want with
  | some (bs, poi, code, cause), some key =>
    { p with resp := none, want := none, asked := false, parts := p.parts ++ [{ key := key, bytes := bs, poi := poi, code := code, cause := cause }] }
  | _, _ => p

/-- An access of a unit to another station: sent once, awaited at its port; `keep` leaves the answer there until the whole read ends (R247,
R335). -/
def unitAway (s : State) (r u : Nat) (a : Access) (keep : Bool) : UnitRes :=
  let p := (fgetD (s.region r).ports u {}).settle
  let key := (a.kind, a.tgt, a.n)
  match p.parts.find? (fun x => x.key == key) with
  | some x =>
    let s := s.modPath r u (fun _ => { p with parts := if keep && x.code == 0 then p.parts else p.parts.erase x })
    if x.code == 0 then .ok s x.bytes x.poi else .fault s x.code x.cause
  | none =>
    if p.asked then .wait (s.modPath r u (fun _ => p))
    else .wait ((s.modPath r u (fun _ => { p with asked := true, want := some key })).send (.plain a))

def unitRemote (s : State) (r u : Nat) (a : Access) : UnitRes := unitAway s r u a false

/-- One read of several to another station. -/
def unitPiece (s : State) (r u d w c o n : Nat) (kind : AKind) : UnitRes :=
  unitAway s r u { who := .unit r u, kind := kind, mid := regionMid r u, tgt := .remote d w c o, n := n } true

/-- A read of several pieces has ended: the answers kept for it go. -/
def dropParts (s : State) (r u : Nat) : State :=
  if (fgetD (s.region r).ports u {}).parts.any (fun x => x.key.1 != .write) then
    s.modPath r u (fun p => { p with parts := p.parts.filter (fun x => x.key.1 == .write) })
  else s

def UnitRes.ends (r u : Nat) : UnitRes → UnitRes
  | .ok s bs p => .ok (dropParts s r u) bs p
  | .fault s c cause => .fault (dropParts s r u) c cause
  | .wait s => .wait s

/-- Read n bytes at a target. -/
def readTgt (s : State) (r u : Nat) (t : Tgt) (n : Nat) (kind : AKind) : UnitRes :=
  match locate s (.unit r u) (regionMid r u) t n kind with
  | .at_ s ma => let (bs, p) := s.loadMem ma n; .ok s bs p
  | .wait s => .wait s
  | .refused s c cause => .fault s c.num cause
  | .remote s d w c o => unitRemote s r u { who := .unit r u, kind := kind, mid := regionMid r u, tgt := .remote d w c o, n := n }

/-- Read n bytes at a virtual address, one of several reads. -/
def unitReadPiece (s : State) (r u : Nat) (kind : AKind) (a : W64) (n : Nat) : UnitRes :=
  match unitTr s r u kind a n with
  | .ok s t =>
    (match locate s (.unit r u) (regionMid r u) t n kind with
     | .at_ s ma => let (bs, p) := s.loadMem ma n; .ok s bs p
     | .wait s => .wait s
     | .refused s c cause => .fault s c.num cause
     | .remote s d w c o => unitPiece s r u d w c o n kind)
  | .withheld s _ => .wait s
  | .fault s c cause => .fault s c.num cause

/-- Write bytes at a target. -/
def writeTgt (s : State) (r u : Nat) (t : Tgt) (bs : List Byte) (poi : Bool) : UnitRes :=
  match locate s (.unit r u) (regionMid r u) t bs.length .write with
  | .at_ s ma => .ok (s.storeMem ma bs poi) [] false
  | .wait s => .wait s
  | .refused s c cause => .fault s c.num cause
  | .remote s d w c o =>
    unitRemote s r u { who := .unit r u, kind := .write, mid := regionMid r u, tgt := .remote d w c o, n := bs.length, data := bs, poi := poi }

/-- A plain or fetch read of n bytes at a virtual address. -/
def unitRead (s : State) (r u : Nat) (kind : AKind) (a : W64) (n : Nat) : UnitRes :=
  match unitTr s r u kind a n with
  | .ok s t => readTgt s r u t n kind
  | .withheld s _ => .wait s
  | .fault s c cause => .fault s c.num cause

def unitWrite (s : State) (r u : Nat) (a : W64) (bs : List Byte) (poi : Bool) : UnitRes :=
  match unitTr s r u .write a bs.length with
  | .ok s t => writeTgt s r u t bs poi
  | .withheld s _ => .wait s
  | .fault s c cause => .fault s c.num cause

/-- The pieces of a read of n items of k bytes. -/
def unitPieces (s : State) (r u : Nat) (kind : AKind) (k : Nat) : Nat → W64 → UnitRes
  | 0, _ => .ok s [] false
  | n + 1, a =>
    match unitReadPiece s r u kind a k with
    | .ok s bs p =>
      (match unitPieces s r u kind k n (a + BitVec.ofNat 64 k) with
       | .ok s cs q => .ok s (bs ++ cs) (p || q)
       | x => x)
    | x => x

/-- Read n items of k bytes from an address upwards, one plain access each (tables, lists, images). -/
def unitReadMany (s : State) (r u : Nat) (kind : AKind) (k n : Nat) (a : W64) : UnitRes := (unitPieces s r u kind k n a).ends r u

/-- Split bytes into items of k bytes as numbers. -/
def items (k : Nat) (bs : List Byte) : Nat → List Nat
  | 0 => []
  | n + 1 => leNat (bs.take k) :: items k (bs.drop k) n

/-- A post-commit fault of the issuer with a fault number (R333: a refused read of a descriptor or a table). -/
def issuerFault (s : State) (d : Desc) (code cause : Nat) : State :=
  (commandEnded s d).send (.fault d.by_.core (postRecord d.by_.core code cause d.by_.idx d.addr d.by_.baddr 0) none)

/-- Core addresses: what a Lodge core reads without page tables. -/
def lodgeRead (s : State) (c : Nat) (a : W64) (n : Nat) : UnitRes :=
  match translate s c .read a n with
  | .ok s t =>
    (match locate s .none (coreMid c) t n .read with
     | .at_ s ma => let (bs, p) := s.loadMem ma n; .ok s bs p
     | .wait s => .wait s
     | .refused s c cause => .fault s c.num cause
     | .remote s _ _ _ _ => .fault s FCode.xlate.num 1)
  | .withheld s _ => .wait s
  | .fault s c cause => .fault s c.num cause

/-- The words of a descriptor, by its issuer's core (R333, R335): 8-byte pieces of its size; the first word gives the size. -/
def readDescWords (s : State) (core : Nat) : Nat → W64 → UnitRes
  | 0, _ => .ok s [] false
  | n + 1, a =>
    let x := if core < 640 then unitReadPiece s (core / 10) (coreMid core % 256) .read a 8 else lodgeRead s core a 8
    match x with
    | .ok s bs p =>
      (match readDescWords s core n (a + 8) with
       | .ok s cs q => .ok s (bs ++ cs) (p || q)
       | x => x)
    | x => x

/-- The size a KIND has in words; `none` for every other KIND (R334). -/
def kindWords : Nat → Option Nat
  | 0x01 | 0x02 | 0x03 | 0x04 | 0x10 | 0x12 | 0x18 | 0x38 | 0x39 | 0x3A | 0x3B | 0x3C => some 16
  | 0x08 | 0x09 | 0x0A | 0x11 | 0x19 | 0x20 | 0x21 | 0x22 | 0x28 | 0x30 | 0x31 | 0x32 => some 8
  | _ => none

/-- The header's checks (R333, R334): the fault, if any. -/
def headerBad (a : W64) (w0 w1 : Nat) : Option FCode :=
  let kind := nbits w0 7 0
  let sz := nbits w0 9 8
  if nbits w0 63 30 != 0 then some .rsvd
  else
    match kindWords kind with
    | none => some .desc
    | some n =>
      if (if n == 8 then sz != 0 else sz != 1) || 1 < nbits w0 11 10 || 1023 < nbits w0 21 12 || a.toNat % 64 != 0 || w1 % 64 != 0
      then some .desc else none

/-- The words of a descriptor have been read, or not: what was kept of them goes. -/
def descEnds (core : Nat) (x : UnitRes) : UnitRes := if core < 640 then x.ends (core / 10) (coreMid core % 256) else x

/-- A descriptor read whole, or why not. -/
inductive DescRes where
  | ok (s : State) (d : Desc)
  | wait (s : State)
  | refuse (s : State) (c : FCode)
  | fault (s : State) (code cause : Nat)

def readDesc (s : State) (a : W64) (by_ : Issuer) : DescRes :=
  if a.toNat % 64 != 0 then .refuse s .desc
  else
    match readDescWords s by_.core 8 a with
    | .wait s => .wait s
    | .fault s c cause => .fault (if by_.core < 640 then dropParts s (by_.core / 10) (coreMid by_.core % 256) else s) c cause
    | .ok s bs p =>
      let s0 := if by_.core < 640 then dropParts s (by_.core / 10) (coreMid by_.core % 256) else s
      if p then .fault s0 FCode.poison.num 0
      else
        let ws := items 8 bs 8
        match headerBad a (ws.getD 0 0) (ws.getD 1 0) with
        | some c => .refuse s0 c
        | none =>
          if kindWords (nbits (ws.getD 0 0) 7 0) == some 8 then
            .ok s0 { words := ws.map (BitVec.ofNat 64), addr := a, by_ := by_ }
          else
            match descEnds by_.core (readDescWords s by_.core 8 (a + 64)) with
            | .wait s => .wait s
            | .fault s c cause => .fault s c cause
            | .ok s cs q =>
              if q then .fault s FCode.poison.num 0
              else .ok s { words := (ws ++ items 8 cs 8).map (BitVec.ofNat 64), addr := a, by_ := by_ }

end Sys2Proof.Machine
end

