-- ==== Sys2Proof/Machine/Tasks.lean ====
section
/-! DEFINITION. Memory-node buffers as a unit sees them (R113, R222), and the armed tasks of a kiosk: when their inputs are resident
(R114, R219, R220). -/

namespace Sys2Proof.Machine

/-- Some word of a descriptor from word i on is not zero. -/
def Desc.used (d : Desc) (i : Nat) : Bool := (d.words.drop i).any (fun w => w != 0)

/- The plane record of a memory node (R222, R332). -/

def nodeRec (s : State) (r n : Nat) : PlaneRec := (s.site r (nodeSite n)).act
/-- REPEAT mode. -/
def nodeRepeat (s : State) (r n : Nat) : Bool := extBits (nodeRec s r n) 1 0 == 1
def nodeOut (s : State) (r n : Nat) : Bool := extBits (nodeRec s r n) 10 10 == 1
def nodeNbuf (s : State) (r n : Nat) : Nat := if (nodeRec s r n).fop == 0 then 0 else extBits (nodeRec s r n) 5 2
def nodeWcnt (s : State) (r n : Nat) : Nat := extBits (nodeRec s r n) 9 6
/-- Bytes of buffer i, and where it begins in the region's scratchpad. -/
def nodeSize (s : State) (r n i : Nat) : Nat := extBits (nodeRec s r n) (6 * i + 21) (6 * i + 16) * 1024
def nodeStart (s : State) (r n i : Nat) : Nat := n * 0xC000 + ((List.range i).map (nodeSize s r n)).sum

def State.node (s : State) (r n : Nat) : MemNode := fgetD (s.region r).nodes n {}
def State.setNode (s : State) (r n : Nat) (x : MemNode) : State := s.modRegion r (fun g => { g with nodes := fset g.nodes n x })
def MemNode.buf (x : MemNode) (i : Nat) : NodeBuf := fgetD x.bufs i {}

/- Tasks. -/

/-- An input of a task is resident: a buffer with a count and the task's fill tag, a tile that is CNT or RES. -/
def inputResident (s : State) (r : Nat) (tt : W64) (i : Bool × W64) : Bool :=
  if i.1 then
    let b := (s.node r (nbits i.2.toNat 6 0)).buf (nbits i.2.toNat 11 8)
    0 < b.count && b.tag == some tt
  else
    match fget (s.win (nbits i.2.toNat 13 0)).tiles (nbits i.2.toNat 63 24) with
    | some t => t.st == .cnt || t.st == .res
    | none => false

def taskResident (s : State) (r : Nat) (t : Task) : Bool := t.inputs.all (inputResident s r t.tt)

/-- Slots whose inputs have all become resident are ready from this cycle on (R220). -/
def noteReady (s : State) (r : Nat) : State :=
  if ((s.region r).kiosks.all (fun k => k.2.slots.isEmpty)) then s
  else
    s.modRegion r (fun g => { g with
      kiosks := g.kiosks.map (fun k => (k.1, { k.2 with
        slots := k.2.slots.map (fun t => (t.1, if t.2.ready.isNone && taskResident s r t.2 then { t.2 with ready := some s.cyc } else t.2)) })) })

/-- In every region: a tile has become resident. -/
def noteReadyAll (s : State) : State := (s.regions.map (·.1)).foldl noteReady s

end Sys2Proof.Machine
end

