-- ==== Sys2Proof/Machine/Windows.lean ====
section
/-! DEFINITION. Windows of the Commons: fills, counted reads, plain accesses, freed-slot notices, write-back, retirement (R98 to
R111, R115), the window commands (R435), and the chains of engine commands (R423, R424). -/

namespace Sys2Proof.Machine

def State.modWin (s : State) (w : Nat) (f : Window → Window) : State := s.setWin w (f (s.win w))
def State.setTile (s : State) (w n : Nat) (t : Tile) : State := s.modWin w (fun x => { x with tiles := fset x.tiles n t })
def State.freeTile (s : State) (w n : Nat) : State := s.modWin w (fun x => { x with tiles := ferase x.tiles n })

/-- The fill pattern of n bytes (R99): the four bytes of FILL over and over. -/
def fillPattern (w : Window) (n : Nat) : List Byte := (List.range n).map (fun i => w.fillv.extractLsb' (8 * (i % 4)) 8)

/-- A fault of the party that fills, reads or closes (R94, R108). -/
def partyFault (s : State) (w : Nat) (p : Party) (code aux : Nat) : State :=
  let rcd (mid : Nat) : FaultRec := { code := code, mid := mid, aux := BitVec.ofNat 32 aux }
  match p with
  | .port r y => raiseRegion s r (.window w) { rcd (regionMid r y) with x := 0, y := y }
  | .core k =>
    match keyRegion k with
    | some r => raiseRegion s r (.window w) (rcd (coreMid k))
    | none => sessionFault s (s.win w).owner (rcd (coreMid k))
  | .engine r j => raiseRegion s r (.window w) (rcd (regionMid r (32 + j)))
  | .mst r _ => raiseRegion s r (.window w) (rcd (regionMid r 40))
  | .carousel r => raiseRegion s r .carousel (rcd (regionMid r 43))
  | .chan c => sessionFault s (c / 65536) (rcd sxtMid)
  | .lodge sid => sessionFault s sid (rcd (coreMid 640))
  | .away sid _ _ _ => sessionFault s sid (rcd (regionMid 0 40))
  | .none => s

/- Chains of engine commands (R423, R424). -/

/-- Accept a command into its unit: counted until it ends (R200). -/
def countCmd (s : State) (d : Desc) : State := if 640 ≤ d.by_.core then s else s.modRegion d.region (fun g => { g with cmds := g.cmds + 1 })

/-- A chain whose descriptor has completed goes on: `done` takes that descriptor off its unit, `accept` takes the next one into the unit, or refuses
it. It waits while the next descriptor cannot be read yet. -/
def nextDesc (s : State) (d : Desc) (done : State → State) (accept : State → Desc → State) : State :=
  match readDesc s d.next d.by_ with
  | .wait s' => s'
  | .ok s' d' => accept (done s') d'
  | .refuse s' c => rejectDesc (done s') { d with addr := d.next } c 0
  | .fault s' code cause =>
    (commandEnded (done s') d).send (.fault d.by_.core (postRecord d.by_.core code cause d.by_.idx d.next d.by_.baddr 0) none)

/-- A descriptor completes by `fin`, once the token finds room, and then its chain goes on; `keep` leaves the descriptor at its unit until the next
one has been read (R424). -/
def advanceBy (s : State) (d : Desc) (fin done : State → State) (keep accept : State → Desc → State) : State :=
  if d.told then nextDesc s d done accept
  else if !mayComplete s d then s
  else if d.next == 0 then done (fin s)
  else nextDesc (keep (countCmd (fin s) d) { d with told := true }) d done accept

/-- A descriptor completes with V and its effect `eff`, and its chain goes on. -/
def advance (s : State) (d : Desc) (v : Nat) (eff done : State → State) (keep accept : State → Desc → State) : State :=
  advanceBy s d (fun s => completeDesc (eff s) d v) done keep accept

/- Fills (R102, R103). -/

/-- The access check of a tile-level access at its home (R98, R51). -/
def tileCheck (s : State) (w n : Nat) (kind : AKind) (mid : Nat) : Bool × State :=
  let x := s.win w
  checkAt s (cmnAddr (w / 4096) (slotAddr x n)) (tileSize x) kind mid

/-- A fill stream reaches a window: it waits behind those before it; refused where the window is not OPEN (R100, R102). -/
def joinFill (s : State) (w : Nat) (f : FillStream) : Option State :=
  let x := s.win w
  if x.st != .opened then none else some (s.setWin w { x with fills := x.fills ++ [f] })

/-- The head stream of a window changed. -/
def setHeadFill (s : State) (w : Nat) (f : FillStream) : State :=
  s.modWin w (fun x => { x with fills := f :: x.fills.drop 1 })

/-- The fill streams that a test selects end (R102). -/
def endFills (s : State) (w : Nat) (mine : FillStream → Bool) : State :=
  s.modWin w (fun x =>
    let fs := x.fills.filter (fun f => !mine f)
    { x with fills := fs, prod := if fs.isEmpty then 0xFFFF else x.prod })

/-- The fill streams of a party end. -/
def leaveFill (s : State) (w : Nat) (p : Party) : State := endFills s w (fun f => f.by_ == p)

/-- The head stream of a window ends. -/
def endHeadFill (s : State) (w : Nat) : State :=
  s.modWin w (fun x => { x with fills := x.fills.drop 1, prod := if x.fills.length ≤ 1 then 0xFFFF else x.prod })

/-- A fill from the backing place: a prefetch or a win.fill. -/
def isBulk (f : FillStream) : Bool := f.last.isSome || f.nt.isSome

/-- A bulk fill has filled what it is to fill, with HEAD where it is. -/
def bulkFull (f : FillStream) (head : Nat) : Bool := f.last.any (fun l => l < head) || f.nt.any (fun n => n ≤ f.filled)

/-- The slot for the tile at HEAD is made FREE: a RES tile is evicted (R103). -/
def evict (s : State) (w : Nat) : State :=
  let x := s.win w
  match slotTile x (x.head % x.depth) with
  | none => s
  | some m =>
    match fget x.tiles m with
    | some t =>
      if t.st == .res then (if t.dirty && x.kind != 0 then s.setTile w m { t with st := .wb, got := 0 } else s.freeTile w m) else s
    | none => s

/-- The head stream starts the fill of the tile at HEAD in its FREE slot (R102): HEAD and PROD move on. A write-back of the tile is made for the
master that filled it. -/
def openTile (s : State) (w : Nat) (f : FillStream) : State :=
  (setHeadFill s w { f with seq := some (s.win w).head, want := false, ok := false, first := none, blocked := none }).modWin w (fun x =>
    { x with tiles := fset x.tiles x.head { c := f.cnt, by_ := f.mid }, head := x.head + 1, prod := f.mid })

/-- The entries of a counter dump (R239): entry e holds RCNT and RSUM as the ring latched them. -/
def dumpEntries (c : Carousel) : List Byte :=
  (List.range ((c.ring.map (·.nexp)).getD 0)).flatMap (fun e => leBytes (fgetD c.latRcnt e 0 + fgetD c.latRsum e 0 * 2 ^ 32) 8)

/-- The tile of a counter dump: beyond its entries it is zero (R239). -/
def dumpBytes (f : FillStream) (size : Nat) : List Byte := f.dump ++ List.replicate (size - f.dump.length) 0

/-- The dump of a ring is lost: the Carousel station faults, with that ring's BELLSQ in AUX (R239). -/
def dumpLost (s : State) (w r bell : Nat) (c : FCode) : State :=
  partyFault (s.modRegion r (fun g => { g with crs := { g.crs with frozen := some { code := c.num, aux := bell % 2 ^ 32 } } })) w (.carousel r)
    c.num (bell % 2 ^ 32)

/-- Bytes of a filling tile (R103). -/
def fillBytes (s : State) (w n : Nat) (bs : List Byte) (poi : Bool) : State :=
  let x := s.win w
  match fget x.tiles n with
  | some t => (s.storeMem (cmnAddr (w / 4096) (slotAddr x n + t.got)) bs poi).setTile w n { t with got := t.got + bs.length }
  | none => s

/-- The pieces of n bytes of HBM at a, cut at the 4 KiB boundaries, each as its address and length (R51). -/
def hbmPieces (a n : Nat) : List (Nat × Nat) :=
  (List.range (n / 4096 + 2)).filterMap (fun i =>
    let lo := max a ((a / 4096 + i) * 4096)
    let hi := min (a + n) ((a / 4096 + i + 1) * 4096)
    if lo < hi then some (lo, hi - lo) else none)

/-- Whether all pieces of a backing range may be read by a master (R51). -/
def backCheck (s : State) (a n mid : Nat) : Bool × State :=
  (hbmPieces a n).foldl (fun (p : Bool × State) x => if !p.1 then p else checkAt p.2 (hbmAddr x.1) x.2 .read mid) (true, s)

/-- The bytes of tile n that its backing place holds (R435). -/
def backed (x : Window) (n : Nat) : Nat := min (tileSize x) (x.blen - n * tileSize x)

/-- A window's own access to its remote backing place for tile n is on its way. -/
def tileOut (s : State) (w n : Nat) : Bool :=
  s.net.any (fun m => match m with
    | .remote a _ _ => a.who == .tile w n
    | _ => false)

/-- The bytes of tile n of a remote backing place from byte o on are asked for, 1 KiB at a time. -/
def askBacking (s : State) (w n o mid : Nat) : State :=
  let x := s.win w
  let (d, y, b) := remoteBase x
  sendRemote s { who := .tile w n, kind := .read, mid := mid, tgt := .remote d y x.peer 0, n := min 1024 (backed x n - o) } d y x.peer
    (b + n * tileSize x + o)

/-- A bulk fill brings its tile's bytes from the backing place, which has permitted it (R101, R435): bytes beyond BLEN take FILL. -/
def bulkBytes (s : State) (w n : Nat) (f : FillStream) : State :=
  let x := s.win w
  let size := tileSize x
  let have_ := backed x n
  let whole (s : State) : State := s.modWin w (fun y => { y with tiles := fmodify y.tiles n (fun t => { t with got := size }) })
  if x.kind == 1 then
    let (bs, poi) := s.loadMem (backAddr x (n * size)) have_
    let s := s.storeMem (cmnAddr (w / 4096) (slotAddr x n)) (bs ++ fillPattern x (size - have_)) false
    -- poison follows word by word (R55)
    whole (if poi then
      { s with poison := (List.range (have_ / 4)).foldl (fun p i =>
          if smem s.poison (backAddr x (n * size) / 4 + i) then sinsert p (cmnAddr (w / 4096) (slotAddr x n) / 4 + i) else p) s.poison }
      else s)
  else
    let got := ((fget x.tiles n).map (·.got)).getD 0
    if have_ ≤ got then whole (s.storeMem (cmnAddr (w / 4096) (slotAddr x n + got)) ((fillPattern x size).drop got) false)
    else if tileOut s w n then s
    else askBacking s w n got f.mid

/-- The head stream is refused with F_ACCESS before its tile starts (R102): a counter dump is lost (R239). -/
def fillRefused (s : State) (w : Nat) (f : FillStream) : State :=
  match f.by_ with
  | .carousel r => dumpLost (endHeadFill s w) w r f.bell .access
  | _ => setHeadFill s w { f with bad := some FCode.access.num, want := false }

/-- The first byte for the tile at HEAD has arrived, and the home permits its fill (R51, R102): the backing place of a bulk fill is asked first, and a
refusal in place of its data starts no fill. Each is checked once. -/
def fillArrives (s : State) (w : Nat) (f : FillStream) : Bool × State :=
  let x := s.win w
  if f.ok then
    (if isBulk f && x.kind == 2 && f.first.isNone then (false, if tileOut s w x.head then s else askBacking s w x.head 0 f.mid) else (true, s))
  else
    match if isBulk f && x.kind == 1 then backCheck s (x.bbase + x.head * tileSize x) (backed x x.head) f.mid else (true, s) with
    | (false, s) => (false, fillRefused s w f)
    | (true, s) =>
      match tileCheck s w x.head (if f.cnt == 0 then .write else .cfill) f.mid with
      | (false, s) => (false, fillRefused s w f)
      | (true, s) =>
        (!(isBulk f && x.kind == 2 && backed x x.head != 0), setHeadFill s w { f with ok := true, first := if backed x x.head == 0 then some [] else none })

/-- The first bytes of a tile that has started, of a counter dump all of them (R239). -/
def fillFirst (s : State) (w n : Nat) (f : FillStream) : State :=
  match f.by_ with
  | .carousel _ => fillBytes s w n (dumpBytes f (tileSize (s.win w))) false
  | _ => (f.first.map (fun bs => fillBytes s w n bs false)).getD s

/-- FILL_START (R102, R103): the first byte has arrived; the fill waits while the slot is held, and where a CNT tile held it, for
that tile's freed-slot notice. -/
def stepFillStart (w : Nat) (s : State) : State :=
  match (s.win w).fills.head? with
  | none => s
  | some f =>
    if f.seq.isSome || !f.want || f.paused || f.bad.isSome || (s.win w).st != .opened || bulkFull f (s.win w).head then s
    else
      match fillArrives s w f with
      | (false, s) => s
      | (true, s) =>
        let s := evict s w
        let x := s.win w
        let f := (x.fills.head?).getD f
        match slotTile x (x.head % x.depth) with
        | some m =>
          if f.blocked.isNone && ((fget x.tiles m).map (fun t => t.st == .cnt)).getD false then setHeadFill s w { f with blocked := some m } else s
        | none => if f.blocked.isSome then s else fillFirst (openTile s w f) w x.head f

/- The mark ring (R30, R112). -/

/-- Entry i of a window's mark ring: EIX and LVL. -/
def ringEntry (s : State) (key i : Nat) : Nat × Nat :=
  let x := s.win key
  let w := (readWord s.mem (cmnAddr (key / 4096) (x.mkbase * 1024 + i % 2 ^ (x.mkl + 7) * 8))).toNat
  (nbits w 47 0, nbits w 50 48)

/-- Entries between MKT and MKH from entry i on. -/
def ringLeft (x : Window) (i : Nat) : Nat := (x.mkh + 2 ^ 32 - i) % 2 ^ 32

/-- The entry's element has been passed by the last reader of its counted tile, which is FREE again; an EIX of 0 belongs to the start of tile 0
(R112). -/
def entryPassed (x : Window) (eix : Nat) : Bool :=
  let n := (eix - 1) * x.besz / tileSize x
  if eix == 0 then x.head != 0 && !((fget x.tiles 0).map (fun t => t.st == .fill || (t.st == .cnt && t.rd == 0))).getD false
  else n < x.head && (fget x.tiles n).isNone

/-- MKT moves past the entries whose elements the readers of counted tiles have passed (R112); `fuel` counts the entries written. -/
def ringPassTo (s : State) (key : Nat) : Nat → State
  | 0 => s
  | fuel + 1 =>
    let x := s.win key
    if x.mkt == x.mkh || !entryPassed x (ringEntry s key x.mkt).1 then s
    else ringPassTo (s.setWin key { x with mkt := (x.mkt + 1) % 2 ^ 32 }) key fuel

/-- A window of marked mode gives its mark ring what counted reads have passed. -/
def passMarks (s : State) (key : Nat) : State := if (s.win key).mkd then ringPassTo s key (ringLeft (s.win key) (s.win key).mkt) else s

/-- A counted read of a tile as a thing that waits at its home. -/
def countedKey (who : Who) (key n mid size : Nat) : Arrival :=
  { who := who, mid := mid, kind := .cread, tgt := .win (key / 4096) (key % 4096) (n * size), n := size }

/-- A counted read arrives at its home: its rights are checked once, before it waits (R51, R52), and the answer of the tile follows, behind what
arrived at the tile before it (R111). -/
def countedArrive (s : State) (who : Who) (key n mid : Nat) : CRes × State :=
  let x := s.win key
  let me := countedKey who key n mid (tileSize x)
  if x.st != .opened then (.notOpen, endArrival s me)
  else if !reaches s mid me.tgt then (.wait, s)
  else
    match if hasArrived s me then (true, s) else tileCheck s key n .cread mid with
    | (false, s) => (.denied, s)
    | (true, s) =>
      match countedRes x n with
      | .wait => (.wait, noteArrival s me)
      | c => if overtakes s me || turnPast s key n mid then (.wait, noteArrival s me) else (c, endArrival s me)

/-- The read starts: one reader more is in progress. -/
def beginRead (s : State) (w n : Nat) : State :=
  passMarks (s.modWin w (fun x => { x with tiles := fmodify x.tiles n (fun t => { t with rd := t.rd + 1 }) })) w

/-- A counted read that its reader has given up is in progress no more (R103). -/
def endRead (s : State) (w n gen : Nat) : State := giveUp s [(w, n, gen)]

/-- What a counted read of a tile takes (R105, R156). -/
def copyTile (s : State) (key n : Nat) : TileCopy :=
  let x := s.win key
  let ma := cmnAddr (key / 4096) (slotAddr x n)
  { gen := x.gen, bytes := (s.loadMem ma (tileSize x)).1
    poi := (List.range (tileSize x / 4)).filter (fun i => smem s.poison (ma / 4 + i)) }

/-- n bytes of the tile from byte o on, with their poison. -/
def TileCopy.read (c : TileCopy) (o n : Nat) : List Byte × Bool := ((c.bytes.drop o).take n, c.poi.any (fun i => o / 4 ≤ i && i ≤ (o + n - 1) / 4))

/-- The tile's last byte is delivered (R105) to a master: the count falls, and at zero the slot is freed and a notice sent (R106). -/
def deliverRead (s : State) (w n mid : Nat) : State :=
  let x := s.win w
  match fget x.tiles n with
  | some t =>
    if t.st != .cnt then s
    else if t.c ≤ 1 then passMarks ((s.freeTile w n).send (.notice w n x.prod)) w
    else s.setTile w n { t with c := t.c - 1, rd := t.rd - 1, ev := some (commonsCycle s, mid) }
  | none => s

/-- A bulk fill has nothing more to fill, or was refused at the home: it waits for its completion only. -/
def bulkOver (x : Window) (f : FillStream) : Bool := isBulk f && f.seq.isNone && (f.bad.isSome || bulkFull f x.head)

/-- Retirement begins: fills that wait for a slot, and those behind them, are refused; a counter dump among them is lost (R239); F_RDSHORT is
due where counts remain. -/
def beginRetire (s : State) (w : Nat) (closer : Party) : State :=
  let x := s.win w
  let n := ncnt x
  let keep := x.fills.filter (fun f => f.seq.isSome || bulkOver x f)
  let gone := x.fills.filter (fun f => !(f.seq.isSome || bulkOver x f))
  let s := s.setWin w { x with st := .retiring, closer := closer, short := n, shortDue := n != 0, fills := keep }
  gone.foldl (fun s f => match f.by_ with
    | .core k => if f.pf then postFault s k .winstate 0 f.idx (BitVec.ofNat 64 f.addr) f.baddr none else s
    | .carousel r => dumpLost s w r f.bell .winstate
    | _ => s) s

/- Egress bindings (R31). -/

/-- Entries of a window's mark ring from entry i on, with those that lie within n elements. -/
def marksWithin (s : State) (key n : Nat) : Nat → Nat → List (Nat × Nat)
  | 0, _ => []
  | fuel + 1, i =>
    let e := ringEntry s key i
    if n < e.1 then [] else e :: marksWithin s key n fuel ((i + 1) % 2 ^ 32)

/-- A mark entry (R30). -/
def markBytes (e : Nat × Nat) : List Byte := leBytes (e.1 + e.2 * 2 ^ 48) 8

/-- The first entry, from i on, whose element does not lie before element n; `fuel` counts the entries written. -/
def firstMark (s : State) (key n : Nat) : Nat → Nat → Nat
  | 0, i => i
  | fuel + 1, i => if (ringEntry s key i).1 < n then firstMark s key n fuel ((i + 1) % 2 ^ 32) else i

/-- The frames that carry the bytes of a tile from byte `at_` of the window on, which is byte `pos` of the stream, with the marks that follow them
(R28, R31); `mk` is the next mark entry. EIX counts from the start of the stream (R30), in the ring from the window's tile 0 (R112). -/
def tileFrames (s : State) (key esz cap at_ : Nat) : Nat → List Byte → Nat → Nat → List Frame × Nat
  | 0, _, _, mk => ([], mk)
  | fuel + 1, bs, pos, mk =>
    let left := if (s.win key).mkd then ringLeft (s.win key) mk else 0
    let most := min 512 (marksWithin s key ((at_ + min cap bs.length) / esz) left mk).length
    let n := min bs.length ((cap - 8 * most) / esz * esz)
    let ms := (marksWithin s key ((at_ + n) / esz) left mk).take (min 512 ((cap - n) / 8))
    let f : Frame :=
      { typ := 0, mkf := !ms.isEmpty, nmk := ms.length, pos := BitVec.ofNat 64 pos
        payload := bs.take n ++ ms.flatMap (fun e => markBytes (e.1 - (at_ - pos) / esz, e.2)) }
    if bs.length ≤ n then ([f], (mk + ms.length) % 2 ^ 32)
    else
      let (fs, mk) := tileFrames s key esz cap (at_ + n) fuel (bs.drop n) (pos + n) ((mk + ms.length) % 2 ^ 32)
      (f :: fs, mk)

/-- The last frame of a tile names it. -/
def nameTile (n : Nat) : List Frame → List Frame
  | [] => []
  | [f] => [{ f with tile := some n }]
  | f :: fs => f :: nameTile n fs

/-- A channel's ingress stream leaves its window; a tile filled in part is FREE again. -/
def leaveIngress (s : State) (k : Nat) : State :=
  let c := s.chan k
  let key := c.die * 4096 + c.win
  if c.dir != 0 then s
  else
    match (s.win key).fills.find? (fun f => f.by_ == .chan k) with
    | none => s
    | some f =>
      let s := leaveFill s key (.chan k)
      match f.seq with
      | some n => s.freeTile key n
      | none => s

/-- The window bound to a channel retires, the channel closing it (R31, R100). -/
def retireBound (s : State) (k : Nat) : State :=
  let c := s.chan k
  let key := c.die * 4096 + c.win
  if c.dir < 2 && (s.win key).st == .opened then beginRetire s key (.chan k) else s

/-- A channel is lost (R27, R31, R100): what it has not sent is gone, the window bound to it retires, and the session is told. -/
def loseChan (s : State) (k : Nat) : State :=
  endChan (retireBound (leaveIngress s k) k) k

/-- Send the tiles that are resident, in sequence order, each as one counted read (R31); `fuel` bounds it by the tiles filled. A tile whose
count is zero is over-read. A frame with poisoned bytes is not sent, and its channel is lost (R55). -/
def pumpEgress (s : State) (k : Nat) : Nat → State
  | 0 => s
  | fuel + 1 =>
    let c := s.chan k
    let key := c.die * 4096 + c.win
    let x := s.win key
    let n := c.sent
    match countedRes x n with
    | .wait | .notOpen | .denied => s
    | .over =>
      pumpEgress (partyFault (s.setChan k { c with sent := n + 1 }) key (.chan k) FCode.rdexcess.num (n % 2 ^ 32)) k fuel
    | .ready =>
      match tileCheck s key n .cread sxtMid with
      | (false, s) => partyFault s key (.chan k) FCode.access.num 0
      | (true, s) =>
        let size := tileSize x
        let (bs, poi) := s.loadMem (cmnAddr (key / 4096) (slotAddr x n)) size
        if poi then loseChan s k
        else
          let (fs, mk) := tileFrames s key c.esz (pmax (s.portOf c.port)) (n * size) (size + 1) bs c.pos.toNat c.marks
          let s := (beginRead s key n).setChan k
            { c with sent := n + 1, marks := mk, pos := c.pos + BitVec.ofNat 64 size, unsent := c.unsent ++ nameTile n fs }
          pumpEgress (pump s k) k fuel

/-- Channels bound to a window for egress go on. -/
def egressAll (s : State) (w : Nat) : State :=
  ((s.chans.filter (fun c => c.2.dir == 1 && c.2.die * 4096 + c.2.win == w && !c.2.shut)).map (·.1)).foldl
    (fun s k => pumpEgress s k ((s.win w).head + 1 - (s.chan k).sent)) s

/-- A fill stream of a window that retires has filled its tile: the next tile would be refused (R100), so it leaves, but for a bulk fill whose last
tile this was. A prefetch cut short is refused; a win.fill is as its command comes up. -/
def retireFill (s : State) (w : Nat) (f : FillStream) : State :=
  if isBulk f && !f.want then setHeadFill s w f
  else
    let s := s.modWin w (fun x => { x with fills := x.fills.drop 1 })
    match f.by_ with
    | .core k => if f.pf then postFault s k .winstate 0 f.idx (BitVec.ofNat 64 f.addr) f.baddr none else s
    | _ => s

/-- FILL_LAST_BYTE (R103): the tile becomes CNT or RES. A bulk fill's bytes come from the backing place in this step. -/
def stepFillLastByte (w : Nat) (s : State) : State :=
  let x := s.win w
  match x.fills.head? with
  | none => s
  | some f =>
    match f.seq with
    | none => s
    | some n =>
      match fget x.tiles n with
      | none => s
      | some t =>
        if t.got < tileSize x then (if isBulk f then bulkBytes s w n f else s)
        else
          let s := noteReadyAll (s.setTile w n { t with st := if t.c == 0 then .res else .cnt })
          let f : FillStream := { f with seq := none, filled := f.filled + 1 }
          let f : FillStream := { f with want := isBulk f && !bulkFull f x.head }
          if x.st != .opened then retireFill s w f
          else
          match f.by_ with
          | .carousel _ =>
            egressAll (endHeadFill s w) w
          | _ => egressAll (setHeadFill s w f) w

/- Counted reads (R104 to R107, R111). -/

/-- The tile of a scratch window that byte off names for a counted access by address: the one its slot holds, or the next to fill
it (R101). An access that waits names it anew at each try. DESIGN CHOICE, log 45. -/
def tileByAddress (x : Window) (off : Nat) : Nat :=
  if x.kind == 0 then
    let k := off / tileSize x
    match slotTile x k with
    | some n => n
    | none => x.head + (k + x.depth - x.head % x.depth) % x.depth
  else off / tileSize x

/-- COUNTED_READ_DELIVER (R105 to R107, R111): the delivery of a tile's last byte reaches the home, in its turn among those of one cycle; of a
window that has been opened anew since, it delivers nothing (R156). A crel reads and delivers in one (R375). -/
def stepCountedReadDeliver (k : Nat) (s : State) : State :=
  match s.msg k with
  | some (.counted a n) =>
    match a.tgt with
    | .win die w _ =>
      let key := die * 4096 + w
      if turnPast s key n a.mid || !reaches s a.mid a.tgt then s
      else if a.epoch.any (fun g => g != (s.win key).gen) then answer (s.drop k) a [] false
      else answer (deliverRead (s.drop k) key n a.mid) a [] false
    | _ => s
  | some (.crel a) =>
    match a.tgt with
    | .win die w off =>
      let key := die * 4096 + w
      let n := tileByAddress (s.win key) off
      match countedArrive s a.who key n a.mid with
      | (.wait, s) => s
      | (.notOpen, s) => refuse (s.drop k) a .winstate 0
      | (.denied, s) => refuse (s.drop k) a .access 0
      | (.over, s) => refuse (s.drop k) a .rdexcess (n % 2 ^ 32)
      | (.ready, s) => answer (deliverRead (beginRead (s.drop k) key n) key n a.mid) a [] false
    | _ => s
  | _ => s

/-- TILE_PLAIN_ACCESS (R101, R103, R109, R110): a plain access is performed where it lands, or sets out for another station. -/
def stepTilePlainAccess (k : Nat) (s : State) : State :=
  match s.msg k with
  | some (.plain a) =>
    match a.locate s with
    | .wait s => s
    | .remote s d w c o => sendOn s k a d w c o
    | .refused s c cause => refuse (s.drop k) a c cause
    | .at_ s ma =>
      if a.kind == .write then
        match s.storeHome a.mid ma a.data a.poi with
        | some s => served s k a [] false
        | none => refuse (s.drop k) a .desc 0
      else
        let (bs, p) := s.loadMem ma a.n
        served s k a bs p
  | _ => s

/-- FREED_SLOT_NOTICE (R106): the waiting fill may start; with none waiting the notice is discarded. -/
def stepFreedSlotNotice (k : Nat) (s : State) : State :=
  match s.msg k with
  | some (.notice w n prod) =>
    if !pathUp s (w / 4096) (prod / 8192) then s
    else
    let s := s.drop k
    match (s.win w).fills.head? with
    | some f => if f.blocked == some n then setHeadFill s w { f with blocked := none } else s
    | none => s
  | _ => s

/-- Bytes of the Commons are copied to HBM with the poison of each 4-byte word (R55). -/
def copyOut (s : State) (src dst n : Nat) : State :=
  let s := s.storeMem dst (s.loadMem src n).1 false
  { s with poison := (List.range ((n + 3) / 4)).foldl (fun p i => if smem s.poison (src / 4 + i) then sinsert p (dst / 4 + i) else p) s.poison }

/-- The pieces of a write-back at the HBM channels that hold them (R51): one that its channel refuses is not written, and the session is told.
DEDUCED, log 45: the write is checked for the master that filled the tile. -/
def writeOut (s : State) (w src a n mid : Nat) : State :=
  (hbmPieces a n).foldl (fun s x =>
    match checkAt s (hbmAddr x.1) x.2 .write mid with
    | (true, s) => copyOut s (src + (x.1 - a)) (hbmAddr x.1) x.2
    | (false, s) => sessionFault s (s.win w).owner { code := FCode.access.num, mid := mid }) s

/-- WRITEBACK_COMPLETE (R103): the tile's bytes stand at the backing place, and the slot is FREE. -/
def stepWritebackComplete (w seq : Nat) (s : State) : State :=
  let x := s.win w
  match fget x.tiles seq with
  | some t =>
    if t.st != .wb then s
    else if x.kind == 1 then
      let n := min (tileSize x) (x.blen - seq * tileSize x)
      (writeOut s w (cmnAddr (w / 4096) (slotAddr x seq)) (x.bbase + seq * tileSize x) n t.by_).freeTile w seq
    else if min (tileSize x) (x.blen - seq * tileSize x) ≤ t.got then s.freeTile w seq
    else if tileOut s w seq then s
    else
      let (d, y, b) := remoteBase x
      let n := min 1024 (min (tileSize x) (x.blen - seq * tileSize x) - t.got)
      let (bs, poi) := s.loadMem (cmnAddr (w / 4096) (slotAddr x seq + t.got)) n
      sendRemote s { who := .tile w seq, kind := .write, mid := t.by_, tgt := .remote d y x.peer 0, n := n, data := bs, poi := poi }
        d y x.peer (b + seq * tileSize x + t.got)
  | none => s

/- Retirement (R100, R108). -/

/-- WINDOW_RETIRE (R103, R108): F_RDSHORT at the closer; CNT and RES tiles are written back where dirty and backed, and
otherwise freed. No notice is sent. -/
def stepWindowRetire (w : Nat) (s : State) : State :=
  let x := s.win w
  if x.st != .retiring then s
  else
    let s := if x.shortDue then partyFault s w x.closer FCode.rdshort.num x.short else s
    s.modWin w (fun x => { x with
      shortDue := false
      tiles := x.tiles.filterMap (fun t =>
        if t.2.st == .cnt || t.2.st == .res then (if t.2.dirty && x.kind != 0 then some (t.1, { t.2 with st := .wb, got := 0 }) else none)
        else some t) })

/-- The window a window command names (R307). -/
def Desc.win (d : Desc) : Nat := nbits (d.word 3) 13 0

/-- What is refused of a window command at issue (R435). -/
def winDescBad (d : Desc) : Bool :=
  let w3 := d.word 3
  let w4 := d.word 4
  nbits w3 63 14 != 0 || (List.range 3).any (fun i => d.word (5 + i) != 0) ||
  (match d.kind with
   | 0x08 => w4 != 0
   | 0x09 => nbits w4 63 40 != 0
   | _ => nbits w4 63 1 != 0)

/-- Put the next window command of a chain into the queue, where it names the same window. -/
def acceptWin (w : Nat) (s : State) (d : Desc) : State :=
  if d.kind < 0x08 || 0x0A < d.kind then rejectDesc s d .desc 0
  else if winDescBad d then rejectDesc s d .rsvd 0
  else if d.win == w then { s with wq := fset s.wq w (fgetD s.wq w [] ++ [d]) }
  else rejectDesc s d .desc 0

/-- WINDOW_CLOSED (R100, R435): every tile is FREE; the window's win.close completes with NCNT as retirement began. -/
def stepWindowClosed (w : Nat) (s : State) : State :=
  let x := s.win w
  if x.st != .retiring || !x.tiles.isEmpty || x.shortDue || !x.fills.isEmpty then s
  else
    let close (s : State) : State := s.setWin w { x with
      st := .closed, head := 0, mkh := 0, mkt := 0, prod := 0xFFFF, closer := .none, closing := false, fills := [] }
    match fgetD s.wq w [] with
    | d :: ds =>
      if d.kind == 0x0A && x.closing then
        advance s d x.short close (fun s => { s with wq := fset s.wq w ds }) (fun s d => { s with wq := fset s.wq w (d :: ds) }) (acceptWin w)
      else close s
    | [] => close s

/-- The completion token of a prefetch goes to its matching store, where that has room; a Lodge core's is discarded (R381). -/
def prefetchToken (s : State) (f : FillStream) : Option State :=
  match f.tok with
  | none => some s
  | some (r, m, q, tag) =>
    let site := mstSite m
    let y := s.site r site
    let ts := fgetD y.q q []
    if 4 ≤ ts.length then none
    else some (moved (s.setSite r site { y with q := fset y.q q (ts ++ [{ kind := .ctl, v := BitVec.ofNat 32 f.filled, tag := tag }]) }) r site)

/-- PREFETCH_DONE (R115): the last tile of a prefetch is resident; the token goes to the matching store. A refusal is a post-commit fault. -/
def stepPrefetchDone (w : Nat) (s : State) : State :=
  let x := s.win w
  match x.fills.head? with
  | some f =>
    if !f.pf || f.seq.isSome || !(f.bad.isSome || bulkFull f x.head) then s
    else
      (match f.bad, f.by_ with
       | some code, .core k => (endHeadFill s w).send (.fault k (postRecord k code 0 f.idx (BitVec.ofNat 64 f.addr) f.baddr 0) none)
       | _, _ => (prefetchToken (endHeadFill s w) f).getD s)
  | none => s

/- The window commands (R435). -/

/-- The head window command, and what follows it. -/
def winHead (s : State) (w kind : Nat) : Option (Desc × List Desc) :=
  match fgetD s.wq w [] with
  | d :: ds => if d.kind == kind then some (d, ds) else none
  | [] => none

/-- The right W at the home of slot 0 (R435). -/
def winRight (s : State) (w : Nat) (d : Desc) : Bool × State := tileCheck s w 0 .write (coreMid d.by_.core)

/-- The command leaves the queue with a completion. -/
def winDone (s : State) (w : Nat) (d : Desc) (ds : List Desc) (v : Nat) (done : State → State) : State :=
  advance s d v done (fun s => { s with wq := fset s.wq w ds }) (fun s d => { s with wq := fset s.wq w (d :: ds) }) (acceptWin w)

/-- The chain of a window command that has completed goes on. -/
def winNext (s : State) (w : Nat) (d : Desc) (ds : List Desc) : State := nextDesc s d (fun s => { s with wq := fset s.wq w ds }) (acceptWin w)

/-- The command leaves the queue refused. -/
def winRefused (s : State) (w : Nat) (d : Desc) (ds : List Desc) (c : FCode) : State := rejectDesc { s with wq := fset s.wq w ds } d c 0

/-- The presence bits of a window are cleared (R146, R435). -/
def clearPresence (s : State) (w : Nat) : State :=
  { s with full := s.full.filter (fun a => a < presBase w || presBase (w + 1) ≤ a) }

/-- A CLOSED window becomes OPEN (R99, R435). -/
def openWindow (s : State) (w : Nat) : State :=
  let x := s.win w
  (clearPresence s w).setWin w { x with st := .opened, head := 0, mkh := 0, mkt := 0, tiles := [], fills := [], prod := 0xFFFF, gen := x.gen + 1 }

def stepWinOpen (w : Nat) (s : State) : State :=
  match winHead s w 0x08 with
  | none => s
  | some (d, ds) =>
    if d.told then winNext s w d ds
    else if !mayComplete s d then s
    else
      match winRight s w d with
      | (false, s) => winRefused s w d ds .access
      | (true, s) =>
        match (s.win w).st with
        | .opened => winRefused s w d ds .winstate
        | .retiring => s
        | .closed => winDone s w d ds 0 (fun s => openWindow s w)

def stepWinFill (w : Nat) (s : State) : State :=
  match winHead s w 0x09 with
  | none => s
  | some (d, ds) =>
    let nt := nbits (d.word 4) 31 0
    let rdc := nbits (d.word 4) 39 32
    let mine (f : FillStream) : Bool := f.by_ == .core d.by_.core && f.nt.isSome && f.addr == d.addr.toNat
    let x := s.win w
    if d.told then winNext s w d ds
    else
    match x.fills.find? mine with
    | some f =>
      if f.bad.isSome then
        let s := endFills s w mine
        (commandEnded { s with wq := fset s.wq w ds } d).send
          (.fault d.by_.core (postRecord d.by_.core (f.bad.getD 0) 0 d.by_.idx d.addr d.by_.baddr 0) none)
      else if f.filled == nt then winDone s w d ds nt (fun s => endFills s w mine)
      else s
    | none =>
      if !mayComplete s d then s
      else
        match winRight s w d with
        | (false, s) => winRefused s w d ds .access
        | (true, s) =>
          if x.st != .opened then winRefused s w d ds .winstate
          else if x.kind == 0 then winRefused s w d ds .desc
          else if nt == 0 then winDone s w d ds 0 id
          else
            (joinFill s w
              { by_ := .core d.by_.core, mid := coreMid d.by_.core, cnt := rdc, nt := some nt, want := true, addr := d.addr.toNat }).getD s

def stepWinClose (w : Nat) (s : State) : State :=
  match winHead s w 0x0A with
  | none => s
  | some (d, ds) =>
    if d.told then winNext s w d ds
    else
    match winRight s w d with
    | (false, s) => winRefused s w d ds .access
    | (true, s) =>
      let x := s.win w
      match x.st with
      | .opened =>
        if nbit (d.word 4) 0 && ncnt x != 0 then s else (beginRetire s w (.core d.by_.core)).modWin w (fun x => { x with closing := true })
      | .retiring => if x.closing then s else winRefused s w d ds .winstate
      | .closed => winRefused s w d ds .winstate

end Sys2Proof.Machine
end

