-- ==== Sys2Proof/Machine/MemPorts.lean ====
section
/-! DEFINITION. Memory-port elements (R411 to R419), their fences and drains (R137, R417), and memory-ordering arcs (R144, R176). -/

namespace Sys2Proof.Machine

/-- The TLK and the aperture flag of IMM (R412). -/
def portTlk (x : Site) : Nat := nbits (immOf x) 2 0
def portApt (x : Site) : Bool := nbit (immOf x) 3

/-- Change a TLK of a region. -/
def State.tlk (s : State) (r t : Nat) : Tlk := fgetD (s.region r).tlks t {}
def State.setTlk (s : State) (r t : Nat) (x : Tlk) : State := s.modRegion r (fun g => { g with tlks := fset g.tlks t x })

/-- A pin of an entry is given back; a dead entry without pins is freed (R129, R135). -/
def unpin (s : State) (r p : Nat) : State :=
  let t := p / 512
  let e := p % 512
  let k := s.tlk r t
  match fget k.entries e with
  | none => s
  | some x =>
    let x := { x with pins := x.pins - 1 }
    s.setTlk r t { k with entries := if x.dead && x.pins == 0 then ferase k.entries e else fset k.entries e x }

/-- Port tiles of region r whose arc names port tile u (R176). -/
def arcsFrom (s : State) (r u : Nat) : List Nat :=
  (List.range 32).filter (fun y =>
    let p := (s.site r (y * 32)).act
    nbit (extBits p 0 0) 0 && extBits p 5 1 == u && y != u)

/-- The upstream port tile of y's arc. -/
def arcInto (s : State) (r y : Nat) : Option Nat :=
  let p := (s.site r (y * 32)).act
  if nbit (extBits p 0 0) 0 then some (extBits p 5 1) else none

def MemReq.settled (q : MemReq) : Bool :=
  match q.st with
  | .done _ | .refused _ _ => true
  | _ => false

/-- An access, that a fence or a drain is not. -/
def MemReq.isAccess (q : MemReq) : Bool :=
  match q.kind with
  | .fence _ | .drain => false
  | _ => true

/-- The tags of the address tokens that a TLK has received and not yet translated (R137). -/
def tlkHolds (s : State) (r t : Nat) : List W64 := ((fgetD (s.site r (tlkSite t)).q 0 []).filter (fun h => h.kind == .data)).map (·.tag)

def tlkPinned (s : State) (r t : Nat) : Bool := (s.tlk r t).entries.any (fun e => e.2.pins != 0)

/-- What a TLK held of one tag when a fence came: as many later requests of that tag have been performed, or the rest of them have become no
request, with the TLK rid of them. -/
def heldDone (s : State) (r t : Nat) (after : List MemReq) (hold : List W64) (tag : W64) : Bool :=
  let m := hold.count tag
  let ps := (after.filter (fun p => p.tag == tag)).take m
  ps.all MemReq.settled && (ps.length == m || (!(tlkHolds s r t).contains tag && !tlkPinned s r t))

/-- A fence or a drain is complete: every earlier request has been performed, and what its TLK held when it came (R137, R417). -/
def fenceDone (s : State) (r t : Nat) (before after : List MemReq) (q : MemReq) : Bool :=
  before.all MemReq.settled && q.hold.all (heldDone s r t after q.hold)

/-- Fences whose earlier requests have been performed become done, in stream order. -/
def settleFences (s : State) (r t : Nat) (before : List MemReq) : List MemReq → List MemReq
  | [] => before
  | q :: qs =>
    let q := if !q.isAccess && !q.settled && fenceDone s r t before qs q then { q with st := .done [] } else q
    settleFences s r t (before ++ [q]) qs

/-- Completions that the downstream port tile d holds, is about to receive, or must keep a place for: those of the accesses of port tile y that are
under way or refused (R176). -/
def arcLoad (s : State) (r y d : Nat) : Nat :=
  (s.site r (d * 32)).arc.length +
    (s.net.filter (fun m => match m with
      | .arc r' d' _ => r' == r && d' == d
      | _ => false)).length +
    ((s.site r (y * 32 + 1)).reqs.filter (fun q => q.isAccess && q.kind != .null && (match q.st with
      | .waiting => false
      | .refused _ _ => true
      | _ => !q.sent))).length

/-- What the performance of a request brings: its pin falls, and its completion sets out over the arcs (R129, R144, R176); a refused access
completes its arcs as its port resumes. -/
def notePerformed (s : State) (r y : Nat) (q : MemReq) : State :=
  let s := match q.pinned with
    | some p => unpin s r p
    | none => s
  let refused := match q.st with
    | .refused _ _ => true
    | _ => false
  if q.isAccess && !refused then (arcsFrom s r y).foldl (fun s d => s.send (.arc r d q.tag)) s else s

/-- A performed request is noted; the completions of an access whose place a token took wait for room (R176). -/
def settleOne (s : State) (r y : Nat) (q : MemReq) : State × MemReq :=
  if !q.settled || q.sent then (s, q)
  else if q.kind == .null && (arcsFrom s r y).any (fun d => 16 ≤ arcLoad s r y d) then (s, q)
  else (notePerformed s r y q, { q with sent := true, pinned := none })

def settleAll (s : State) (r y : Nat) : List MemReq → State × List MemReq
  | [] => (s, [])
  | q :: qs =>
    let (s, q) := settleOne s r y q
    let (s, qs) := settleAll s r y qs
    (s, q :: qs)

/-- Take note of the requests performed since. -/
def portSettle (s : State) (r y : Nat) : State :=
  let n := y * 32 + 1
  let x := s.site r n
  let (s, reqs) := settleAll s r y x.reqs
  s.setSite r n { x with reqs := settleFences s r (portTlk x) [] reqs }

/-- Set the state of a request. -/
def setReq (s : State) (r n id : Nat) (f : MemReq → MemReq) : State :=
  let x := s.site r n
  s.setSite r n { x with reqs := x.reqs.map (fun q => if q.id == id then f q else q) }

/-- The kind of access a request makes. -/
def reqKind : ReqKind → AKind
  | .read => .read
  | .write => .write
  | .cread => .cread
  | .chRead => .chRead
  | .chWrite => .chWrite
  | .fence _ | .drain | .null => .read

/-- Where a request goes, or its refusal at the port tile (R413), where the rights of a TLK's leaf are tested. DESIGN CHOICE, log 45. -/
def reqTarget (s : State) (r : Nat) (x : Site) (q : MemReq) : Sum Tgt (FCode × Nat) :=
  let k := reqKind q.kind
  if portApt x then
    if q.kind == .cread || q.kind == .chRead || q.kind == .chWrite then .inr (.xlate, 6)
    else if q.addr % 4 != 0 then .inr (.align, 0)
    else if 0x600000 ≤ q.addr then .inr (.xlate, 6)
    else .inl (.scratch r q.addr)
  else
    let off := q.addr % 65536
    if q.kind != .cread && off % 4 != 0 then .inr (.align, 0)
    else
      match fget (s.tlk r (portTlk x)).entries (q.addr / 2 ^ 23) with
      | none => .inr (.xlate, 1)
      | some e =>
        let t := leafTgt e.leaf e.l1 (BitVec.ofNat 64 (e.page * 65536 + off))
        if !leafRights e.leaf k then .inr (.xlate, 2) else .inl t

/-- Words of a tile, with the poison of each (R55, R415). -/
def tileWords (s : State) (ma n : Nat) : List (W32 × Bool) :=
  (List.range n).map (fun j => (BitVec.ofNat 32 (readLe s.mem (ma + 4 * j) 4), smem s.poison ((ma + 4 * j) / 4)))

/-- A counted read of a whole tile begins (R105, R107, R415). -/
def issueCounted (s : State) (r n y : Nat) (q : MemReq) (t : Tgt) : State :=
  let bad (s : State) (c : FCode) (aux : Nat) : State := setReq s r n q.id (fun q => { q with st := .refused c.num aux })
  match t with
  | .win die w off =>
    let key := die * 4096 + w
    let x := s.win key
    match wholeTile s die w off with
    | some (c, cause) => bad s c cause
    | none =>
    if off % tileSize x != 0 then bad s .cntpart 0
    else
      let m := tileByAddress x off
      match countedArrive s (.port r y q.id) key m (regionMid r y) with
      | (.wait, s) => s
      | (.notOpen, s) => bad s .winstate 0
      | (.denied, s) => bad s .access 0
      | (.over, s) => bad s .rdexcess (m % 2 ^ 32)
      | (.ready, s) =>
        setReq (beginRead s key m) r n q.id (fun q =>
          { q with st := .done (tileWords s (cmnAddr die (slotAddr x m)) (tileSize x / 4)), tile := some (key, m), gen := x.gen })
  | _ => bad s .cntpart 0

/-- The arc of port tile y holds a request: its completion has not come (R176). -/
def takeArc (tag : W64) : List W64 → Option (List W64)
  | [] => none
  | t :: ts => if t == tag then some ts else (takeArc tag ts).map (t :: ·)

/-- A downstream port tile that holds sixteen completions, or is about to, holds this port's accesses back. -/
def arcRoom (s : State) (r y : Nat) : Bool :=
  (arcsFrom s r y).all (fun d =>
    arcLoad s r y d + ((s.site r (y * 32 + 1)).reqs.filter (fun q => q.kind == .null && !q.sent)).length < 16)

/-- Send an access of a request. -/
def sendReq (s : State) (r n y : Nat) (q : MemReq) (t : Tgt) : State :=
  if q.kind == .cread then issueCounted s r n y q t
  else
    let a : Access := {
      who := .port r y q.id, kind := reqKind q.kind, mid := regionMid r y, tgt := t, n := 4
      data := if q.kind == .write || q.kind == .chWrite then leBytes q.val.toNat 4 else [], poi := q.poi
      chain := q.chain, gang := ((s.region r).gang).getD 0 }
    let s := setReq s r n q.id (fun q => { q with st := .flight })
    if q.chain.isSome then s.send (.chain a) else s.send (.plain a)

/-- The request that is issued next: the first access that has not left, unless a fence before it still waits (R145, R417). -/
def nextReq : List MemReq → Option MemReq
  | [] => none
  | q :: qs =>
    if q.isAccess then (if q.st == .waiting then some q else nextReq qs)
    else
      match q.kind, q.settled with
      | .fence _, false => none
      | _, _ => nextReq qs

/-- Two ranges of bytes share an 8-byte word of one target. -/
def Tgt.overlaps (t : Tgt) (n : Nat) (u : Tgt) (m : Nat) : Bool :=
  let near (a b : Nat) : Bool := a / 8 ≤ (b + m - 1) / 8 && b / 8 ≤ (a + n - 1) / 8
  match t, u with
  | .win d w o, .win d' w' o' => d == d' && w == w' && near o o'
  | .hbm a, .hbm b => near a b
  | .scratch r o, .scratch r' o' => r == r' && near o o'
  | .remote d w c o, .remote d' w' c' o' => d == d' && w == w' && c == c' && near o o'
  | _, _ => false

/-- The bytes that a request takes or writes at its target. -/
def reqBytes (s : State) (q : MemReq) (t : Tgt) : Nat :=
  match q.kind, t with
  | .cread, .win die w _ => tileSize (s.win (die * 4096 + w))
  | _, _ => 4

/-- An earlier access of the stream to the same words is not yet performed, and one of the two writes (R141, R143, R159 note 1). The accesses of a
chain are ordered by their chain alone. -/
def portClashes (s : State) (r y : Nat) (q : MemReq) (t : Tgt) : Bool :=
  (outstanding s).any (fun x =>
    (match x.1.who with
     | .port r' y' _ => r' == r && y' == y
     | _ => false) &&
      !(x.2 && q.chain.isSome) && (writesTo (reqKind q.kind) || !readsOnly x.1.kind) && x.1.tgt.overlaps x.1.n t (reqBytes s q t))

/-- A chained request goes past no earlier one that has been refused (R155, R418). -/
def pastRefused (reqs : List MemReq) (q : MemReq) : Bool :=
  q.chain.isSome && (reqs.takeWhile (fun p => p.id != q.id)).any (fun p => match p.st with
    | .refused _ _ => true
    | _ => false)

/-- The next request is issued, where the arcs and the stream's own accesses let it (R141, R176, R418). -/
def issueReq (s : State) (r n : Nat) : State :=
  let y := n / 32
  let x := s.site r n
  match nextReq x.reqs with
  | none => s
  | some q =>
    if !arcRoom s r y || pastRefused x.reqs q then s
    else
      let held := match arcInto s r y with
        | none => some none
        | some _ => (takeArc q.tag (s.site r (y * 32)).arc).map some
      match held with
      | none => s
      | some rest =>
        let s' := match reqTarget s r x q with
          | .inr (c, cause) => setReq s r n q.id (fun q => { q with st := .refused c.num cause })
          | .inl t => if portClashes s r y q t then s else sendReq s r n y q t
        -- a request that waits consumes no completion
        if ((s'.site r n).reqs.find? (fun p => p.id == q.id)).map (·.st) == some .waiting then s'
        else
          match rest with
          | some ts => let z := s'.site r (y * 32); s'.setSite r (y * 32) { z with arc := ts }
          | none => s'

/-- SC and PD of a chained access by SCK and PDK (R412, R416); `none` where R151 or R416 refuses. -/
def portChain (x : Site) (w : W32) : Option Chain4 :=
  let i := immOf x
  let sq := nbits w.toNat 23 0
  let dlt := nbits w.toNat 31 24
  let sck := nbits i 17 16
  let pdk := nbits i 19 18
  let sc := if sck == 0 then (sq + dlt) % 2 ^ 24 else if sck == 1 then 0 else 0xFFFFFF
  let pd := if pdk == 0 then (if sq ≤ dlt then 0 else sq - dlt) else if pdk == 1 then 0 else 0xFFFFFF
  let bad := (dlt == 0 && (pdk == 0 || sck == 0)) || sq == 0 || sq == 0xFFFFFF || (pd == 0xFFFFFF && sc == 0xFFFFFF)
  if bad then none else some { ch := nbits i 15 8, sq := sq, pd := pd, sc := sc }

/-- The next number of a request. -/
def freshReq (x : Site) : Nat := (x.reqs.map (·.id)).foldl (fun m i => max m (i + 1)) 0

/-- Add a request for a data set; the set has left the queues in `x`. -/
def addReq (s : State) (r n : Nat) (x : Site) (q : MemReq) : State := putSite s r n { x with reqs := x.reqs ++ [{ q with id := freshReq x }] }

/-- A data set becomes a request (R413 to R417): a poisoned address or chain word faults, and so does a refused chain word. -/
def portData (s : State) (r n : Nat) (x : Site) (tag : W64) (ts : List Token) : Fired :=
  let p := x.act
  let a := ts.headD {}
  let b := ts.getD 1 {}
  let c := ts.getD 2 {}
  let chained := p.fop == 0x42 || p.fop == 0x43
  if (a.poi && p.fop != 0x45) || (chained && b.poi) then .fault .poison
  else
    let ch := if chained then portChain x b.v else none
    if chained && ch.isNone then .fault .desc
    else
      match outTag s r p tag ts 0 with
      | none => .wait
      | some (tg, s) =>
        let kind : ReqKind := match p.fop with
          | 0x40 => .read
          | 0x41 => .write
          | 0x42 => .chRead
          | 0x43 => .chWrite
          | 0x44 => .cread
          | _ => .fence false
        let d := if p.fop == 0x43 then c else b
        let q : MemReq := {
          id := 0, kind := kind, addr := a.v.toNat, tag := tag, otag := tg
          val := d.v, poi := if p.fop == 0x45 then a.poi else d.poi && (p.fop == 0x41 || p.fop == 0x43), chain := ch
          pinned := if p.fop == 0x45 || portApt x then none else some (portTlk x * 512 + a.v.toNat / 2 ^ 23) }
        .go (addReq s r n { x with cnt := x.cnt + 1 } q) (s.site r n)

/-- A fence or drain token at q0 is taken alone (R417); a fence waits for what its TLK still holds, a drain follows the accesses before it only
(R135, R137). -/
def portControl (s : State) (r n : Nat) (t : Token) : State :=
  let x := popQ (s.site r n) 0
  let hold := if portApt x || t.lvl != 2 then [] else tlkHolds s r (portTlk x)
  addReq s r n x {
    id := 0, kind := if t.lvl == 2 then .fence true else .drain, tag := t.tag, otag := t.tag, val := t.v, poi := t.poi, hold := hold }

/-- A memory-port element takes its next set and issues its next request. -/
def portTake (r n : Nat) (s : State) : State :=
    let x := s.site r n
    let s :=
      if 16 ≤ x.reqs.length then s
      else
        match qHead x 0 with
        | some t =>
          if t.kind == .ctl && (t.lvl == 2 || t.lvl == 3) then portControl s r n t
          else if x.act.matched then
            match x.issue with
            | e :: es =>
              (match portData s r n { x with issue := es } e.tag (e.slots.filterMap id) with
               | .go s _ => s
               | .wait => s
               | .fault c => freezeSite s r n { code := c.num, tag := e.tag, issued := true } true)
            | [] => s
          else
            (match takeOrdered x.act (qHeads x x.act.arity) with
             | .data ts =>
               (match portData s r n (popQs x x.act.arity) ((ts.headD {}).tag) ts with
                | .go s _ => s
                | .wait => s
                | .fault c => freezeHeads s r n c.num true)
             | .fault c => freezeHeads s r n c true
             | _ => s)
        | none =>
          match x.act.matched, x.issue with
          | true, e :: es =>
            (match portData s r n { x with issue := es } e.tag (e.slots.filterMap id) with
             | .go s _ => s
             | .wait => s
             | .fault c => freezeSite s r n { code := c.num, tag := e.tag, issued := true } true)
          | _, _ => s
    portSettle (issueReq s r n) r (n / 32)

/-- The row of a memory-port opcode: note what has been performed, whose completions do not wait for the element to be ready (R176); take the next
set, issue the next request. -/
def portAct (only : Nat → Bool) (r n : Nat) (s : State) : State :=
  if (s.region r).gang.isNone || 1024 ≤ n || siteKind n != .fe || !isMemPort (s.site r n).act.fop || !only (s.site r n).act.fop then s
  else
    let t := portSettle s r (n / 32)
    if elemReady t r n then drawOrder r n s (portTake r n t) else t

def stepElementMrdMwr (r site : Nat) (s : State) : State := portAct (fun f => f == 0x40 || f == 0x41) r site s
def stepElementMrdk (r site : Nat) (s : State) : State := portAct (fun f => f == 0x44) r site s
def stepElementMrdcMwrc (r site : Nat) (s : State) : State := portAct (fun f => f == 0x42 || f == 0x43) r site s
/-- ELEMENT_MFEN (R417): mfen, and a fence token at any memory-port element. -/
def stepElementMfen (r site : Nat) (s : State) : State :=
  let x := s.site r site
  let fence := ((qHead x 0).map (fun t => t.kind == .ctl && t.lvl == 2)).getD false
  portAct (fun f => f == 0x45 || (isMemPort f && fence)) r site s

/-- The tokens of a performed request (R414 to R417); a completion or a fence passed on carries the poison of what was consumed (R395). -/
def reqTokens (q : MemReq) (ws : List (W32 × Bool)) : List Token :=
  match q.kind with
  | .read | .cread | .chRead => ws.map (fun w => { kind := .data, v := w.1, tag := q.otag, poi := w.2 })
  | .write | .chWrite | .fence false => [{ kind := .ctl, lvl := 0, v := 0, tag := q.otag, poi := q.poi }]
  | .fence true => [{ kind := .ctl, lvl := 2, v := q.val, tag := q.otag, poi := q.poi }]
  | .drain | .null => []

/-- MEMORY_PORT_RESPONSE (R418): the oldest request's answer is emitted; a fault token freezes the element with the request's tag and
YNG. A counted read's tile is delivered (R105). -/
def stepMemoryPortResponse (r site : Nat) (s : State) : State :=
  if !elemReady s r site || !isMemPort (s.site r site).act.fop then s
  else
    let s := portSettle s r (site / 32)
    let x := s.site r site
    match x.reqs with
    | [] => s
    | q :: qs =>
      match q.st with
      | .done ws =>
        if !q.sent && q.isAccess then s
        else
        let y := (reqTokens q ws).foldl emitEl { x with reqs := qs }
        let s := putSite s r site y
        (match q.tile with
         | some (w, m) =>
           s.send (.counted { who := .none, kind := .cread, mid := regionMid r (site / 32), tgt := .win (w / 4096) (w % 4096) 0, epoch := some q.gen } m)
         | none => s)
      | .refused c cause =>
        let yng := (qs.filter (fun p => p.chain.isNone && p.isAccess && p.kind != .null && (match p.st with
          | .done _ => true
          | _ => false))).length
        freezeSite s r site
          { code := c, opa := BitVec.ofNat 64 q.addr, tag := q.tag, aux := cause, valid := 1, yng := some yng } true
      | _ => s

/-- ARC_COMPLETION (R176): a completion arrives at the downstream port tile, and a request that waited for it is issued. -/
def stepArcCompletion (k : Nat) (s : State) : State :=
  match s.msg k with
  | some (.arc r y t) =>
    let s := s.drop k
    let z := s.site r (y * 32)
    let s := s.setSite r (y * 32) { z with arc := z.arc ++ [t] }
    if (s.site r (y * 32 + 1)).frozen.isSome || !isMemPort (s.site r (y * 32 + 1)).act.fop then s
    else issueReq s r (y * 32 + 1)
  | _ => s

end Sys2Proof.Machine
end

