-- ==== Sys2Proof/Machine/Boxes.lean ====
section
/-! DEFINITION. Box streams of a port tile (R116 to R118, R426 to R434), the mark ring as a reader sees it (R112, R116), and the chains of a
port tile (R422, R423). -/

namespace Sys2Proof.Machine

/- Fields of the body (R426, R427). -/

def Desc.sm (d : Desc) : Nat := nbits (d.word 5) 2 0
def Desc.srk (d : Desc) : Bool := nbit (d.word 5) 3
def Desc.dm (d : Desc) : Nat := nbits (d.word 5) 6 4
def Desc.drk (d : Desc) : Bool := nbit (d.word 5) 7
/-- The element size b. -/
def Desc.esz (d : Desc) : Nat := 2 ^ nbits (d.word 5) 9 8
def Desc.pt (d : Desc) : Nat := nbits (d.word 5) 14 10
def Desc.trk (d : Desc) : Nat := nbits (d.word 5) 15 15
def Desc.bovc (d : Desc) : Nat := nbits (d.word 5) 20 16
def Desc.me (d : Desc) : Nat := nbits (d.word 5) 23 21
def Desc.slot (d : Desc) : Nat := nbits (d.word 5) 29 24
def Desc.kgrp (d : Desc) : Nat := nbits (d.word 5) 33 30
def Desc.rdc (d : Desc) : Nat := nbits (d.word 5) 41 34
/-- The mark level of dimension k. -/
def Desc.lvl (d : Desc) (k : Nat) : Nat := nbits (d.word 5) (44 + 3 * k) (42 + 3 * k)
def Desc.endl (d : Desc) : Nat := nbits (d.word 5) 56 54
def Desc.e0 (d : Desc) : Nat := nbits (d.word 6) 23 0
def Desc.e1 (d : Desc) : Nat := nbits (d.word 6) 47 24
def Desc.e2 (d : Desc) : Nat := nbits (d.word 7) 23 0 + 1
def Desc.e3 (d : Desc) : Nat := nbits (d.word 7) 47 24 + 1
def Desc.nidx (d : Desc) : Nat := nbits (d.word 9) 55 32
def Desc.tfld (d : Desc) : Nat := nbits (d.word 9) 58 56
def Desc.tagb (d : Desc) : W64 := d.words.getD 15 0
/-- A list box (R431). -/
def Desc.isList (d : Desc) : Bool := d.kind != 1
/-- The rows of dimension 1: the extent, or the list's entries. -/
def Desc.rows (d : Desc) : Nat := if d.isList then d.nidx else d.e1
def Desc.total (d : Desc) : Nat := d.e0 * d.rows * d.e2 * d.e3

/-- Half k of words from w on, as a natural number. -/
def Desc.half (d : Desc) (w k : Nat) : Nat := if k % 2 == 0 then nbits (d.word (w + k / 2)) 31 0 else nbits (d.word (w + k / 2)) 63 32
/-- The tensor bound and the origin of dimension k. -/
def Desc.bound (d : Desc) (k : Nat) : Nat := d.half 10 k
def Desc.origin (d : Desc) (k : Nat) : Int := sextInt (d.half 12 k) 32

/-- The byte stride of each dimension (R428): a stated one, or dense. -/
def Desc.stride (d : Desc) : Nat → Int
  | 0 => (d.esz : Int)
  | k + 1 =>
    let given := match k with
      | 0 => nbits (d.word 8) 31 0
      | 1 => nbits (d.word 8) 63 32
      | _ => nbits (d.word 9) 31 0
    let ext := match k with
      | 0 => d.e0
      | 1 => d.e1
      | _ => d.e2
    if given != 0 then sextInt given 32 else d.stride k * (ext : Int)

/-- The indices of visit pos, i0 varying fastest (R428). -/
def Desc.index (d : Desc) (pos k : Nat) : Nat :=
  match k with
  | 0 => pos % d.e0
  | 1 => pos / d.e0 % d.rows
  | 2 => pos / (d.e0 * d.rows) % d.e2
  | _ => pos / (d.e0 * d.rows * d.e2)

/-- The coordinate of dimension k at visit pos; a list entry takes the place of i1 (R431). -/
def boxCoord (b : Box) (k : Nat) : Int :=
  let i := b.d.index b.pos k
  b.d.origin k + ((if k == 1 && b.d.isList then (b.list_.getD []).getD i 0 else i : Nat) : Int)

/-- The element lies outside the bounds (R118, R428): a box whose geometry applies to neither side has none. -/
def boxClipped (b : Box) : Bool :=
  !(b.d.sm == 2 && b.d.dm != 0) && (List.range 4).any (fun k => b.d.bound k != 0 && (boxCoord b k < 0 || (b.d.bound k : Int) ≤ boxCoord b k))

/-- The byte offset of the element, modulo 2^64. -/
def boxOffset (b : Box) : Nat :=
  wrapNat ((List.range 4).foldl (fun a k => a + boxCoord b k * b.d.stride k) 0) 64

/-- The highest mark level of the dimensions that end at visit pos (R116). -/
def boxMark (d : Desc) (pos : Nat) : Nat :=
  let last (k : Nat) : Bool := d.index pos k + 1 == (match k with
    | 0 => d.e0
    | 1 => d.rows
    | 2 => d.e2
    | _ => d.e3)
  (List.range 4).foldl (fun m k => if (List.range (k + 1)).all last then max m (d.lvl k) else m) 0

/- Tile references (R425). -/

def refKey (x : W64) : Nat := nbits x.toNat 13 0
def refSeq (x : W64) : Nat := nbits x.toNat 63 24

/-- A plain access to a tile named by sequence (R51, R103, R109, R110, R146). -/
def seqLocate (s : State) (who : Who) (mid key n o len : Nat) (write : Bool) : Loc :=
  let x := s.win key
  let kind : AKind := if write then .write else .read
  let me : Arrival := { who := who, mid := mid, kind := kind, tgt := .win (key / 4096) (key % 4096) (n * tileSize x + o), n := len }
  let seen := hasArrived s me
  let at_ := cmnAddr (key / 4096) (slotAddr x n + o)
  if x.st != .opened then .refused (endArrival s me) .winstate 0
  else if x.prs && write then .refused s .presence 0
  else if !reaches s mid me.tgt then .wait s
  else
    noteLoc s me (match tileRes (key / 4096) x n o write with
      | .wait => waitChecked s seen at_ len kind mid
      | .refuse c => .refused (logAt s at_ .readCounted mid) c 0
      | .tile t ma => tileTakes s seen key t ma len kind mid write
      | .slot ma => atChecked s seen ma len kind mid id
      | .back ma => atChecked s false ma len kind mid id
      | .remote d w c f => .remote s d w c f)

/- What is refused at issue from the descriptor alone (R425 to R428, R431). -/

/-- A tile reference with a reserved bit (R6, R425). -/
def refBad (x : W64) : Bool := nbits x.toNat 23 14 != 0

def boxReserved (d : Desc) : Bool :=
  (d.srk && refBad (d.words.getD 3 0)) || (d.drk && refBad (d.words.getD 4 0)) ||
  nbits (d.word 5) 63 57 != 0 || nbits (d.word 6) 63 48 != 0 || nbits (d.word 7) 63 48 != 0 || nbits (d.word 9) 63 59 != 0

def boxShapeBad (d : Desc) : Bool :=
  let fab := d.sm == 2 || d.dm == 3
  let eng := d.dm == 4 || d.dm == 5
  2 < d.sm || 5 < d.dm || (d.sm == 2 && (d.dm == 3 || eng || d.srk)) || (fab && d.esz == 8) ||
  (d.dm == 4 && (d.esz != 8 || d.kgrp == 0 || 8 < d.kgrp || d.total % d.kgrp != 0)) ||
  (d.dm == 2 && d.rdc == 0) || (d.dm != 2 && d.rdc != 0) ||
  (!eng && (d.me != 0 || d.slot != 0 || d.kgrp != 0)) ||
  (d.dm != 3 && (List.range 4).any (fun k => d.lvl k != 0)) || (!fab && d.endl != 0)

def boxListBad (l : List TagField) (d : Desc) : Bool :=
  match d.kind with
  | 1 => d.nidx != 0 || d.tfld != 0 || d.word 14 != 0
  | 2 => d.e1 != 1 || d.sm == 2 || d.dm == 4 || d.dm == 5
  | 3 => d.e1 != 1 || d.sm == 1 || d.dm != 0
  | _ => d.e1 != 1 || d.sm != 0 || d.dm != 3 || l.length ≤ d.tfld

/-- Dense strides and zero origins, as a counted read needs (R428). -/
def boxDense (d : Desc) : Bool :=
  (List.range 4).all (fun k => d.origin k == 0 &&
    d.stride k == ((d.esz * (List.range k).foldl (fun n j => n * (match j with
      | 0 => d.e0
      | 1 => d.e1
      | _ => d.e2)) 1 : Nat) : Int))

/-- The static refusal of a box, if any. -/
def boxBad (s : State) (d : Desc) : Option FCode :=
  let closed (x : W64) : Bool := (s.win (refKey x)).st != .opened
  if boxReserved d then some .rsvd
  else if boxShapeBad d || boxListBad (s.region d.region).layout d then some .desc
  else if (d.srk && closed (d.words.getD 3 0)) || (d.drk && d.dm ≤ 2 && closed (d.words.getD 4 0)) then some .winstate
  else if d.sm == 1 && d.total != 0 && !boxDense d then some .cntpart
  else none

/- Chains of a port tile. -/

def State.pt (s : State) (r y : Nat) : PortTile := fgetD (s.region r).ports y {}
def State.modPt (s : State) (r y : Nat) (f : PortTile → PortTile) : State :=
  s.modRegion r (fun g => { g with ports := fset g.ports y (f (fgetD g.ports y {})) })

def setBox (s : State) (r y i : Nat) (b : Box) : State :=
  s.modPt r y (fun p => { p with chains := p.chains.set i { box := b } })

/-- A place for chain i. -/
def addBox (s : State) (r y i : Nat) : State := s.modPt r y (fun p => { p with chains := p.chains.insertIdx i {} })

/-- Remove chain i. -/
def dropBox (s : State) (r y i : Nat) : State := s.modPt r y (fun p => { p with chains := p.chains.eraseIdx i })

/-- The box is refused when its chain reaches it: the chain ends (R424). -/
def refuseBox (s : State) (r y i : Nat) (d : Desc) (c : FCode) (cause : Nat) : State := rejectDesc (dropBox s r y i) d c cause

/-- A counted read starts on a tile boundary and covers whole tiles, a gather's with every row (R105, R428, R431; log 45); `none` while the translation of its first byte is withheld. -/
def countedWhole (s : State) (r y : Nat) (d : Desc) : State × Option Bool :=
  let a := d.words.getD 3 0
  let whole (x : Window) (off : Nat) : Bool :=
    off % tileSize x == 0 && d.total * d.esz % tileSize x == 0 && (!d.isList || d.e0 * d.esz % tileSize x == 0)
  if d.sm != 1 || d.total == 0 then (s, some true)
  else if d.srk then (s, some (whole (s.win (refKey a)) 0))
  else
    match unitTr s r y .cread a d.esz with
    | .ok s (.win die w off) => (s, some (whole (s.win (die * 4096 + w)) off))
    | .ok s _ | .fault s _ _ => (s, some true)
    | .withheld s _ => (s, none)

/-- The window a fill names: by reference, or by an address that must translate to a Commons window (R429). -/
def fillWindow (s : State) (r y : Nat) (d : Desc) : Sum (State × Nat) (State × Option (FCode × Nat)) :=
  let a := d.words.getD 4 0
  let elsewhere (s : State) : Bool := apertureBase ≤ a.toNat || (match (unitLeaf s r y a).2 with
    | .leaf e l1 => (match leafTgt e l1 a with
      | .win _ _ _ => false
      | _ => true)
    | _ => false)
  if d.drk then .inl (s, refKey a)
  else
    match unitTr s r y (if d.dm == 2 then .cfill else .write) a 1 with
    | .ok s (.win die w _) => .inl (s, die * 4096 + w)
    | .ok s _ => .inr (s, some (.xlate, 4))
    | .withheld s _ => .inr (s, none)
    | .fault s c cause => .inr (s, some (if c == .xlate && elsewhere s then (.xlate, 4) else (c, cause)))

/-- What a box is refused for at issue (R427 to R431), with the cause of an F_XLATE: what a withheld translation leaves open is judged as the box
starts. -/
def boxRefused (s : State) (d : Desc) : Option (FCode × Nat) :=
  match boxBad s d with
  | some c => some (c, 0)
  | none =>
    if d.total == 0 then none
    else if (countedWhole s d.region d.pt d).2 == some false then some (.cntpart, 0)
    else if d.dm == 1 || d.dm == 2 then
      match fillWindow s d.region d.pt d with
      | .inr (_, some x) => some x
      | _ => none
    else none

/-- A new box enters the port tile's queue (R422). -/
def acceptBox (s : State) (d : Desc) : Option State :=
  let r := d.region
  let y := d.pt
  match boxRefused s d with
  | some (c, cause) => some (rejectDesc s d c cause)
  | none =>
    if 8 ≤ (s.pt r y).chains.length then none
    else some (s.modPt r y (fun p => { p with chains := p.chains ++ [{ box := { d := d } }] }))

/-- A running box sends or receives on an east track (R430). -/
def sendsOn (d : Desc) (t : Nat) : Bool := d.dm == 3 && d.trk == t
def takesOn (d : Desc) (t : Nat) : Bool := d.sm == 2 && d.trk == t

/-- The track a box needs is free: no earlier chain holds it or waits for it. -/
def trackFree (p : PortTile) (i : Nat) (d : Desc) : Bool :=
  (List.range p.chains.length).all (fun j =>
    let c := (p.chains.getD j {}).box
    j == i || !(i < j → c.started) || c.ended ||
      !((d.dm == 3 && sendsOn c.d d.trk) || (d.sm == 2 && takesOn c.d d.trk)) || (i < j && !c.started))

/- The mark ring (R30, R112, R116). -/

/-- The levels that come before element `at_` (of the first element only), those that follow it, and the next entry. Elements may be visited in any
order, so every entry up to the element is looked at. `fuel` counts the entries written. In the ring EIX counts the elements of the window
from its tile 0 (R112). -/
def ringMarks (s : State) (key at_ : Nat) : Nat → Nat → List Nat × List Nat × Nat
  | 0, i => ([], [], i)
  | fuel + 1, i =>
    let (e, l) := ringEntry s key i
    if at_ + 1 < e then ([], [], i)
    else
      let (a, b, j) := ringMarks s key at_ fuel ((i + 1) % 2 ^ 32)
      if e == 0 && at_ == 0 then (l :: a, b, j) else if e == at_ + 1 then (a, l :: b, j) else (a, b, j)

/-- The oldest entry that the ring still holds. -/
def ringOldest (x : Window) : Nat := x.mkh - 2 ^ (x.mkl + 7)

/-- The first entry that a reader of the ring looks at: where it began, or the oldest that is not overwritten. -/
def ringFrom (x : Window) (i : Nat) : Nat := if 2 ^ (x.mkl + 7) < ringLeft x i then (x.mkh + 2 ^ 32 - 2 ^ (x.mkl + 7)) % 2 ^ 32 else i

/-- The tile of element e holds a reader count: its marks are passed by the reader that brings it to zero (R112). -/
def countsAt (x : Window) (e esz : Nat) : Bool := ((fget x.tiles (e * esz / tileSize x)).map (fun t => t.st == .cnt)).getD false

/-- MKT moves past what a reader of an uncounted window has passed (R112). -/
def ringPassed (s : State) (key i : Nat) : State :=
  let x := s.win key
  if ringLeft x i < ringLeft x x.mkt then s.setWin key { x with mkt := i } else s

/- One element. -/

/-- What the source of an element gives. -/
inductive Fetch where
  | ok (s : State) (b : Box) (bs : List Byte) (poi : Bool) (at_ : Option (Nat × Nat))
  | none_ (s : State)
  | wait (s : State)
  | fault (s : State) (code cause cover : Nat)

/-- The fill pattern of a window for an element of b bytes, or zeros. -/
def clipBytes (s : State) (key : Option Nat) (b : Nat) : List Byte :=
  match key with
  | some k => fillPattern (s.win k) b
  | none => List.replicate b 0

/-- The window SRC names, where it names one; `none` while its translation is withheld. -/
def srcWindow (s : State) (r y : Nat) (d : Desc) : State × Option (Option Nat) :=
  let a := d.words.getD 3 0
  if d.srk then (s, some (some (refKey a)))
  else
    match unitTr s r y .read a d.esz with
    | .ok s (.win die w _) => (s, some (some (die * 4096 + w)))
    | .ok s _ | .fault s _ _ => (s, some none)
    | .withheld s _ => (s, none)

/-- The sequence of the tile that slot k holds, or held last. -/
def slotSeq (x : Window) (k : Nat) : Option Nat :=
  match slotTile x k with
  | some n => some n
  | none =>
    let back := (x.head + x.depth - 1 - k % x.depth) % x.depth
    if x.head ≤ back then none else some (x.head - 1 - back)

/-- The element that byte off of a window's virtual range stands for; in a scratch window the slot's tile tells (R101, R116). -/
def elemAt (x : Window) (off esz : Nat) : Option Nat :=
  if x.kind == 0 then (slotSeq x (off / tileSize x)).map (fun n => (n * tileSize x + off % tileSize x) / esz) else some (off / esz)

/-- The window and the element there that a plain read's visit comes to, clipped or not (R118). -/
def boxPlace (s : State) (r y : Nat) (b : Box) : Option (Nat × Nat) :=
  let d := b.d
  let a := d.words.getD 3 0
  let off := boxOffset b
  if 2 ^ 63 ≤ off then none
  else if d.srk then some (refKey a, (refSeq a * tileSize (s.win (refKey a)) + off) / d.esz)
  else
    match unitTr s r y .read a d.esz with
    | .ok _ (.win die w o) => (elemAt (s.win (die * 4096 + w)) (o + off) d.esz).map (fun e => (die * 4096 + w, e))
    | _ => none

/-- A plain read (SM 0). -/
def fetchPlain (s : State) (r y : Nat) (b : Box) : Fetch :=
  let d := b.d
  let a := d.words.getD 3 0
  if boxClipped b then
    match srcWindow s r y d with
    | (s, none) => .wait s
    | (s, some key) => .ok s b (clipBytes s key d.esz) false (boxPlace s r y b)
  else if d.srk then
    let x := s.win (refKey a)
    let off := refSeq a * tileSize x + boxOffset b
    let pos := some (refKey a, off / d.esz)
    match seqLocate s (.unit r y) (regionMid r y) (refKey a) (off / tileSize x) (off % tileSize x) d.esz false with
    | .at_ s ma => let (bs, p) := s.loadMem ma d.esz; .ok s b bs p pos
    | .wait s => .wait s
    | .refused s c cause => .fault s c.num cause 1
    | .remote s e w c o =>
      (match unitRemote s r y { who := .unit r y, kind := .read, mid := regionMid r y, tgt := .remote e w c o, n := d.esz } with
       | .ok s bs p => .ok s b bs p pos
       | .wait s => .wait s
       | .fault s c cause => .fault s c cause 1)
  else
    match unitTr s r y .read (a + BitVec.ofNat 64 (boxOffset b)) d.esz with
    | .withheld s _ => .wait s
    | .fault s c cause => .fault s c.num cause 1
    | .ok s t =>
      let pos := match t with
        | .win die w off => (elemAt (s.win (die * 4096 + w)) off d.esz).map (fun e => (die * 4096 + w, e))
        | _ => none
      (match readTgt s r y t d.esz .read with
       | .ok s bs p => .ok s b bs p pos
       | .wait s => .wait s
       | .fault s c cause => .fault s c cause 1)

/-- The window and the tile that the counted read reaches next (R101, R105, R425); by address the whole tile lies within the window's extent
(R138). -/
def countedTile (s : State) (r y : Nat) (b : Box) : Sum (State × Nat × Nat) Fetch :=
  let a := b.d.words.getD 3 0
  if b.d.srk then
    let x := s.win (refKey a)
    .inl (s, refKey a, refSeq a + boxOffset b / tileSize x)
  else
    match unitTr s r y .cread (a + BitVec.ofNat 64 (boxOffset b)) b.d.esz with
    | .withheld s _ => .inr (.wait s)
    | .fault s c cause => .inr (.fault s c.num cause 1)
    | .ok s (.win die w off) =>
      (match wholeTile s die w off with
       | some (c, cause) => .inr (.fault s c.num cause 1)
       | none => .inl (s, die * 4096 + w, tileByAddress (s.win (die * 4096 + w)) off))
    | .ok s _ => .inr (.fault s FCode.xlate.num 4 1)

/-- A counted read (SM 1): the tile is begun at its first element (R105 to R107). -/
def fetchCounted (s : State) (r y : Nat) (b : Box) : Fetch :=
  let go (s : State) (b : Box) (key n : Nat) : Fetch :=
    let x := s.win key
    let o := boxOffset b % tileSize x
    let (bs, p) := b.copy.read o b.d.esz
    let at_ := some (key, (n * tileSize x + o) / b.d.esz)
    if boxClipped b then .ok s b (clipBytes s (some key) b.d.esz) false at_ else .ok s b bs p at_
  match b.cur with
  | some (key, n) => go s b key n
  | none =>
    match countedTile s r y b with
    | .inr f => f
    | .inl (s, key, n) =>
      let x := s.win key
      let cover := tileSize x / b.d.esz
      match countedArrive s (.unit r y) key n (regionMid r y) with
      | (.wait, s) => .wait s
      | (.notOpen, s) => .fault s FCode.winstate.num 0 cover
      | (.denied, s) => .fault s FCode.access.num 0 cover
      | (.over, s) => .fault s FCode.rdexcess.num (n % 2 ^ 32) cover
      | (.ready, s) => go (beginRead s key n) { b with cur := some (key, n), copy := copyTile s key n } key n

/-- The head token of a receiving box's track and VC (R429). -/
def portHead (s : State) (r y : Nat) (d : Desc) : Option Token :=
  match fgetD (s.site r (y * 32)).bufs (bufKey (2 + d.trk) d.bovc) [] with
  | b :: _ => if b.left.contains 16 then some b.tok else none
  | [] => none

/-- The port takes the head token. -/
def portPop (s : State) (r y : Nat) (d : Desc) : State :=
  let x := s.site r (y * 32)
  let k := bufKey (2 + d.trk) d.bovc
  match fgetD x.bufs k [] with
  | b :: bs =>
    let left := b.left.erase 16
    let rest := if left.isEmpty then bs else { b with left := left } :: bs
    putSite s r (y * 32) { x with bufs := if rest.isEmpty then ferase x.bufs k else fset x.bufs k rest }
  | [] => s

/-- The source of the next element. -/
def fetchElem (s : State) (r y : Nat) (b : Box) : Fetch :=
  if b.d.isList && (b.list_.getD []).getD (b.d.index b.pos 1) 0 == 2 ^ 32 then .fault s FCode.poison.num 0 b.d.e0
  else
    match b.d.sm with
    | 0 => fetchPlain s r y b
    | 1 => fetchCounted s r y b
    | _ =>
      match portHead s r y b.d with
      | none => .wait s
      | some t =>
        if t.kind == .data then .ok s b ((leBytes t.v.toNat 4).take b.d.esz) t.poi none
        else if t.kind == .fault then .fault s (faultNum t) t.cause 1
        else .none_ (portPop s r y b.d)

/-- What the destination of an element answers. -/
inductive Put where
  | ok (s : State) (b : Box)
  | wait (s : State) (b : Box)
  | fault (s : State) (code cause : Nat)

/-- A plain write (DM 0); a clipped element is not written (R118). -/
def putPlain (s : State) (r y : Nat) (b : Box) (bs : List Byte) (poi : Bool) : Put :=
  let a := b.d.words.getD 4 0
  let off := boxOffset b
  if boxClipped b then .ok s b
  else if b.d.drk then
    let x := s.win (refKey a)
    let o := refSeq a * tileSize x + off
    match seqLocate s (.unit r y) (regionMid r y) (refKey a) (o / tileSize x) (o % tileSize x) bs.length true with
    | .at_ s ma => .ok (s.storeMem ma bs poi) b
    | .wait s => .wait s b
    | .refused s c cause => .fault s c.num cause
    | .remote s e w c f =>
      (match unitRemote s r y
          { who := .unit r y, kind := .write, mid := regionMid r y, tgt := .remote e w c f, n := bs.length, data := bs, poi := poi } with
       | .ok s _ _ => .ok s b
       | .wait s => .wait s b
       | .fault s c cause => .fault s c cause)
  else
    match unitWrite s r y (a + BitVec.ofNat 64 off) bs poi with
    | .ok s _ _ => .ok s b
    | .wait s => .wait s b
    | .fault s c cause => .fault s c cause

/-- This box's stream among the fills of a window. -/
def myFill (r y : Nat) (d : Desc) (f : FillStream) : Bool := f.by_ == .port r y && f.addr == d.addr.toNat

/-- Bytes for the tile the box fills (DM 1, 2). -/
def putFill (s : State) (r y : Nat) (b : Box) (bs : List Byte) (poi : Bool) : Put :=
  let key := b.dstWin.getD 0
  let x := s.win key
  if !x.fills.any (myFill r y b.d) then .fault s FCode.winstate.num 0
  else
    match x.fills.head? with
    | some f =>
      if !myFill r y b.d f then .wait s b
      else
        match f.bad with
        | some c => .fault s c 0
        | none =>
          match f.seq with
          | none => .wait (if f.want then s else setHeadFill s key { f with want := true }) b
          | some n =>
            if ((fget x.tiles n).map (·.got)).getD 0 < tileSize x then .ok (fillBytes s key n bs poi) b else .wait s b
    | none => .wait s b

/-- The tokens of an element, all with its tag (R431): ring marks before it, the element, ring marks, the shape's mark (R116). -/
def elemTokens (d : Desc) (pos : Nat) (before after : List Nat) (bs : List Byte) (poi : Bool) (tag : W64) : List Token :=
  let mark (l : Nat) : Token := { kind := .mark, lvl := l, tag := tag }
  let m := boxMark d pos
  before.map mark ++ [{ kind := .data, v := BitVec.ofNat 32 (leNat bs), tag := tag, poi := poi }] ++ after.map mark ++
    (if m == 0 then [] else [mark m])

/-- The tag of an element's token: TAGB, in a gather list with the list index stamped (R431). -/
def elemTag (s : State) (b : Box) : W64 :=
  if b.d.kind == 4 then setField (s.region b.d.region).layout b.d.tfld b.d.tagb (b.d.index b.pos 1) else b.d.tagb

/-- The port's emissions hold a token of the track. -/
def onTrack (x : Site) (t : Nat) : Bool := x.out.any (fun e => e.left.contains (2 + t))

/-- A token of the box goes to its track; a mark takes the next ordinal (R192). -/
def pushTok (s : State) (r y : Nat) (d : Desc) (t : Token) : State :=
  let p := s.pt r y
  let ord := (fgetD p.marks d.trk 0 + 1) % 2 ^ 40
  let t := if t.kind == .mark then { t with v := BitVec.ofNat 32 ord } else t
  let s := if t.kind == .mark then s.modPt r y (fun p => { p with marks := fset p.marks d.trk ord }) else s
  let x := s.site r (y * 32)
  s.setSite r (y * 32) (emitOn x [2 + d.trk] false { t with vc := d.bovc })

/-- A counted tile's last byte has been delivered (R105): the home is told. -/
def sendDelivered (s : State) (r y : Nat) (b : Box) : State :=
  match b.cur with
  | some (key, n) =>
    s.send (.counted { who := .none, kind := .cread, mid := regionMid r y, tgt := .win (key / 4096) (key % 4096) 0, n := b.d.esz, epoch := some b.copy.gen } n)
  | none => s

/-- The element is the last of its tile. -/
def lastOfTile (s : State) (b : Box) : Bool :=
  match b.cur with
  | some (key, _) => (boxOffset b + b.d.esz) % tileSize (s.win key) == 0
  | none => false

/-- An element has been delivered: the visit moves on, and outside a fabric send a tile that ends is delivered. -/
def elemDone (s : State) (r y i : Nat) (b : Box) (counts : Bool) : State :=
  let fullEnd := b.d.sm == 1 && lastOfTile s b
  let b' := { b with pos := b.pos + 1, count := if counts then b.count + 1 else b.count }
  if !fullEnd then setBox s r y i b'
  else if b.d.dm == 3 then setBox s r y i { b' with committed := true }
  else setBox (sendDelivered s r y b) r y i { b' with cur := none, copy := {} }

/-- The box comes to a fault: it is noted, and the port freezes once earlier elements have been delivered (R433). AUX is the visit index, but for
F_RDEXCESS, whose sequence it is: for F_XLATE too, though R126 puts the cause there. DEDUCED, log 45. -/
def elemFault (s : State) (r y i : Nat) (b : Box) (code cause cover : Nat) : State :=
  let aux := if code == FCode.rdexcess.num then cause else b.pos % 2 ^ 32
  setBox s r y i { b with
    skip := cover, supply := none
    fault := some { code := code, tag := b.d.tagb, aux := aux, valid := 0, yng := some b.yng } }

/-- A plain reader has passed an element: MKT moves past its marks, unless its tile is counted (R112). -/
def passPlain (s : State) (b : Box) (at_ : Option (Nat × Nat)) : State :=
  match at_ with
  | some (key, e) =>
    let x := s.win key
    if x.mkd && b.d.sm == 0 && !countsAt x e b.d.esz then ringPassed s key (ringMarks s key e (ringLeft x x.mkt) x.mkt).2.2 else s
  | none => s

/-- A state, and whether the box moved on. -/
abbrev Moved := Bool × State

/-- An element goes to the fabric. A counted reader looks at the ring from its oldest entry on: the marks of EIX 0 have been consumed as its tile
began (R112). -/
def sendElem (s : State) (r y i : Nat) (b : Box) (bs : List Byte) (poi : Bool) (at_ : Option (Nat × Nat)) (counts : Bool) : State :=
  match at_ with
  | some (key, e) =>
    if (s.win key).mkd then
      let x := s.win key
      let start := ringFrom x (if b.mkNext != 0 then b.mkNext - 1 else if b.d.sm == 1 then ringOldest x else x.mkt)
      let (u, v, _) := ringMarks s key e (ringLeft (s.win key) start) start
      elemDone (passPlain s b at_) r y i { b with toks := elemTokens b.d b.pos u v bs poi (elemTag s b), mkNext := start + 1 } counts
    else elemDone s r y i { b with toks := elemTokens b.d b.pos [] [] bs poi (elemTag s b) } counts
  | none => elemDone s r y i { b with toks := elemTokens b.d b.pos [] [] bs poi (elemTag s b) } counts

/-- Deliver a value to the destination. While that makes it wait, a value read from memory is kept. -/
def putElem (s : State) (r y i : Nat) (b : Box) (bs : List Byte) (poi : Bool) (at_ : Option (Nat × Nat)) (counts : Bool) : Moved :=
  let after (s : State) (b : Box) : Moved :=
    (true, elemDone (if b.d.sm == 2 then portPop s r y b.d else passPlain s b at_) r y i b counts)
  let keep (s : State) (b : Box) : Moved := (false, setBox s r y i (if b.d.sm == 2 then b else { b with got := some (bs, poi, at_) }))
  match b.d.dm with
  | 0 =>
    (match putPlain s r y b bs poi with
     | .ok s b => after s b
     | .wait s b => keep s b
     | .fault s c cause => (true, elemFault s r y i b c cause 1))
  | 3 => (true, sendElem s r y i b bs poi at_ counts)
  | _ =>
    (match putFill s r y b bs poi with
     | .ok s b => after s b
     | .wait s b => keep s b
     | .fault s c cause => (true, elemFault s r y i b c cause 1))

/-- The window and the element there of a visit that gave a fault (R116). -/
def skipPlace (s : State) (r y : Nat) (b : Box) : Option (Nat × Nat) :=
  match b.d.sm with
  | 0 => boxPlace s r y b
  | 1 =>
    (match countedTile s r y b with
     | .inl (_, key, n) => some (key, (n * tileSize (s.win key) + boxOffset b % tileSize (s.win key)) / b.d.esz)
     | .inr _ => none)
  | _ => none

/-- The marks of an element that is skipped leave; its data token does not. -/
def dropData (s : State) (r y i : Nat) : State :=
  let b := ((s.pt r y).chains.getD i {}).box
  setBox s r y i { b with toks := b.toks.filter (fun t => t.kind != .data) }

/-- A faulting element after tret: skipped, or given the value supplied (R433); a written one counts (R434). -/
def skipOne (s : State) (r y i : Nat) (b : Box) : Moved :=
  let b := { b with skip := b.skip - 1 }
  match b.supply with
  | none =>
    if b.d.dm == 3 then (true, dropData (sendElem s r y i b [] false (skipPlace s r y b) false) r y i)
    else (true, elemDone (passPlain s b (skipPlace s r y b)) r y i { b with toks := [] } false)
  | some v =>
    let bs := (leBytes v.toNat 8).take b.d.esz
    match b.d.dm with
    | 3 => (true, sendElem s r y i b bs false (skipPlace s r y b) false)
    | 0 =>
      (match putPlain s r y b bs false with
       | .ok s b => (true, elemDone s r y i b (!boxClipped b))
       | .wait s _ => (false, s)
       | .fault s c cause => (true, elemFault s r y i b c cause 1))
    | _ =>
      (match putFill s r y b bs false with
       | .ok s b => (true, elemDone s r y i b true)
       | .wait s _ => (false, s)
       | .fault s c cause => (true, elemFault s r y i b c cause 1))

/-- A faulting element: where the fabric is the source, it takes its token with it (R429, R433). -/
def skipElem (s : State) (r y i : Nat) (b : Box) : Moved :=
  if b.d.sm != 2 then skipOne s r y i b
  else
    match portHead s r y b.d with
    | none => (false, s)
    | some t =>
      if t.kind == .mark || t.kind == .ctl then (true, portPop s r y b.d)
      else
        match skipOne s r y i b with
        | (true, u) => if (((u.pt r y).chains.getD i {}).box).fault.isSome then (true, u) else (true, portPop u r y b.d)
        | (false, u) => (false, u)

/-- The next element of a started box. -/
def nextElem (s : State) (r y i : Nat) (b : Box) : Moved :=
  if b.skip != 0 then skipElem s r y i b
  else
    match b.got with
    | some (bs, poi, at_) => putElem s r y i { b with got := none } bs poi at_ (!boxClipped b)
    | none =>
    match fetchElem s r y b with
    | .wait s => (false, s)
    | .none_ s => (true, s)
    | .fault s c cause cover => (true, elemFault s r y i b c cause cover)
    | .ok s b bs poi at_ => putElem s r y i b bs poi at_ (!boxClipped b)

/- Start and end. -/

/-- Read the list, one plain read an entry; poisoned entries are marked as 2^32 (R431). The answers of another station are kept until the whole
list is there (R247). -/
def readList (s : State) (r y : Nat) (d : Desc) : UnitRes × List Nat :=
  let k := if d.kind == 4 then 8 else 4
  let rec go (s : State) : Nat → W64 → UnitRes × List Nat
    | 0, _ => (.ok s [] false, [])
    | n + 1, a =>
      match unitReadPiece s r y .read a k with
      | .ok s bs p =>
        let (x, l) := go s n (a + BitVec.ofNat 64 k)
        (x, (if p then 2 ^ 32 else leNat (bs.take 4)) :: l)
      | x => (x, [])
  let (x, l) := go s d.nidx (d.words.getD 14 0)
  (x.ends r y, l)

/-- A collective sends its rows on the track a box needs (R430, R444). -/
def collHolds (s : State) (r y : Nat) (d : Desc) : Bool :=
  d.dm == 3 && s.colls.any (fun c => c.2.r == r && !c.2.fabric.isEmpty && nbits (c.2.d.word 3) 24 20 == y && nbits (c.2.d.word 3) 25 25 == d.trk)

/-- Start box i: its tracks are free, its list is read, its fill stream joins the window. -/
def startBox (s : State) (r y i : Nat) (b : Box) : Moved :=
  let d := b.d
  if d.total == 0 then (true, setBox s r y i { b with started := true, ended := true })
  else if !trackFree (s.pt r y) i d || collHolds s r y d then (false, s)
  else
    match countedWhole s r y d with
    | (s, none) => (false, s)
    | (s, some false) => (true, refuseBox s r y i d .cntpart 0)
    | (s, some true) =>
    let fill (s : State) (b : Box) : Moved :=
      if d.dm == 1 || d.dm == 2 then
        match fillWindow s r y d with
        | .inr (s, some (c, cause)) => (true, refuseBox s r y i d c cause)
        | .inr (s, none) => (false, s)
        | .inl (s, key) =>
          (match joinFill s key { by_ := .port r y, mid := regionMid r y, cnt := d.rdc, addr := d.addr.toNat } with
           | none => (true, refuseBox s r y i d .winstate 0)
           | some s => (true, setBox s r y i { b with started := true, dstWin := some key }))
      else (true, setBox s r y i { b with started := true })
    if d.isList && b.list_.isNone then
      match readList s r y d with
      | (.ok s _ _, l) => fill s { b with list_ := some l }
      | (.wait s, _) => (false, s)
      | (.fault s c cause, _) => (true, elemFault s r y i { b with list_ := some [] } c cause d.total)
    else fill s b

/-- The fill stream ends: what is left of its tile takes the fill pattern (R429). -/
def endFill (s : State) (r y i : Nat) (b : Box) : Moved :=
  let key := b.dstWin.getD 0
  let x := s.win key
  let leave (s : State) : Moved :=
    (true, setBox (s.modWin key (fun x =>
      let fs := x.fills.filter (fun f => !myFill r y b.d f)
      { x with fills := fs, prod := if fs.isEmpty then 0xFFFF else x.prod })) r y i { b with ended := true })
  match x.fills.find? (myFill r y b.d) with
  | none => leave s
  | some f =>
    match f.seq with
    | none => leave s
    | some n =>
      let got := ((fget x.tiles n).map (·.got)).getD 0
      if got < tileSize x then
        (true, fillBytes s key n ((List.range (tileSize x - got)).map (fun j => (fillPattern x b.d.esz).getD ((got + j) % b.d.esz) 0)) false)
      else (false, s)

/-- The lead port has a run of data that no mark has closed (R193). -/
def leadRun (s : State) (r y : Nat) (d : Desc) : Bool :=
  (s.region r).lead == (y, d.trk) && fgetD (s.pt r y).run d.trk 0 != 0

/-- Every element has been visited. -/
def endBox (s : State) (r y i : Nat) (b : Box) : Moved :=
  let d := b.d
  if d.dm == 3 then
    if b.group == 0 && d.endl != 0 then
      (true, setBox s r y i { b with group := 1, toks := [{ kind := .mark, lvl := d.endl, tag := d.tagb }] })
    else if onTrack (s.site r (y * 32)) d.trk || leadRun s r y d then (false, s)
    else (true, setBox s r y i { b with ended := true })
  else if d.sm == 2 && d.endl != 0 then
    match portHead s r y d with
    | none => (false, s)
    | some t =>
      if t.kind == .mark && d.endl ≤ t.lvl then
        (if d.dm == 1 || d.dm == 2 then
          (match endFill s r y i b with
           | (m, s) => if ((s.pt r y).chains.getD i {}).box.ended then (true, portPop s r y d) else (m, s))
         else (true, setBox (portPop s r y d) r y i { b with ended := true }))
      else if t.kind == .data then (false, s)
      else if t.kind == .fault then (true, elemFault s r y i b (faultNum t) t.cause 0)
      else (true, portPop s r y d)
  else if d.dm == 1 || d.dm == 2 then endFill s r y i b
  else (true, setBox s r y i { b with ended := true })

/-- One move of chain i of a port tile. A box that a pre-emption has closed stops at the element boundary: an element whose access to another
station is on its way is finished first (R85, step 3). -/
def boxMove (s : State) (r y i : Nat) : Moved :=
  let p := s.pt r y
  let b := (p.chains.getD i {}).box
  if b.ended || (b.closed && !b.asked) || b.fault.isSome || (p.asked && !b.asked) then (false, s)
  else if !b.started then startBox s r y i b
  else if b.d.dm == 4 || b.d.dm == 5 then (false, s)
  else if b.committed && !onTrack (s.site r (y * 32)) b.d.trk && b.toks.isEmpty then
    (true, setBox (sendDelivered s r y b) r y i { b with committed := false, cur := none, copy := {} })
  else
    match b.toks with
    | t :: ts => if onTrack (s.site r (y * 32)) b.d.trk then (false, s) else (true, setBox (pushTok s r y b.d t) r y i { b with toks := ts })
    | [] => if b.committed then (false, s) else if b.pos < b.d.total then nextElem s r y i b else endBox s r y i b

/-- The box asks, or has its answer, from another station: only it may use the port's path meanwhile. -/
def noteAsked (s : State) (r y i : Nat) : State :=
  let p := s.pt r y
  match p.chains[i]? with
  | some c => if c.box.asked == p.asked then s else setBox s r y i { c.box with asked := p.asked }
  | none => s

/-- The first chain of the KIND, among the four that run, that can move does. -/
def moveFirst (s : State) (r y kind : Nat) : Nat → Nat → State
  | 0, _ => s
  | fuel + 1, i =>
    match (s.pt r y).chains[i]? with
    | none => s
    | some c =>
      if c.box.d.kind != kind then moveFirst s r y kind fuel (i + 1)
      else
        match boxMove s r y i with
        | (true, s) => noteAsked s r y i
        | (false, s) => moveFirst (noteAsked s r y i) r y kind fuel (i + 1)

/-- A port tile may act. -/
def portReady (s : State) (r y : Nat) : Bool := (s.region r).gang.isSome && y < 32 && (s.site r (y * 32)).frozen.isNone

/-- A mark or control token that arrives while no receiving box of its track and VC runs is discarded (R429). -/
def discardLoose (s : State) (r y : Nat) : State :=
  let taken (t vc : Nat) : Bool := (s.pt r y).chains.any (fun c => c.box.started && !c.box.ended && takesOn c.box.d t && c.box.d.bovc == vc)
  (List.range 64).foldl (fun s k =>
    let t := k / 32
    let vc := k % 32
    let x := s.site r (y * 32)
    if taken t vc then s
    else
      match fgetD x.bufs (bufKey (2 + t) vc) [] with
      | b :: bs =>
        if b.left.contains 16 && (b.tok.kind == .mark || b.tok.kind == .ctl) then
          let left := b.left.erase 16
          let rest := if left.isEmpty then bs else { b with left := left } :: bs
          putSite s r (y * 32) { x with bufs := if rest.isEmpty then ferase x.bufs (bufKey (2 + t) vc) else fset x.bufs (bufKey (2 + t) vc) rest }
        else s
      | [] => s) s

def boxRow (kind r y : Nat) (s : State) : State := if !portReady s r y then s else moveFirst (discardLoose s r y) r y kind 4 0

def stepBoxCp (r pt : Nat) (s : State) : State := boxRow 1 r pt s
def stepBoxGath (r pt : Nat) (s : State) : State := boxRow 2 r pt s
def stepBoxScat (r pt : Nat) (s : State) : State := boxRow 3 r pt s
def stepBoxGl (r pt : Nat) (s : State) : State := boxRow 4 r pt s

/-- BOX_ELEMENT_FAULT (R433): every earlier element delivered, the port freezes. -/
def stepBoxElementFault (r pt : Nat) (s : State) : State :=
  if !portReady s r pt then s
  else
    match (s.pt r pt).chains.find? (fun c => c.box.fault.isSome) with
    | some c =>
      if !c.box.toks.isEmpty || (c.box.d.dm == 3 && onTrack (s.site r (pt * 32)) c.box.d.trk) then s
      else
        (match c.box.fault with
         | some f => freezeSite s r (pt * 32) f true
         | none => s)
    | none => s

/-- The next descriptor of a chain takes its place, or ends it (R423, R424). -/
def acceptNext (y i : Nat) (s : State) (d : Desc) : State :=
  let r := d.region
  if d.kind == 0 || 4 < d.kind || d.pt != y then rejectDesc (dropBox s r y i) d .desc 0
  else
    match boxRefused s d with
    | some (c, cause) => rejectDesc (dropBox s r y i) d c cause
    | none => setBox s r y i { d := d }

/-- BOX_COMPLETE (R117, R423, R424, R434): a box that has ended sends its completion, and its chain goes on. -/
def stepBoxComplete (r pt : Nat) (s : State) : State :=
  let p := s.pt r pt
  match (List.range p.chains.length).find? (fun i => (p.chains.getD i {}).box.ended) with
  | none => s
  | some i =>
    let b := (p.chains.getD i {}).box
    advance s b.d (min b.count (2 ^ 32 - 1)) id (fun s => dropBox s r pt i) (fun s d => setBox s r pt i { b with d := d })
      (fun s d => acceptNext pt i (addBox s r pt i) d)

end Sys2Proof.Machine
end

