-- ==== Sys2Proof/Machine/Tiles.lean ====
section
/-! DEFINITION. Special function tiles: spawn (R174, R421), commit nodes (R242), matching stores (R243), reservoirs (R249, R250),
transposers (R268, R269). -/

namespace Sys2Proof.Machine

/-- A tile of an opcode that may act. -/
def tileReady (s : State) (r n fop : Nat) : Bool :=
  let x := s.site r n
  (s.region r).gang.isSome && n < 1024 && siteKind n != .fe && x.act.fop == fop && x.frozen.isNone && x.out.isEmpty

def isKind (h : Option Token) (k : TokKind) : Bool := (h.map (fun t => t.kind == k)).getD false
def isMarkOrCtl (h : Option Token) : Bool := isKind h .mark || isKind h .ctl

/-- A tile freezes with the token at one head (R92). -/
def freezeAt (s : State) (r n code q : Nat) : State :=
  let t := (qHead (s.site r n) q).getD {}
  freezeSite s r n
    { code := code, opa := t.v.setWidth 64, tag := t.tag, aux := tokAux (s.region r) code t, poi := t.poi, valid := 1, qs := [q] } false

/- Spawn (R174, R421). -/

/-- The lowest free colour. -/
def freeColour (g : Region) : Option Nat := (List.range 256).find? (fun c => (fget g.colours c).isNone)

/-- SPAWN_CALL: the argument set draws the lowest free colour, or waits while there is none. A mark set passes. -/
def stepSpawnCall (r site : Nat) (s : State) : State :=
  if !tileReady s r site 0xF5 then s
  else
    let x := s.site r site
    let n := nbits (immOf x) 1 0
    match takeOrdered x.act (qHeads x n) with
    | .wait => s
    | .fault c => freezeQs s r site c false (List.range n)
    | .marks ts => putSite s r site (emitEl (popQs x n) ({ (ts.headD {}) with poi := tokPoison ts }))
    | .data ts =>
      let g := s.region r
      match freeColour g, colourField g.layout with
      | some c, some f =>
        let tag := (ts.headD {}).tag
        let y := ts.foldl (fun y t => emitEl y { t with tag := setField g.layout f t.tag c }) (popQs x n)
        putSite (s.setRegion r { g with colours := fset g.colours c tag }) r site y
      | _, _ => s

/-- SPAWN_RETURN: a spawn return at q3 gives its value back under the caller's tag; its colour is free in the cycle that the token leaves. -/
def stepSpawnReturn (r site : Nat) (s : State) : State :=
  if !tileReady s r site 0xF5 then s
  else
    let x := s.site r site
    match qHead x 3 with
    | none => s
    | some t =>
      let g := s.region r
      if t.kind == .fault then freezeAt s r site (faultNum t) 3
      else if t.kind != .ctl || t.lvl != 4 then freezeAt s r site FCode.markskew.num 3
      else
        let c := match colourField g.layout with
          | some f => getField g.layout f t.tag
          | none => 256
        match fget g.colours c with
        | none => freezeAt s r site FCode.tagskew.num 3
        | some tag =>
          let y := emitSec (popQ x 3) { kind := .data, v := t.v, tag := tag, poi := t.poi }
          if y.out.isEmpty then putSite (s.setRegion r (freeColours g [c])) r site y
          else putSite s r site { y with out := y.out.map (fun e => { e with colour := some c }) }

/- Commit nodes (R242). -/

/-- Retire in order while RET is done: the tokens emitted, the values still done, RET. `fuel` bounds it by the values done. -/
def retire (l : List TagField) (f w : Nat) (tag : W64) (poi : Bool) : Nat → List Nat → Nat → List Token × List Nat × Nat
  | 0, done, ret => ([], done, ret)
  | fuel + 1, done, ret =>
    if done.contains ret then
      let (ts, d, e) := retire l f w tag poi fuel (done.erase ret) ((ret + 1) % 2 ^ w)
      ({ kind := .data, v := BitVec.ofNat 32 ret, tag := setField l f tag ret, poi := poi } :: ts, d, e)
    else ([], done, ret)

/-- COMMIT_RETIRE. -/
def stepCommitRetire (r site : Nat) (s : State) : State :=
  if !tileReady s r site 0xF3 then s
  else
    let x := s.site r site
    match takeOrdered x.act (qHeads x 1) with
    | .wait => s
    | .fault c => freezeHeads s r site c false
    | .marks ts => consumeMarks s r site 1 ts
    | .data ts =>
      let g := s.region r
      let t := ts.headD {}
      let f := extBits x.act 2 0
      let w := fieldWidth g.layout f
      let (iss, ret) := fgetD g.allocs f (0, 0)
      let v := getField g.layout f t.tag
      let ahead := (v + 2 ^ w - ret) % 2 ^ w
      let done := fgetD g.cmt f []
      if (iss + 2 ^ w - ret) % 2 ^ w ≤ ahead then freezeHeads s r site FCode.tagskew.num false
      else if 256 ≤ ahead then s
      else if done.contains v then freezeHeads s r site FCode.tagdup.num false
      else
        let (out, d, e) := retire g.layout f w t.tag t.poi (done.length + 1) (done ++ [v]) ret
        let y := out.foldl emitEl { popQ x 0 with cnt := x.cnt + 1 }
        putSite (s.setRegion r { g with allocs := fset g.allocs f (iss, e), cmt := fset g.cmt f d }) r site y

/- Matching stores (R243). -/

/-- MST_ORDERED_RELEASE: a complete entry issues, in completion order, or under ordered release the first one whose field equals
NXT. -/
def stepMstOrderedRelease (r site : Nat) (s : State) : State :=
  if !tileReady s r site 0xF7 then s
  else
    let x := s.site r site
    let l := (s.region r).layout
    let ord := nbit (extBits x.act 0 0) 0
    let f := extBits x.act 3 1
    let nxt := fgetD x.regs 0 0
    match x.issue.find? (fun e => !ord || getField l f e.tag == nxt) with
    | none => s
    | some e =>
      let y := { x with issue := x.issue.erase e, cnt := x.cnt + 1, regs := if ord then fset x.regs 0 (nxt + 1) else x.regs }
      putSite s r site ((e.slots.filterMap id).foldl (fun y t => emitEl y { t with tag := e.tag }) y)

/- Reservoirs (R249, R250). -/

/-- The draw of R250: 24 bits, as u = bits × 2^−24. `c` is the 64-bit number that stands for the candidate. -/
def drawBits (seed tag c : W64) : Nat :=
  let x := seed ^^^ (tag * 0xA3B195C24D7E6F19) ^^^ (c * 0x8F2C41D7B3A95E67)
  let x := (x ^^^ (x >>> 31)) * 0xC5A308E1F4B297D5
  let x := (x ^^^ (x >>> 29)) * 0xE7F13A6D2C58B94B
  let x := x ^^^ (x >>> 32)
  nbits x.toNat 63 40

/-- u × mass < w, exactly. -/
def drawWins (seed tag c : W64) (mass w : Nat) : Bool :=
  Exact.lt (Exact.mul (.num false (drawBits seed tag c) (-24)) (decF32 mass)) (decF32 w)

/-- A usable weight: a number above zero, not infinite. -/
def usable (w : Nat) : Bool :=
  match decF32 w with
  | .num false m _ => m != 0
  | _ => false

def rsvCand (x : Site) : Nat := fgetD x.regs 0 0xFFFFFFFF
def rsvMass (x : Site) : Nat := fgetD x.regs 1 0

/-- The number of an RSV within its region. -/
def rsvIndex (site : Nat) : Nat := site / 32 - 12

/-- A collective fault token at a head of an RSV with PARK goes to the park output as its contributor bitmap (R251). -/
def rsvPark (s : State) (r site : Nat) : Option State :=
  let x := s.site r site
  if !nbit (extBits x.act 131 131) 0 then none
  else
    ([0, 1].find? (fun q => (qHead x q).any (fun t => t.kind == .fault && faultNum t == FCode.colltmo.num))).map (fun q =>
      let t := (qHead x q).getD {}
      let bm := fgetD (s.region r).collMaps t.tag.toNat 0
      putSite s r site (emitSec (popQ x q) { kind := .data, v := BitVec.ofNat 32 bm, tag := t.tag }))

/-- RSV_PAIR: one weight and its id, or a collective fault token. -/
def stepRsvPair (r site : Nat) (s : State) : State :=
  if !tileReady s r site 0xF4 then s
  else
    match rsvPark s r site with
    | some s => s
    | none =>
      let x := s.site r site
      match takeOrdered x.act (qHeads x 2) with
      | .wait => s
      | .fault c => freezeHeads s r site c false
      | .marks _ => s
      | .data ts =>
        let w := (ts.headD {}).v.toNat
        let id := (ts.getD 1 {}).v
        let y := { popQs x 2 with accPoi := x.accPoi || tokPoison ts, cnt := x.cnt + 1 }
        if !usable w then
          let k := rsvIndex site
          putSite (s.modRegion r (fun g => { g with skips := fset g.skips k (min (2 ^ 32 - 1) (fgetD g.skips k 0 + 1)) })) r site y
        else
          let seed := BitVec.ofNat 64 (extBits x.act 63 0)
          let tag := (ts.headD {}).tag &&& BitVec.ofNat 64 (extBits x.act 127 64)
          let mass := f32Add (rsvMass x) w
          let cand := if drawWins seed tag (id.setWidth 64) mass w then id.toNat else rsvCand x
          putSite s r site { y with regs := fset (fset y.regs 0 cand) 1 mass }

/-- RSV_MARK: at a mark of its level or above it emits cand, then mass, passes the mark, and starts a new row. -/
def stepRsvMark (r site : Nat) (s : State) : State :=
  if !tileReady s r site 0xF4 || (rsvPark s r site).isSome then s
  else
    let x := s.site r site
    match takeOrdered x.act (qHeads x 2) with
    | .marks ts =>
      let t := ts.headD {}
      let y := popQs x 2
      if t.kind == .mark && extBits x.act 130 128 ≤ t.lvl then
        let y := emitEl y { kind := .data, v := BitVec.ofNat 32 (rsvCand x), tag := t.tag, poi := x.accPoi }
        let y := emitEl y { kind := .data, v := BitVec.ofNat 32 (rsvMass x), tag := t.tag, poi := x.accPoi }
        let y := emitEl y { t with poi := tokPoison ts }
        putSite s r site { y with regs := [], accPoi := false }
      else putSite s r site (emitEl y { t with poi := tokPoison ts })
    | _ => s

/- Transposers (R268, R269). -/

def xpsNb (x : Site) : Nat := extBits x.act 6 1

/-- Word w of plane b over the lanes held; missing lanes are 0. -/
def planeWord (lanes : List Token) (b w : Nat) : Nat :=
  joinLanes 1 ((List.range 32).map (fun i => if nbit ((lanes.getD (32 * w + i) {}).v.toNat) b then 1 else 0))

/-- The planes of a group, four tokens each. -/
def t2pTokens (nb : Nat) (lanes : List Token) : List Token :=
  (List.range nb).flatMap (fun b => (List.range 4).map (fun w =>
    { kind := .data, v := BitVec.ofNat 32 (planeWord lanes b w), tag := (lanes.headD {}).tag, poi := tokPoison lanes }))

/-- Lane n of the planes. -/
def laneOf (nb : Nat) (planes : List Token) (sgn : Bool) (n : Nat) : W32 :=
  let v := joinLanes 1 ((List.range nb).map (fun b => if nbit ((planes.getD (4 * b + n / 32) {}).v.toNat) (n % 32) then 1 else 0))
  BitVec.ofNat 32 (if sgn then wrapNat (sextInt v nb) 32 else v)

def p2tTokens (nb ln : Nat) (sgn : Bool) (planes : List Token) : List Token :=
  (List.range ln).map (fun n =>
    { kind := .data, v := laneOf nb planes sgn n, tag := (planes.headD {}).tag, poi := tokPoison planes })

/-- XPS_T2P: one token is collected, a full or closed group is emitted, a mark or control token passes. -/
def stepXpsT2p (r site : Nat) (s : State) : State :=
  let x := s.site r site
  if !tileReady s r site 0xF6 || nbit (extBits x.act 0 0) 0 then s
  else
    let h := qHead x 0
    if x.coll.length == 128 || (!x.coll.isEmpty && isMarkOrCtl h) then
      putSite s r site ((t2pTokens (xpsNb x) x.coll).foldl emitEl { x with coll := [] })
    else
      match h with
      | none => s
      | some t =>
        if t.kind == .fault then freezeHeads s r site (faultNum t) false
        else if t.kind == .data then putSite s r site { popQ x 0 with coll := x.coll ++ [t] }
        else putSite s r site (emitEl (popQ x 0) t)

/-- XPS_P2T. -/
def stepXpsP2t (r site : Nat) (s : State) : State :=
  let x := s.site r site
  if !tileReady s r site 0xF6 || !nbit (extBits x.act 0 0) 0 then s
  else if x.coll.length == 4 * xpsNb x then
    putSite s r site ((p2tTokens (xpsNb x) (extBits x.act 15 8) (nbit (extBits x.act 7 7) 0) x.coll).foldl emitEl { x with coll := [] })
  else
    match qHead x 0 with
    | none => s
    | some t =>
      if t.kind == .fault then freezeHeads s r site (faultNum t) false
      else if t.kind == .data then putSite s r site { popQ x 0 with coll := x.coll ++ [t] }
      else if !x.coll.isEmpty then freezeHeads s r site FCode.markskew.num false
      else putSite s r site (emitEl (popQ x 0) t)

end Sys2Proof.Machine
end

