-- ==== Sys2Proof/Machine/Nodes.lean ====
section
/-! DEFINITION. Memory nodes: fills, REPEAT panels and their counts (R113, R222 to R224), and kiosk tasks: arming and starting
(R219 to R221, R438). -/

namespace Sys2Proof.Machine

/-- A memory node that may act. -/
def nodeReady (s : State) (r n : Nat) : Bool :=
  (s.region r).gang.isSome && n < 128 && (nodeRec s r n).fop == 0xF1 && (s.site r (nodeSite n)).frozen.isNone

/-- Bytes of the data tokens that a REPEAT buffer holds. -/
def panelBytes (b : NodeBuf) : Nat := 4 * (b.toks.filter (fun t => t.kind == .data)).length

/-- A REPEAT buffer holds a whole panel. -/
def panelFull (s : State) (r n i : Nat) : Bool :=
  0 < nodeSize s r n i && panelBytes ((s.node r n).buf i) == nodeSize s r n i

/-- The panel of buffer i is there, with the marks that have come behind it (R224): where the node emits its panels, the marks that head q0 are
stored first. -/
def panelWhole (s : State) (r n i : Nat) : Bool :=
  panelFull s r n i && (!nodeOut s r n || (qHead (s.site r (nodeSite n)) 0).map (·.kind) != some .mark)

/-- A REPEAT panel is gone, by an emission or not: its buffer is empty, and the other one takes its role (R224). -/
def dropPanel (x : MemNode) (emitted : Bool) : MemNode := { x with bufs := fset x.bufs x.rep {}, rep := 1 - x.rep, late := some emitted }

/-- The whole panel of a buffer has been delivered once: its count falls (R113, R224). -/
def bufferDelivered (s : State) (r n i : Nat) : State :=
  let x := s.node r n
  let b := x.buf i
  if b.count ≤ 1 then s.setNode r n (if nodeRepeat s r n then dropPanel x (nodeOut s r n) else { x with bufs := fset x.bufs i {} })
  else s.setNode r n { x with bufs := fset x.bufs i { b with count := b.count - 1 } }

/-- The bytes of one data token are written into the buffer that fills: the low byte of V first (R4). -/
def nodeStore (s : State) (r n : Nat) (t : Token) : State :=
  let x := s.node r n
  s.storeMem (scrAddr r (nodeStart s r n x.wr + x.got)) (leBytes t.v.toNat 4) t.poi

/-- A data token reaches a NORMAL node's buffer; the last one sets the count and the fill tag, and the next buffer follows. -/
def nodeFill (s : State) (r n : Nat) (t : Token) : State :=
  let x := s.node r n
  let s := nodeStore s r n t
  let tag := if x.got == 0 then some t.tag else x.tag
  if x.got + 4 < nodeSize s r n x.wr then s.setNode r n { x with got := x.got + 4, tag := tag }
  else
    noteReady (s.setNode r n { x with
      got := 0, tag := none, wr := (x.wr + 1) % nodeNbuf s r n
      bufs := fset x.bufs x.wr { count := nodeWcnt s r n, tag := tag } }) r

/-- A data token reaches a REPEAT node's buffer. -/
def repeatFill (s : State) (r n : Nat) (t : Token) : State :=
  let x := s.node r n
  let s := nodeStore s r n t
  let b := x.buf x.wr
  let b := { b with toks := b.toks ++ [t], tag := if x.got == 0 then some t.tag else b.tag }
  let done := nodeSize s r n x.wr ≤ x.got + 4
  s.setNode r n { x with
    bufs := fset x.bufs x.wr b, got := if done then 0 else x.got + 4, wr := if done then 1 - x.wr else x.wr, late := none }

/-- A mark that comes behind a panel which has left already, if one has: whether the panel left by an emission. -/
def lateMark (s : State) (r n : Nat) : Option Bool :=
  let x := s.node r n
  if x.got == 0 && !panelFull s r n (1 - x.wr) then x.late else none

/-- A mark of a REPEAT stream: behind a whole panel it joins that panel, within one it joins the one being stored. DESIGN CHOICE, log 45: one that
comes when its panel has left follows the last emission, or is gone with a panel that was dropped or that engines read. -/
def repeatMark (s : State) (r n : Nat) (t : Token) : State :=
  match lateMark s r n with
  | some true => putSite s r (nodeSite n) (emitEl (s.site r (nodeSite n)) t)
  | some false => s
  | none =>
    let x := s.node r n
    let i := if x.got == 0 && panelFull s r n (1 - x.wr) then 1 - x.wr else x.wr
    let b := x.buf i
    s.setNode r n { x with bufs := fset x.bufs i { b with toks := b.toks ++ [t] } }

/-- Consume the head of q0 of a node. -/
def nodePop (s : State) (r n : Nat) : State := putSite s r (nodeSite n) (popQ (s.site r (nodeSite n)) 0)

/-- BUFFER_WRITE (R113, R222, R224). -/
def stepBufferWrite (r node : Nat) (s : State) : State :=
  if !nodeReady s r node then s
  else
    let x := s.node r node
    let i := nodeSite node
    match qHead (s.site r i) 0 with
    | none => s
    | some t =>
      if t.kind == .fault then freezeAt s r i (faultNum t) 0
      else if nodeRepeat s r node then
        (if t.kind != .data then
          (if lateMark s r node == some true && !(s.site r i).out.isEmpty then s else nodePop (repeatMark s r node t) r node)
         else if panelFull s r node x.wr then s
         else nodePop (repeatFill s r node t) r node)
      else if t.kind != .data then nodePop s r node
      else if 0 < (x.buf x.wr).count then s
      else nodePop (nodeFill s r node t) r node

/-- REPEAT_COUNT_TOKEN (R224): a count goes to the panel whose turn it is, and waits for it; a node with OUT emits its panel once
a step. -/
def stepRepeatCountToken (r node : Nat) (s : State) : State :=
  if !nodeReady s r node || !nodeRepeat s r node then s
  else
    let x := s.node r node
    let i := nodeSite node
    let site := s.site r i
    let b := x.buf x.rep
    if 0 < b.count then
      (if !nodeOut s r node || !site.out.isEmpty then s
       else bufferDelivered (putSite s r i (b.toks.foldl emitEl site)) r node x.rep)
    else
      match qHead site 1 with
      | none => s
      | some t =>
        if t.kind == .fault then freezeAt s r i (faultNum t) 1
        else if t.kind != .data then putSite s r i (popQ site 1)
        else if t.poi then freezeAt s r i FCode.poison.num 1
        else if !panelWhole s r node x.rep then s
        else
          let s := putSite s r i (popQ site 1)
          if t.v == 0 then s.setNode r node (dropPanel x false)
          else noteReady (s.setNode r node { x with bufs := fset x.bufs x.rep { b with count := t.v.toNat } }) r

/- Tasks. -/

def State.kiosk (s : State) (r k : Nat) : Kiosk := fgetD (s.region r).kiosks k {}
def State.setKiosk (s : State) (r k : Nat) (x : Kiosk) : State := s.modRegion r (fun g => { g with kiosks := fset g.kiosks k x })

/-- Fields of task.arm (R438). -/
def Desc.ki (d : Desc) : Nat := nbits (d.word 3) 3 0
def Desc.nin (d : Desc) : Nat := nbits (d.word 3) 7 4
def Desc.inputs (d : Desc) : List (Bool × W64) :=
  (List.range d.nin).map (fun n => (nbit (d.word 3) (8 + n), d.words.getD (6 + n) 0))

/-- What the word of an input alone is refused for: bits of a buffer that are to be zero (R438), reserved bits of a tile reference (R425). -/
def inputWord (i : Bool × W64) : Option FCode :=
  if i.1 then (if nbit i.2.toNat 7 || nbits i.2.toNat 63 12 != 0 then some .desc else none)
  else if nbits i.2.toNat 23 14 != 0 then some .rsvd
  else none

/-- One input of task.arm is refused. -/
def inputBad (s : State) (r : Nat) (i : Bool × W64) : Option FCode :=
  match inputWord i with
  | some c => some c
  | none =>
    if i.1 then (if nodeNbuf s r (nbits i.2.toNat 6 0) ≤ nbits i.2.toNat 11 8 then some .desc else none)
    else if (s.win (nbits i.2.toNat 13 0)).st != .opened then some .winstate
    else none

/-- The refusal of a task.arm for kiosk k, if any (R219, R438). -/
def armBad (s : State) (r k : Nat) (d : Desc) : Option FCode :=
  let x := s.kiosk r k
  if nbits (d.word 3) 63 16 != 0 || d.used 14 then some .rsvd
  else if d.ki != k || 8 < d.ki || d.nin == 0 || 8 < d.nin || d.word 5 % 16 != 0 || d.used (6 + d.nin) then some .desc
  else
    match d.inputs.findSome? (inputBad s r) with
    | some c => some c
    | none =>
      if x.slots.any (fun t => t.2.tt == d.words.getD 4 0) then some .tagdup
      else if 16 ≤ x.slots.length then some .desc
      else none

/-- A task.arm goes to its kiosk. -/
def acceptArm (s : State) (d : Desc) : Option State :=
  if 8 < d.ki then some (rejectDesc s d .desc 0)
  else
    let x := s.kiosk d.region d.ki
    if 16 ≤ x.q.length then none else some (s.setKiosk d.region d.ki { x with q := x.q ++ [d] })

/-- A chain of task.arm goes on at the same kiosk. -/
def chainArm (k : Nat) (s : State) (d : Desc) : State :=
  if d.kind != 0x12 || d.ki != k then rejectDesc s d .desc 0
  else
    let x := s.kiosk d.region k
    s.setKiosk d.region k { x with q := d :: x.q }

/-- TASK_ARM (R219, R438): the lowest free slot is armed. -/
def stepTaskArm (r kiosk : Nat) (s : State) : State :=
  let x := s.kiosk r kiosk
  match x.q with
  | [] => s
  | d :: q =>
    let away (s : State) : State := s.setKiosk r kiosk { s.kiosk r kiosk with q := q }
    if d.told then nextDesc s d away (chainArm kiosk)
    else
    match armBad s r kiosk d with
    | some c => rejectDesc (s.setKiosk r kiosk { x with q := q }) d c 0
    | none =>
      match (List.range 16).find? (fun n => (fget x.slots n).isNone) with
      | none => s
      | some n =>
        let t : Task := { tt := d.words.getD 4 0, h := d.words.getD 5 0, inputs := d.inputs }
        advance s d n (fun s => noteReady (s.setKiosk r kiosk { x with slots := fset x.slots n t }) r) away
          (fun s d => s.setKiosk r kiosk { s.kiosk r kiosk with q := d :: q }) (chainArm kiosk)

/-- The slot that starts next: ready and resident, the oldest, the lowest (R220, R114). -/
def pickTask (s : State) (r : Nat) (x : Kiosk) : Option (Nat × Task) :=
  (x.slots.filterMap (fun t => t.2.ready.bind (fun c => if taskResident s r t.2 then some (c, t) else none))).foldl
    (fun best c => match best with
      | none => some c.2
      | some b => if c.1 < (b.2.ready.getD 0) then some c.2 else some b) none

/-- A fault of core k waits for its record or is being handled (R94, R367). -/
def coreHeld (s : State) (k : Nat) : Bool :=
  let g := s.region (k / 10)
  let mine (x : FaultSrc) : Bool := x == .core k || x == .post k
  k < 640 && (g.faults.any (fun f => mine f.src) || ((g.trap.map (fun t => mine t.src)).getD false))

/-- TASK_READY_START (R114, R220, R221): an idle kiosk starts the oldest ready task. -/
def stepTaskReadyStart (r kiosk : Nat) (s : State) : State :=
  let x := s.kiosk r kiosk
  let k := r * 10 + 1 + kiosk
  if (s.region r).gang.isNone || 8 < kiosk || x.run.isSome || (s.core k).phase != .idle || !(s.core k).outq.isEmpty || coreHeld s k then s
  else
    match pickTask s r x with
    | none => s
    | some (n, t) =>
      (s.setKiosk r kiosk { x with run := some (n, s.cyc) }).modCore k (fun c => { c with phase := .start t.h })

end Sys2Proof.Machine
end

