-- ==== Sys2Proof/Machine/Engines.lean ====
section
/-! DEFINITION. Matrix engines: me.op and me.rd (R213 to R218, R225, R226, R436, R437), the expert-dispatch packets of route and row
boxes (R89, R229 to R231), and completed rows (R234). -/

namespace Sys2Proof.Machine

def State.eng (s : State) (r j : Nat) : Engine := fgetD (s.region r).engs j {}
def State.setEng (s : State) (r j : Nat) (x : Engine) : State := s.modRegion r (fun g => { g with engs := fset g.engs j x })
def State.modEng (s : State) (r j : Nat) (f : Engine → Engine) : State := s.setEng r j (f (s.eng r j))
def Engine.bank (e : Engine) (b : Nat) : Bank := if b == 0 then e.bank0 else e.bank1
def Engine.setBank (e : Engine) (b : Nat) (x : Bank) : Engine := if b == 0 then { e with bank0 := x } else { e with bank1 := x }
def Engine.run (e : Engine) (b : Nat) : Option MeRun := if b == 0 then e.run0 else e.run1
def Engine.setRun (e : Engine) (b : Nat) (x : Option MeRun) : Engine := if b == 0 then { e with run0 := x } else { e with run1 := x }

/- Formats (R213). -/

/-- K: slices of a panel. -/
def fmtK (f : Nat) : Nat := if f ≤ 1 then 64 else if f == 2 then 32 else 16
/-- Bytes of an element. -/
def fmtSize (f : Nat) : Nat := if f ≤ 1 then 1 else if f == 2 then 2 else 4
/-- The exact value of a floating operand; T8 under channel scale 0 (R214). -/
def opVal8 (f x : Nat) : Exact := if f == 0 then decT8 0 x else if f == 2 then decBf16 x else decF32 x

/-- One update of a cell: acc + a × b × 2^scale, rounded once, or wrapped (R214, R215). -/
def macCell (f : Nat) (scale : Int) (acc a b : Nat) : Nat :=
  if f == 1 then wrapNat (sextInt acc 32 + sextInt a 8 * sextInt b 8) 32
  else rneF32 (Exact.add (decF32 acc) (Exact.scale (Exact.mul (opVal8 f a) (opVal8 f b)) scale))

/-- The exact sum of an .i8 update lies outside INT32. -/
def macOvf (acc a b : Nat) : Bool :=
  let v := sextInt acc 32 + sextInt a 8 * sextInt b 8
  v < -2147483648 || 2147483647 < v

def isNan32 (x : Nat) : Bool := (decF32 x).isNan
def isInf32 (x : Nat) : Bool := x % 2 ^ 31 == 0x7F800000

/-- The updates of one cell over slices: the value and whether it overflowed, gave a NaN, gave an infinity. -/
def macFold (f : Nat) (scale : Int) (acc : Nat) : List (Nat × Nat) → Nat × Bool × Bool × Bool
  | [] => (acc, false, false, false)
  | (a, b) :: l =>
    let v := macCell f scale acc a b
    let (x, o, n, i) := macFold f scale v l
    (x, o || (f == 1 && macOvf acc a b), n || (f != 1 && isNan32 v), i || (f != 1 && isInf32 v))

/-- Element [i][k] of an A panel and [k][j] of a B panel (R213). -/
def panelA (f : Nat) (bs : List Byte) (i k : Nat) : Nat := leNat ((bs.drop ((i * fmtK f + k) * fmtSize f)).take (fmtSize f))
def panelB (f : Nat) (bs : List Byte) (k j : Nat) : Nat := leNat ((bs.drop ((k * 64 + j) * fmtSize f)).take (fmtSize f))

/-- The new cell (i, j), with its flags. -/
def macOne (f : Nat) (scale : Int) (x : Bank) (a b : List Byte) (lo hi c : Nat) : Nat × Bool × Bool × Bool :=
  macFold f scale (fgetD x.cells c 0)
    ((List.range (hi - lo)).map (fun n => (panelA f a (c / 64) (lo + n), panelB f b (lo + n) (c % 64))))

/-- Slices lo to hi − 1 of a panel pair are added to a bank. -/
def macPanel (f : Nat) (scale : Int) (x : Bank) (a b : List Byte) (lo hi : Nat) : Bank :=
  let rs := (List.range 4096).map (fun c => (c, macOne f scale x a b lo hi c))
  { x with
    cells := rs.filterMap (fun p => if p.2.1 == 0 then none else some (p.1, p.2.1))
    ovf := x.ovf || rs.any (fun p => p.2.2.1)
    nv := x.nv || rs.any (fun p => p.2.2.2.1)
    inf := x.inf || rs.any (fun p => p.2.2.2.2) }

/-- A cell converted under an output entry, in lane 0 (R216, R272). -/
def cellV (x : Bank) (e : VcEntry) (c : Nat) : W32 :=
  let v := fgetD x.cells c 0
  BitVec.ofNat 32 (encLane e (if x.int_ then exactOfInt (sextInt v 32) else decF32 v))

/-- An entry of a VC table that R168 refuses by itself. -/
def vceBad (w : W16) : Bool :=
  let f := nbits w.toNat 3 0
  8 < f || (nbits w.toNat 11 4 != 0 && f != 4 && f != 5 && f != 6) || nbits w.toNat 15 14 != 0

/- Fields of me.op and me.rd (R436, R437). -/

def Desc.meIdx (d : Desc) : Nat := nbits (d.word 3) 2 0
def Desc.bank (d : Desc) : Nat := nbits (d.word 3) 3 3
def Desc.mfmt (d : Desc) : Nat := nbits (d.word 3) 6 4
def Desc.clr (d : Desc) : Bool := nbit (d.word 3) 7
def Desc.np (d : Desc) : Nat := nbits (d.word 3) 31 16
def Desc.kb (d : Desc) : Nat := nbits (d.word 3) 47 32
def Desc.ks (d : Desc) : Nat := nbits (d.word 3) 53 48
def Desc.scale (d : Desc) : Int := sextInt (nbits (d.word 4) 7 0) 8 + sextInt (nbits (d.word 4) 15 8) 8
def Desc.an (d : Desc) : Nat := nbits (d.word 4) 22 16
def Desc.ab (d : Desc) : Nat := nbits (d.word 4) 27 24
def Desc.bn (d : Desc) : Nat := nbits (d.word 4) 38 32
def Desc.bb (d : Desc) : Nat := nbits (d.word 4) 43 40
def Desc.row0 (d : Desc) : Nat := nbits (d.word 3) 9 4
def Desc.nrow (d : Desc) : Nat := nbits (d.word 3) 16 10
def Desc.att (d : Desc) : Nat := nbits (d.word 3) 18 17
def Desc.mtrk (d : Desc) : Nat := nbits (d.word 3) 19 19
def Desc.mvc (d : Desc) : Nat := nbits (d.word 3) 24 20
def Desc.rdL0 (d : Desc) : Nat := nbits (d.word 3) 27 25
def Desc.rdEnd (d : Desc) : Nat := nbits (d.word 3) 30 28
def Desc.ove (d : Desc) : W16 := BitVec.ofNat 16 (nbits (d.word 3) 47 32)

/-- Some bit outside the fields is set. -/
def meReserved (d : Desc) : Bool :=
  if d.kind == 0x10 then
    nbits (d.word 3) 15 8 != 0 || nbits (d.word 3) 63 54 != 0 || nbits (d.word 4) 23 23 != 0 || nbits (d.word 4) 31 28 != 0 ||
      nbits (d.word 4) 39 39 != 0 || nbits (d.word 4) 63 44 != 0 || d.used 5
  else nbits (d.word 3) 31 31 != 0 || nbits (d.word 3) 63 48 != 0 || d.used 5

/-- A panel buffer of an operation is no buffer, or smaller than 4 KiB. -/
def panelBad (s : State) (r n b np : Nat) : Bool :=
  nodeNbuf s r n ≤ b ||
    (if nodeRepeat s r n then nodeSize s r n 0 < 4096
     else (List.range (min np (nodeNbuf s r n))).any (fun p => nodeSize s r n ((b + p) % nodeNbuf s r n) < 4096))

/-- What an engine command is refused for at issue, from its words and the nodes' records. -/
def meBad (s : State) (j : Nat) (d : Desc) : Option FCode :=
  let r := d.region
  let k := fmtK d.mfmt
  if (d.kind != 0x10 && d.kind != 0x11) || d.meIdx != j then some .desc
  else if meReserved d then some .rsvd
  else if d.kind == 0x10 then
    (if 3 < d.mfmt || d.np == 0 || 65536 < d.kb + d.np * k || k ≤ d.ks || (d.mfmt == 1 && nbits (d.word 4) 15 0 != 0) ||
        panelBad s r d.an d.ab d.np || panelBad s r d.bn d.bb d.np then some .desc else none)
  else if d.nrow == 0 || 64 < d.row0 + d.nrow || vceBad d.ove then some .desc
  else none

/-- What an engine command is refused for by the bank it finds (R216, R226, R227). -/
def bankBad (e : Engine) (d : Desc) : Bool :=
  let x := e.bank d.bank
  e.routed ||
    (d.kind == 0x10 && !d.clr &&
      (x.broken || x.int_ != (d.mfmt == 1) || (x.frz && d.kb + d.ks != e.ksl)))

/-- The bank that an operation issued now will find, if nothing stops the operations queued ahead of it: the last of them with CLR gives it
its type and takes its freezing away (R216, R217). -/
def bankAhead (e : Engine) (b : Nat) : Bank :=
  match (e.q.filter (fun x => x.2.kind == 0x10 && x.2.bank == b && x.2.clr)).getLast? with
  | some x => { int_ := x.2.mfmt == 1 }
  | none => e.bank b

/-- What an engine command is refused for at issue by its bank (R216, R226). DEDUCED, log 45: operations queued ahead are taken as performed;
one that is stopped after all leaves the check of `bankBad` to the turn of the command. -/
def issueBad (e : Engine) (d : Desc) : Bool := bankBad (e.setBank d.bank (bankAhead e d.bank)) d

/-- A command enters the engine's queue with the number of its chain; the chain's NEXT is read when the queue has room (R423). An operation
accepted clears FRZ of its bank (R226). -/
def pushMe (s : State) (j : Nat) (n : Nat) (d : Desc) : State :=
  s.modEng d.region j (fun e =>
    let e := if d.kind == 0x10 then e.setBank d.bank { e.bank d.bank with frz := false } else e
    { e with q := e.q ++ [(n, d)], nexts := if d.next == 0 then e.nexts else e.nexts ++ [(n, d.next, d.by_)] })

/-- A new engine command (R422). -/
def acceptMe (s : State) (d : Desc) : Option State :=
  let j := d.meIdx
  match meBad s j d with
  | some c => some (rejectDesc s d c 0)
  | none =>
    let e := s.eng d.region j
    if 4 ≤ e.q.length then none
    else if issueBad e d then some (rejectDesc s d .desc 0)
    else some (pushMe (s.setEng d.region j { e with chains := e.chains + 1 }) j e.chains d)

/-- The next descriptor of a chain is read as soon as the queue has room. -/
def meRefill (s : State) (r j : Nat) : State :=
  let e := s.eng r j
  match e.nexts with
  | [] => s
  | (n, a, by_) :: rest =>
    if 4 ≤ e.q.length then s
    else
      match readDesc s a by_ with
      | .wait s => s
      | .refuse s c => refuseDesc (s.modEng r j (fun e => { e with nexts := rest })) { addr := a, by_ := by_ } c 0
      | .fault s code cause =>
        (s.modEng r j (fun e => { e with nexts := rest })).send
          (.fault by_.core (postRecord by_.core code cause by_.idx a by_.baddr 0) none)
      | .ok s d =>
        let s := countCmd (s.modEng r j (fun e => { e with nexts := rest })) d
        match meBad s j d with
        | some c => rejectDesc s d c 0
        | none => if issueBad (s.eng r j) d then rejectDesc s d .desc 0 else pushMe s j n d

/-- The first queued command whose bank is at rest, and what stays queued (R217). -/
def pickMe (e : Engine) : List (Nat × Desc) → List Nat → Option ((Nat × Desc) × List (Nat × Desc))
  | [], _ => none
  | c :: l, busy =>
    if (e.run c.2.bank).isSome || busy.contains c.2.bank then
      (match pickMe e l (c.2.bank :: busy) with
       | some (x, rest) => some (x, c :: rest)
       | none => none)
    else some (c, l)

/-- A command refused as its turn comes ends its chain (R424): what follows of it is gone. -/
def rejectMe (s : State) (r j : Nat) (n : Nat) (d : Desc) (c : FCode) : State :=
  let e := s.eng r j
  let gone := e.q.filter (fun x => x.1 == n)
  let s := s.setEng r j { e with q := e.q.filter (fun x => x.1 != n), nexts := e.nexts.filter (fun x => x.1 != n) }
  rejectDesc (gone.foldl (fun s x => commandEnded s x.2) s) d c 0

/-- The tokens of a readout (R437): data, the mark of each row, the mark at the end. -/
def rdTokens (x : Bank) (d : Desc) : List Token :=
  let mark (l : Nat) : List Token := if l == 0 then [] else [{ kind := .mark, lvl := l, tag := d.words.getD 4 0, vc := d.mvc }]
  (List.range d.nrow).flatMap (fun i =>
    (List.range 64).map (fun j =>
      ({ v := cellV x (vcEntryOf d.ove) ((d.row0 + i) * 64 + j), tag := d.words.getD 4 0, vc := d.mvc } : Token)) ++ mark d.rdL0) ++ mark d.rdEnd

/-- Start a command of a KIND, if it is the one whose turn has come. -/
def startMe (s : State) (r j kind : Nat) : State :=
  let s := meRefill s r j
  let e := s.eng r j
  if e.frozen.isSome then s
  else
    match pickMe e e.q [] with
    | none => s
    | some ((n, d), rest) =>
      if d.kind != kind then s
      else if bankBad e d then rejectMe (s.setEng r j { e with q := rest }) r j n d .desc
      else if kind == 0x10 then
        let x := if d.clr then { int_ := d.mfmt == 1 } else { e.bank d.bank with frz := false }
        s.setEng r j (({ e with q := rest }.setBank d.bank x).setRun d.bank (some { d := d }))
      else s.setEng r j ({ e with q := rest }.setRun d.bank (some { d := d, toks := rdTokens (e.bank d.bank) d }))

/-- ME_OP (R436): the operation whose turn has come takes its bank. -/
def stepMeOp (r j : Nat) (s : State) : State := if (s.region r).gang.isNone || 8 ≤ j then s else startMe s r j 0x10

/-- Slice k of a panel pair fails: an operand word is poisoned (R225). -/
def sliceBad (s : State) (r f : Nat) (aa ba k : Nat) : Bool :=
  (List.range 64).any (fun i => poisonRead s.poison (scrAddr r (aa + (i * fmtK f + k) * fmtSize f)) (fmtSize f)) ||
    poisonRead s.poison (scrAddr r (ba + k * 64 * fmtSize f)) (64 * fmtSize f)

/-- The buffer of pair p of an operand: a REPEAT node gives its current panel (R436). -/
def pairBuf (s : State) (r n b p : Nat) : Nat := if nodeRepeat s r n then (s.node r n).rep else (b + p) % nodeNbuf s r n

/-- Both panels of the pair are present. -/
def pairReady (s : State) (r : Nat) (an ab bn bb : Nat) : Bool :=
  let need := if an == bn && ab == bb then 2 else 1
  need ≤ ((s.node r an).buf ab).count && 1 ≤ ((s.node r bn).buf bb).count

/-- The next panel pair of a bank's operation is multiplied, slice by slice in order, up to a slice that fails (R214, R225). -/
def multiplyPair (s : State) (r j b : Nat) (m : MeRun) : State :=
  let d := m.d
  let f := d.mfmt
  let ab := pairBuf s r d.an d.ab m.sent
  let bb := pairBuf s r d.bn d.bb m.sent
  let aa := nodeStart s r d.an ab
  let ba := nodeStart s r d.bn bb
  let lo := if m.sent == 0 then d.ks else 0
  let hi := fmtK f
  let a := readBytes s.mem (scrAddr r aa) 4096
  let bp := readBytes s.mem (scrAddr r ba) 4096
  let released (s : State) : State := bufferDelivered (bufferDelivered s r d.an ab) r d.bn bb
  match (List.range (hi - lo)).find? (fun i => sliceBad s r f aa ba (lo + i)) with
  | none =>
    released (s.modEng r j (fun e => (e.setBank b (macPanel f d.scale (e.bank b) a bp lo hi)).setRun b (some { m with sent := m.sent + 1 })))
  | some i =>
    let n := d.kb + m.sent * hi + lo + i
    let s := released (s.modEng r j (fun e =>
      let x := macPanel f d.scale (e.bank b) a bp lo (lo + i)
      { (e.setBank b { x with frz := true }).setRun b (some { m with stop := true }) with
        ksl := n, frozen := some { code := FCode.eccu.num, aux := n } }))
    raiseUnit s r (.engine j) FCode.eccu.num (32 + j) n

/-- A bank holds an operation whose next pair can be read. -/
def pairTurn (s : State) (r : Nat) (e : Engine) (b : Nat) : Option MeRun :=
  match e.run b with
  | some m =>
    if m.d.kind == 0x10 && !m.stop && m.sent < m.d.np &&
        pairReady s r m.d.an (pairBuf s r m.d.an m.d.ab m.sent) m.d.bn (pairBuf s r m.d.bn m.d.bb m.sent) then some m else none
  | none => none

/-- BUFFER_READ (R113, R213, R223): an engine reads the next panel pair of an operation as counted reads. -/
def stepBufferRead (r j : Nat) (s : State) : State :=
  let e := s.eng r j
  if (s.region r).gang.isNone || 8 ≤ j || e.frozen.isSome then s
  else
    match pairTurn s r e 0 with
    | some m => multiplyPair s r j 0 m
    | none =>
      match pairTurn s r e 1 with
      | some m => multiplyPair s r j 1 m
      | none => s

/-- ME_OP_COMPLETE (R217, R225): V = 0 after the last update, V = 1 after a stop; neither bank's completion waits for the other's. -/
def stepMeOpComplete (r j : Nat) (s : State) : State :=
  let s := meRefill s r j
  let e := s.eng r j
  let due (b : Nat) : Option MeRun := (e.run b).bind (fun m => if m.d.kind == 0x10 && (m.stop || m.sent == m.d.np) then some m else none)
  if e.frozen.isSome then s
  else
    let ends (b : Nat) : Option State := (due b).bind (fun m =>
      if mayComplete s m.d then some (completeDesc (s.setEng r j (e.setRun b none)) m.d (if m.stop then 1 else 0)) else none)
    ((ends 0).or (ends 1)).getD s

/-- The site an engine feeds on attachment a (R161). -/
def engSite (j a : Nat) : Nat := (4 * j + a) * 32 + 31

/-- Emit the next token of a readout, or complete it: V counts its data tokens. -/
def rdMove (s : State) (r j b : Nat) (m : MeRun) : State :=
  let d := m.d
  match m.toks with
  | [] => if mayComplete s d then completeDesc (s.modEng r j (fun e => e.setRun b none)) d (64 * d.nrow) else s
  | t :: ts =>
    let site := engSite j d.att
    if !injectRoom s r site 1 d.mtrk d.mvc then s
    else
      let e := s.eng r j
      let n := if t.kind == .mark then (e.marks + 1) % 2 ^ 40 else e.marks
      let t := if t.kind == .mark then { t with v := BitVec.ofNat 32 n } else t
      inject (s.setEng r j ({ e with marks := n }.setRun b (some { m with toks := ts, sent := m.sent + 1 }))) r site 1 d.mtrk d.mvc t

/-- The readout of bank b, if there is one, sends its next token or completes. -/
def rdBank (s : State) (r j b : Nat) : State :=
  match (s.eng r j).run b with
  | some m => if m.d.kind == 0x11 then rdMove s r j b m else s
  | none => s

/-- ME_RD (R217, R437): the readout of each bank sends one token a step or completes, and the readout whose turn has come starts. -/
def stepMeRd (r j : Nat) (s : State) : State :=
  if (s.region r).gang.isNone || 8 ≤ j || (s.eng r j).frozen.isSome then s
  else startMe (rdBank (rdBank s r j 0) r j 1) r j 0x11

/- Expert dispatch (R229 to R231). -/

def Engine.slot (e : Engine) (i : Nat) : RowSlot := fgetD e.slots i {}

/-- PEND of a slot. -/
def RowSlot.pend (x : RowSlot) : Nat := (x.mask.filter (fun e => !x.cons.contains e)).length
/-- A slot is complete (R234). -/
def RowSlot.complete (x : RowSlot) : Bool := x.valid && x.rowin && x.pend == 0

/-- Slots that are complete now and were not before join the order of completion, ascending. -/
def noteComplete (e : Engine) : Engine :=
  { e with ready := e.ready ++ (e.slots.filter (fun x => x.2.complete && !e.ready.contains x.1)).map (·.1) }

def crsRing (s : State) (r : Nat) : Ring :=
  (s.region r).crs.ring.getD
    { mes := 0, nexp := 1, fmt := 0, npr := 1, out := 0, ldr := [], ovc := 0, sa := 0, sb := 0, ove := 0, emap := 0, rtab := 0, dump := none, wbase := 0 }

/-- Elements of one row of the row store. -/
def rowLen (g : Ring) : Nat := g.npr * fmtK g.fmt

/-- Elements of one group of a box to an engine: K route entries, or one row. -/
def groupLen (g : Ring) (d : Desc) : Nat := if d.dm == 4 then d.kgrp else rowLen g

/-- The check made when a box reaches its engine (R427). -/
def dispatchBad (s : State) (r : Nat) (d : Desc) : Bool :=
  let e := s.eng r d.me
  let g := crsRing s r
  !e.routed || (d.dm == 5 && (d.esz != fmtSize g.fmt || d.total % rowLen g != 0)) || 64 < d.slot + (d.total + groupLen g d - 1) / groupLen g d

/-- The packet's slot can take it: a route group waits for a slot that is not VALID, a row for one without ROWIN. -/
def slotOpen (s : State) (r : Nat) (b : Box) : Bool :=
  let d := b.d
  let n := groupLen (crsRing s r) d
  let x := (s.eng r d.me).slot (d.slot + b.pos / n)
  if d.dm == 4 then b.pos % n != 0 || !x.valid else !x.rowin

/-- The box has delivered or skipped its element: a route group whose last entry this was sets VALID (R230). -/
def groupEnd (s : State) (r : Nat) (b : Box) : State :=
  let d := b.d
  let n := groupLen (crsRing s r) d
  let i := d.slot + b.pos / n
  if (b.pos + 1) % n != 0 then s
  else if d.dm == 4 then
    s.modEng r d.me (fun e => noteComplete { e with slots := fset e.slots i { e.slot i with valid := true, tag := d.tagb } })
  else s.modEng r d.me (fun e => noteComplete { e with slots := fset e.slots i { e.slot i with rowin := true } })

/-- The box moves past its element, a plain reader past the element's marks too (R112). -/
def dispatchDone (s : State) (r y i : Nat) (b : Box) (at_ : Option (Nat × Nat)) (counts : Bool) : State :=
  let s := elemDone (passPlain (groupEnd s r b) b at_) r y i { b with pkt := none } counts
  let b' := ((s.pt r y).chains.getD i {}).box
  if b'.pos == b'.d.total then setBox s r y i { b' with ended := true } else s

/-- The packet lands: the drain counter falls. -/
def packetLands (s : State) (r j : Nat) : State := s.modEng r j (fun e => { e with drain := e.drain - 1 })

/-- A route entry reaches its slot (R230): the fault it meets, or the state. -/
def routeEntry (s : State) (r : Nat) (b : Box) (x : Nat) : Sum FCode State :=
  let d := b.d
  let g := crsRing s r
  let i := d.slot + b.pos / d.kgrp
  let slot := (s.eng r d.me).slot i
  let ex := nbits x 39 32
  if nbits x 63 41 != 0 then .inl .rsvd
  else if !nbit x 40 then .inr s
  else if g.nexp ≤ ex || slot.mask.contains ex then .inl .desc
  else
    let gate := nbits x 31 0
    let s := s.modEng r d.me (fun e => { e with
      slots := fset e.slots i { slot with mask := slot.mask ++ [ex], gate := fset slot.gate ex gate } })
    .inr (s.modRegion r (fun q => { q with crs := { q.crs with
      incr := (s.cyc, d.me)
      rcnt := fset q.crs.rcnt ex (min (fgetD q.crs.rcnt ex 0 + 1) (2 ^ 32 - 1))
      rsum := fset q.crs.rsum ex (f32Add (fgetD q.crs.rsum ex 0) gate) } }))

/-- Bytes are written at a place of a row; what no element has written reads as zero. -/
def putRow (row bs : List Byte) (at_ : Nat) : List Byte := row.take at_ ++ List.replicate (at_ - row.length) 0 ++ bs ++ row.drop (at_ + bs.length)

/-- The skip that a fault of a supplied value interrupts goes on after it (R230). -/
def laterSkip (b : Box) : Box := if b.skip == 0 then b else { b with later := (b.skip, b.supply) :: b.later }

/-- The increments of one cycle are taken by ascending engine (R238): the packet of a lower engine waits for the next cycle. -/
def countLate (s : State) (r : Nat) (b : Box) : Bool :=
  let i := (s.region r).crs.incr
  b.d.dm == 4 && i.1 == s.cyc && b.d.me < i.2

/-- A packet of a box lands at its engine. -/
def landPacket (s : State) (r y i : Nat) (b : Box) (bs : List Byte) (poi : Bool) (at_ : Option (Nat × Nat)) (counts : Bool) : State :=
  let d := b.d
  if d.dm == 4 then
    match routeEntry s r b (leNat bs) with
    | .inl c => elemFault s r y i { laterSkip b with pkt := none } c.num 0 1
    | .inr s => dispatchDone s r y i b at_ counts
  else
    let n := rowLen (crsRing s r)
    let j := d.slot + b.pos / n
    let put (x : RowSlot) : RowSlot := { x with row := putRow x.row bs (b.pos % n * d.esz), poi := x.poi || poi }
    dispatchDone (s.modEng r d.me (fun e => { e with slots := fset e.slots j (put (e.slot j)) })) r y i b at_ counts

/-- One move of a route or row box: the check, the announcement of a packet, its landing; after tret a faulting element is skipped
or takes the value supplied (R433). A box that a pre-emption has closed still takes the answer of another station that it has asked (R85). -/
def dispatchMove (s : State) (r y i : Nat) (b : Box) : Moved :=
  let d := b.d
  if b.ended || b.fault.isSome then (false, s)
  else
    match b.pkt with
    | some (bs, poi, at_) =>
      if countLate s r b then (false, s)
      else (true, landPacket (packetLands s r d.me) r y i { b with pkt := none } bs poi at_ (b.skip == 0 && !boxClipped b))
    | none =>
      if (b.closed && !b.asked) || !b.started || ((s.pt r y).asked && !b.asked) then (false, s)
      else if b.pos == 0 && b.skip == 0 && dispatchBad s r d then (true, refuseBox s r y i d .desc 0)
      else if !slotOpen s r b then (false, s)
      else
        match b.skip, b.later with
        | n + 1, _ =>
          (match b.supply with
           | none => (true, dispatchDone s r y i { b with skip := n } (skipPlace s r y b) false)
           | some v =>
             if countLate s r b then (false, s)
             else (true, landPacket s r y i { b with skip := n } ((leBytes v.toNat 8).take d.esz) false (skipPlace s r y b) false))
        | 0, (n, v) :: rest => (true, setBox s r y i { b with skip := n, supply := v, later := rest })
        | 0, [] =>
          (match fetchElem s r y b with
           | .wait s | .none_ s => (false, noteAsked s r y i)
           | .fault s c cause cover => (true, elemFault s r y i b c cause cover)
           | .ok s b bs poi at_ =>
             (true, noteAsked ((setBox s r y i { b with pkt := some (bs, poi, at_) }).modEng r d.me (fun e => { e with drain := e.drain + 1 })) r y i))

/-- The first chain of a port tile whose box goes to an engine, among the four that run, that can move does. -/
def dispatchFirst (s : State) (r y dm : Nat) : Nat → Nat → State
  | 0, _ => s
  | fuel + 1, i =>
    match (s.pt r y).chains[i]? with
    | none => s
    | some c =>
      if c.box.d.dm != dm || c.box.d.total == 0 then dispatchFirst s r y dm fuel (i + 1)
      else
        match dispatchMove s r y i c.box with
        | (true, s) => s
        | (false, s) => dispatchFirst s r y dm fuel (i + 1)

def dispatchRow (dm r y : Nat) (s : State) : State := if !portReady s r y then s else dispatchFirst s r y dm 4 0

/-- ROUTE_DELIVERY (R89, R229, R230). -/
def stepRouteDelivery (r pt : Nat) (s : State) : State := dispatchRow 4 r pt s
/-- ROW_DELIVERY (R89, R231). -/
def stepRowDelivery (r pt : Nat) (s : State) : State := dispatchRow 5 r pt s

/-- The tokens of a complete row (R234). -/
def rowTokens (e : Engine) (g : Ring) (i : Nat) : List Token :=
  (List.range 64).map (fun j =>
    { v := cellV e.bank0 (vcEntryOf g.ove) (i * 64 + j), tag := (e.slot i).tag, vc := g.ovc, poi := (e.slot i).poi })

/-- A slot is freed: every field cleared, its row of bank 0 at +0 (R234); the row store keeps its bytes until they are written again. -/
def freeSlot (e : Engine) (i : Nat) : Engine :=
  { e with
    slots := fset e.slots i { row := (e.slot i).row }, ready := e.ready.drop 1
    bank0 := { e.bank0 with cells := e.bank0.cells.filter (fun c => c.1 / 64 != i) } }

/-- SLOT_COMPLETE (R234): the row that completed first leaves on OUT, one token a step, and its slot is freed. -/
def stepSlotComplete (r j : Nat) (s : State) : State :=
  let e := s.eng r j
  let g := crsRing s r
  if (s.region r).gang.isNone || !e.routed || e.frozen.isSome then s
  else
    match e.ready with
    | [] => s
    | i :: _ =>
      match (if e.out.isEmpty then rowTokens e g i else e.out) with
      | [] => s
      | t :: ts =>
        if !injectRoom s r (engSite j 0) 1 g.out g.ovc then s
        else
          inject (s.setEng r j (if ts.isEmpty then freeSlot { e with out := [] } i else { e with out := ts })) r (engSite j 0) 1 g.out g.ovc t

end Sys2Proof.Machine
end

