-- ==== Sys2Proof/Machine/Carousel.lean ====
section
/-! DEFINITION. The Carousel: crs.ring, crs.run and the laps of a gang (R227, R228, R232, R233, R235 to R241, R439, R440). -/

namespace Sys2Proof.Machine

/-- The Carousel station's unit number (R50). -/
def crsUnit : Nat := 43

def State.crs (s : State) (r : Nat) : Carousel := (s.region r).crs
def State.modCrs (s : State) (r : Nat) (f : Carousel → Carousel) : State := s.modRegion r (fun g => { g with crs := f g.crs })

/-- The ring settings of a crs.ring (R439). -/
def ringOf (d : Desc) : Ring :=
  let w := d.word 3
  { mes := nbits w 7 0, nexp := nbits w 15 8 + 1, fmt := nbits w 18 16, out := nbits w 19 19, npr := nbits w 23 20 + 1
    ldr := (List.range (nbits w 25 24 + 1)).map (fun k => nbits (d.word 4) (16 * k + 15) (16 * k))
    ovc := nbits w 31 27, sa := sextInt (nbits w 39 32) 8, sb := sextInt (nbits w 47 40) 8, ove := BitVec.ofNat 16 (nbits w 63 48)
    emap := d.words.getD 5 0, rtab := d.words.getD 6 0
    dump := if nbit w 26 then some (nbits (d.word 7) 13 0) else none, wbase := d.words.getD 8 0 }

/-- What a crs.ring is refused for (R227, R239, R439). -/
def ringBad (s : State) (d : Desc) : Option FCode :=
  let g := ringOf d
  if nbits (d.word 7) 63 14 != 0 || d.used 9 then some .rsvd
  else if g.fmt == 1 || 3 < g.fmt || vceBad g.ove || (List.range 4).any (fun k => g.ldr.length ≤ k && nbits (d.word 4) (16 * k + 15) (16 * k) != 0)
  then some .desc
  else
    match g.dump with
    | none => none
    | some w => if (s.win w).st != .opened then some .winstate else if tileSize (s.win w) < 8 * g.nexp then some .desc else none

/-- What a Carousel command is refused for at issue. -/
def crsBad (s : State) (d : Desc) : Option FCode :=
  if d.kind == 0x18 then ringBad s d
  else if d.kind == 0x19 then (if d.used 3 then some .rsvd else none)
  else some .desc

/-- A new Carousel command (R422). -/
def acceptCrs (s : State) (d : Desc) : Option State :=
  match crsBad s d with
  | some c => some (rejectDesc s d c 0)
  | none => if 2 ≤ (s.crs d.region).q.length then none else some (s.modCrs d.region (fun x => { x with q := x.q ++ [d] }))

/-- A chain goes on at the Carousel. -/
def chainCrs (s : State) (d : Desc) : State :=
  match crsBad s d with
  | some c => rejectDesc s d c 0
  | none => s.modCrs d.region (fun x => { x with q := d :: x.q })

/-- The chain of the Carousel command at the head of the queue, which has completed, goes on. -/
def crsNext (s : State) (d : Desc) : State := nextDesc s d (fun s => s.modCrs d.region (fun x => { x with q := x.q.drop 1 })) chainCrs

/-- A lap of the gang of region r runs. -/
def lapRuns (s : State) (r : Nat) : Bool :=
  match regionGang s r with
  | some (_, g) => g.lap.isSome
  | none => false

/-- Engines of region r that leave routed mode under a mask. -/
def leavers (s : State) (r mes : Nat) : List Nat := (List.range 8).filter (fun j => (s.eng r j).routed && !nbit mes j)

/-- VALID row slots of an engine. -/
def validSlots (e : Engine) : Nat := (e.slots.filter (fun x => x.2.valid)).length

/-- An engine of the ring: banks cleared, slots emptied, in routed mode (R227). -/
def enterRouted (e : Engine) : Engine := { e with routed := true, slots := [], ready := [], out := [], bank0 := {}, bank1 := {} }

/-- crs.ring is performed (R227). -/
def ringPerform (s : State) (r : Nat) (g : Ring) : State :=
  let out := leavers s r g.mes
  let drops := min 255 ((out.map (fun j => validSlots (s.eng r j))).sum)
  let s := out.foldl (fun s j => s.modEng r j (fun e => { unroute e with out := [] })) s
  let s := ((List.range 8).filter (fun j => nbit g.mes j)).foldl (fun s j => s.modEng r j enterRouted) s
  s.modCrs r (fun x => { x with
    ring := some g, rcnt := [], rsum := [], dupsup := 0, drops := if out.isEmpty then x.drops else drops, rmes := g.mes, nexpm1 := g.nexp - 1 })

/-- Engines of a mask with an operation in progress. -/
def enginesBusy (s : State) (r mes : Nat) : Bool :=
  (List.range 8).any (fun j => nbit mes j && ((s.eng r j).run0.isSome || (s.eng r j).run1.isSome))

/-- CRS_RING (R227, R239, R439). -/
def stepCrsRing (r : Nat) (s : State) : State :=
  let x := s.crs r
  match x.q with
  | [] => s
  | d :: q =>
    if d.kind != 0x18 || x.frozen.isSome then s
    else if d.told then crsNext s d
    else
      let g := ringOf d
      match ringBad s d with
      | some c => rejectDesc (s.modCrs r (fun x => { x with q := q })) d c 0
      | none =>
        if (!(leavers s r g.mes).isEmpty && lapRuns s r) || enginesBusy s r g.mes then s
        else
          advance s d 0 (fun s => ringPerform s r g) (fun s => s.modCrs r (fun x => { x with q := q }))
            (fun s d => s.modCrs r (fun x => { x with q := d :: q })) chainCrs

/-- Two rings agree for a lap (R228). -/
def ringsAgree (a b : Ring) : Bool := a.nexp == b.nexp && a.fmt == b.fmt && a.npr == b.npr && a.ldr == b.ldr

/-- The engines of the ring, in ring order (R228). -/
def ringEngines (s : State) (g : Gang) : List (Nat × Nat) :=
  g.regions.flatMap (fun r =>
    match (s.crs r).ring with
    | some x => ((List.range 8).filter (fun j => nbit x.mes j)).map (fun j => (r, j))
    | none => [])

/-- CRS_RUN (R228, R440): a region's crs.run reaches the ring once every region of the gang has performed crs.ring. -/
def stepCrsRun (r : Nat) (s : State) : State :=
  let x := s.crs r
  match x.q, regionGang s r with
  | d :: q, some (_, g) =>
    if d.kind != 0x19 || x.frozen.isSome then s
    else if d.told then crsNext s d
    else if g.lap.isSome || x.lapReady.isSome then s
    else
      let rings := g.regions.filterMap (fun r => (s.crs r).ring)
      if rings.length < g.regions.length then s
      else
        let mine := crsRing s r
        if !rings.all (ringsAgree mine) || mine.ldr.any (fun p => (ringEngines s g).length ≤ p) then
          rejectDesc (s.modCrs r (fun x => { x with q := q })) d .desc 0
        else s.modCrs r (fun x => { x with q := q, lapReady := some d })
  | _, _ => s

/-- What reading the tables of a loader comes to. -/
inductive Tables where
  | ok (s : State) (emap rtab : List Nat)
  | wait (s : State)
  | fault (s : State) (code cause : Nat)

/-- A loader's region reads EMAP and RTAB once (R232, R235). -/
def readTables (s : State) (r : Nat) : Tables :=
  let g := crsRing s r
  match unitReadMany s r crsUnit .read 1 g.nexp g.emap with
  | .wait s => .wait s
  | .fault s c cause => .fault s c cause
  | .ok s e p =>
    match unitReadMany s r crsUnit .read 8 g.nexp g.rtab with
    | .wait s => .wait s
    | .fault s c cause => .fault s c cause
    | .ok s t q =>
      if p || q then .fault s FCode.poison.num 0 else .ok s (items 1 e g.nexp) (items 8 t g.nexp)

/-- The trains that the loader of group g sends, in order (R232). -/
def trainsOf (emap rtab : List Nat) (g : Nat) : List (Nat × Nat × Nat) :=
  (List.range emap.length).flatMap (fun e =>
    let t := rtab.getD e 0
    let n := if nbit t 8 then 2 else 1
    (if emap.getD e 0 == g then [(e, 0, n)] else []) ++ (if nbit t 8 && nbits t 1 0 == g then [(e, 1, n)] else []))

/-- A table entry with a reserved bit. -/
def tablesBad (emap rtab : List Nat) : Bool :=
  emap.any (fun x => nbits x 7 2 != 0) || rtab.any (fun x => nbits x 63 9 != 0 || nbits x 7 2 != 0)

/-- Every region's crs.run ends with a fault. -/
def refuseLap (s : State) (g : Gang) (code cause : Nat) : State :=
  g.regions.foldl (fun s r =>
    match (s.crs r).lapReady with
    | some d => issuerFault (s.modCrs r (fun x => { x with lapReady := none })) d code cause
    | none => s) s

/-- The loaders read their tables in group order. -/
def loadTables (g : Gang) (ring : List (Nat × Nat)) (s : State) : List (Nat × Nat) → FMap (List (Nat × Nat × Nat)) → Sum State (State × FMap (List (Nat × Nat × Nat)))
  | [], todo => .inr (s, todo)
  | (k, p) :: l, todo =>
    match readTables s (ring.getD p (0, 0)).1 with
    | .wait s => .inl s
    | .fault s c cause => .inl (refuseLap s g c cause)
    | .ok s e t => if tablesBad e t then .inl (refuseLap s g FCode.rsvd.num 0) else loadTables g ring s l (fset todo k (trainsOf e t k))

/-- LAP_START (R228, R232, R235): the last region's crs.run has reached the ring. -/
def stepLapStart (gang : Nat) (s : State) : State :=
  let g := s.gang gang
  if g.regions.isEmpty || g.lap.isSome || !g.regions.all (fun r => (s.crs r).lapReady.isSome) then s
  else
    let ring := ringEngines s g
    let ldr := (crsRing s (g.regions.headD 0)).ldr
    match loadTables g ring s ((List.range ldr.length).zip ldr) [] with
    | .inl s => s
    | .inr (s, todo) =>
      let s := s.modGang gang (fun g => { g with lap := some { todo := todo } })
      (ldr.map (fun p => (ring.getD p (0, 0)).1)).foldl (fun s r => s.modCrs r (fun x => { x with lap := true })) s

def modLap (s : State) (gang : Nat) (f : Lap → Lap) : State := s.modGang gang (fun g => { g with lap := g.lap.map f })

/-- Row i's element (p, k) of the row store. -/
def rowElem (f : Nat) (row : List Byte) (n : Nat) : Nat := leNat ((row.drop (n * fmtSize f)).take (fmtSize f))

/-- One cell of bank 1: the row times the train's panels, in the order of R214. -/
def trainCell (g : Ring) (t : Train) (row : List Byte) (j : Nat) : Nat × Bool × Bool × Bool :=
  macFold g.fmt t.scale 0 ((List.range (rowLen g)).map (fun n =>
    (rowElem g.fmt row n, panelB g.fmt (t.bytes.drop (n / fmtK g.fmt * 4096)) (n % fmtK g.fmt) j)))

/-- bank1 after a train: CLR on the first panel (R233). -/
def trainBank (g : Ring) (t : Train) (e : Engine) : Bank :=
  let rs := (List.range 4096).map (fun c => (c, trainCell g t (e.slot (c / 64)).row (c % 64)))
  { cells := rs.filterMap (fun p => if p.2.1 == 0 then none else some (p.1, p.2.1))
    nv := rs.any (fun p => p.2.2.2.1), inf := rs.any (fun p => p.2.2.2.2) }

/-- The parity of a tag (R233). -/
def tagParity (tag : W64) : Nat := ((List.range 64).filter (fun i => tag.getLsbD i)).length % 2

/-- Slot i takes the train's product into its row of bank 0, or suppresses it (R233). -/
def combineSlot (t : Train) (p : Engine × Nat) (i : Nat) : Engine × Nat :=
  let (e, dups) := p
  let x := e.slot i
  if !x.valid || !x.rowin || !x.mask.contains t.exp || (t.ncopy != 1 && t.copy != tagParity x.tag) then p
  else if x.cons.contains t.exp then (e, dups + 1)
  else
    let vs := (List.range 64).map (fun j =>
      (i * 64 + j, f32Fma (fgetD x.gate t.exp 0) (fgetD e.bank1.cells (i * 64 + j) 0) (fgetD e.bank0.cells (i * 64 + j) 0)))
    ({ e with
        slots := fset e.slots i { x with cons := x.cons ++ [t.exp] }
        bank0 := { e.bank0 with
          cells := vs.foldl (fun c v => if v.2 == 0 then ferase c v.1 else fset c v.1 v.2) e.bank0.cells
          nv := e.bank0.nv || vs.any (fun v => isNan32 v.2), inf := e.bank0.inf || vs.any (fun v => isInf32 v.2) } }, dups)

/-- The train is multiplied into bank 1 and combined into the matching rows (R233). -/
def trainMultiply (s : State) (r j : Nat) (g : Ring) (t : Train) : State :=
  let e := s.eng r j
  let (e, dups) := (List.range 64).foldl (combineSlot t) ({ e with bank1 := trainBank g t e }, 0)
  (s.setEng r j (noteComplete e)).modCrs r (fun x => { x with dupsup := min (x.dupsup + dups) (2 ^ 32 - 1) })

/-- Remove the first train at a place. -/
def takeTrain (p : Nat) : List Train → Option (Train × List Train)
  | [] => none
  | t :: ts =>
    if t.place == p then some (t, ts)
    else (takeTrain p ts).map (fun x => (x.1, t :: x.2))

/-- A lap that has met an error sends no further trains; it completes with V = 1 once those sent have been dropped (R232). -/
def failLap (s : State) (gang : Nat) : State := modLap s gang (fun y => { y with todo := [], err := true })

/-- The loader at place p of region r sends its next train: its panels are read from the Commons once (R232). -/
def loadTrain (s : State) (gang r p : Nat) (k : Nat) (x : Nat × Nat × Nat) (rest : List (Nat × Nat × Nat)) : State :=
  let g := crsRing s r
  let a := g.wbase + BitVec.ofNat 64 (x.1 * g.npr * 4096)
  let sent (s : State) (ts : List (Nat × Nat × Nat)) (l : Lap → Lap) : State := modLap s gang (fun y => l { y with todo := fset y.todo k ts })
  let faulty (s : State) (code cause : Nat) : State :=
    raiseUnit ((failLap s gang).modCrs r (fun c => { c with frozen := some { code := code } })) r .carousel code crsUnit cause
  match unitReadMany s r crsUnit .read 64 (g.npr * 64) a with
  | .wait s => s
  | .fault s c cause => faulty s c cause
  | .ok s bs poi =>
    if poi then faulty s FCode.eccu.num 0
    else
      sent s rest (fun y => { y with
        trains := y.trains ++ [{ exp := x.1, copy := x.2.1, ncopy := x.2.2, grp := k, scale := g.sa + g.sb, place := p, bytes := bs }] })

/-- TRAIN_AT_ENGINE (R232, R233, R236): the train that reached the engine first is multiplied, combined and forwarded, or dropped at
the place before its loader; an engine at a loader's place with no train waiting sends the next one. -/
def stepTrainAtEngine (r j : Nat) (s : State) : State :=
  match regionGang s r with
  | some (gang, g) =>
    match g.lap with
    | none => s
    | some lap =>
      let ring := ringEngines s g
      let p := ring.idxOf (r, j)
      let x := crsRing s r
      if ring.length ≤ p || (s.eng r j).frozen.isSome then s
      else
        match takeTrain p lap.trains with
        | some (t, ts) =>
          if t.poi then
            let s := modLap (failLap s gang) gang (fun y => { y with trains := ts })
            raiseUnit (s.modEng r j (fun e => { e with bank1 := {}, frozen := some { code := FCode.eccu.num } })) r (.engine j) FCode.eccu.num (32 + j) 0
          else
            let s := trainMultiply s r j x t
            let next := (p + 1) % ring.length
            modLap s gang (fun y => { y with trains := if next == x.ldr.getD t.grp 0 then ts else ts ++ [{ t with place := next }] })
        | none =>
          if (s.crs r).frozen.isSome || (s.region r).closed then s
          else
            match (lap.todo.filter (fun k => x.ldr.getD k.1 ring.length == p && !k.2.isEmpty)).head? with
            | some (k, t :: ts) => loadTrain s gang r p k t ts
            | _ => s
  | none => s

/-- LAP_COMPLETE (R232, R440): every train has been dropped; each region's crs.run completes. -/
def stepLapComplete (gang : Nat) (s : State) : State :=
  let g := s.gang gang
  match g.lap with
  | none => s
  | some lap =>
    if !lap.trains.isEmpty || !lap.todo.all (fun k => k.2.isEmpty) then s
    else
      let v := if lap.err then 1 else 0
      let s := g.regions.foldl (fun s r =>
        match (s.crs r).lapReady with
        | some d =>
          let ends (s : State) : State := s.modCrs r (fun x => { x with lapReady := none, lap := false, lerr := lap.err })
          if d.next == 0 then advance s d v ends id (fun s _ => s) chainCrs
          else
            advance s d v ends (fun s => s.modCrs r (fun x => { x with q := x.q.drop 1 })) (fun s d => s.modCrs r (fun x => { x with q := d :: x.q })) chainCrs
        | none => s) s
      if g.regions.all (fun r => (s.crs r).lapReady.isNone) then s.modGang gang (fun g => { g with lap := none }) else s

end Sys2Proof.Machine
end

