-- ==== Sys2Proof/Machine/Bell.lean ====
section
/-! DEFINITION. The snapshot bell (R39, R53, R54, R238, R239). -/

namespace Sys2Proof.Machine

/-- A region's counters latch and start again from zero in the same cycle (R54). -/
def latchRegion (bell : Nat) (g : Region) : Region :=
  { g with
    latSkips := g.skips, skips := []
    crs := { g.crs with
      latRcnt := g.crs.rcnt, latRsum := g.crs.rsum, dups := g.crs.dupsup, latBell := bell, rcnt := [], rsum := [], dupsup := 0 } }

/-- A region in routed mode. -/
def routedRegion (g : Region) : Bool := g.engs.any (fun e => e.2.routed)

/-- The dump of a region's latched counters starts (R239): it joins the window's fills, or is lost. -/
def startDump (s : State) (r : Nat) : State :=
  let g := s.region r
  match g.crs.ring.bind (·.dump) with
  | none => s
  | some w =>
    if !routedRegion g || g.crs.frozen.isSome then s
    else
      match joinFill s w { by_ := .carousel r, mid := regionMid r 43, cnt := 0, want := true, bell := s.bell, dump := dumpEntries g.crs } with
      | some s => s
      | none => dumpLost s w r s.bell .winstate

/-- A ring: one raised while an earlier one is still being distributed, which takes 200 ns, merges with it and latches nothing further
(R53). -/
def ringBell (s : State) : State :=
  if s.ns < s.bellEnd then s
  else
    let bell := (s.bell + 1) % 2 ^ 32
    let s : State := { s with
      bell := bell, bellEnd := s.ns + 200, regions := (List.range 64).map (fun r => (r, latchRegion bell (s.region r))) }
    (List.range 64).foldl startDump s

/-- BELL_PIN_EDGE (R39): the edge is held low for at least 20 ns and at least 1 µs after the last edge that rang. -/
def stepBellPinEdge (s : State) : State :=
  match s.inputs.bells with
  | [] => s
  | low :: rest =>
    let s := { s with inputs := { s.inputs with bells := rest } }
    let early := match s.bellLast with
      | some t => s.ns < t + 1000
      | none => false
    if low < 20 || early then s else ringBell { s with bellLast := some s.ns }

end Sys2Proof.Machine
end

