-- ==== Sys2Proof/Machine/Collectives.lean ====
section
/-! DEFINITION. Station collectives (R250, R251, R444 to R446). -/

namespace Sys2Proof.Machine

/- Fields of the body (R444). -/

def Desc.npart (d : Desc) : Nat := nbits (d.word 3) 5 0
def Desc.idx (d : Desc) : Nat := nbits (d.word 3) 10 6
def Desc.croot (d : Desc) : Nat := nbits (d.word 3) 15 11
def Desc.cty (d : Desc) : Nat := nbits (d.word 3) 18 16
def Desc.dk (d : Desc) : Bool := nbit (d.word 3) 19
def Desc.cpt (d : Desc) : Nat := nbits (d.word 3) 24 20
def Desc.ctrack (d : Desc) : Nat := nbits (d.word 3) 25 25
def Desc.covc (d : Desc) : Nat := nbits (d.word 3) 30 26
/-- The deadline in ns. -/
def Desc.tmo (d : Desc) : Nat := (if nbits (d.word 3) 47 32 == 0 then 100 else nbits (d.word 3) 47 32) * 1000
def Desc.cid (d : Desc) : W64 := d.words.getD 4 0
def Desc.nel (d : Desc) : Nat := nbits (d.word 8) 31 0
/-- Bytes of an element, or of a row of coll.rsv. -/
def Desc.cesz (d : Desc) : Nat := if d.kind == 0x3C then 16 else if d.cty < 3 then 4 else 8

/-- What a collective is refused for at issue by its words. -/
def collBad (d : Desc) : Option FCode :=
  let w := d.word 3
  let rsv := d.kind == 0x3C
  if nbit w 31 || nbits w 63 48 != 0 || nbits (d.word 8) 63 32 != 0 || d.used 11 || (!rsv && (d.word 9 != 0 || d.word 10 != 0)) then some .rsvd
  else if d.npart < 2 || 32 < d.npart || d.npart ≤ d.idx || d.npart ≤ d.croot || 4 < d.cty || (rsv && d.cty != 0) || (d.dk && !rsv) ||
      d.word 5 % 8 != 0 then some .desc
  else none

def isColl (k : Nat) : Bool := 0x38 ≤ k && k ≤ 0x3C

def collKey (die k : Nat) : Nat := die * 16 + k

/-- A collective of a die's unit: sixteen instances are open at once. -/
def acceptColl (s : State) (d : Desc) : Option State :=
  let r := d.region
  match collBad d with
  | some c => some (rejectDesc s d c 0)
  | none =>
    match (List.range 16).find? (fun k => (fget s.colls (collKey (r / 16) k)).isNone) with
    | none => none
    | some k => some { s with colls := fset s.colls (collKey (r / 16) k) { d := d, r := r } }

/-- A chain of collectives goes on at the unit, in the instance's place. -/
def chainColl (key : Nat) (s : State) (d : Desc) : State :=
  match if isColl d.kind then collBad d else some .desc with
  | some c => rejectDesc s d c 0
  | none => { s with colls := fset s.colls key { d := d, r := d.region } }

/-- Entries of PTAB (R444). -/
def entPch (e : Nat) : Nat := nbits e 15 0
def entRegion (e : Nat) : Nat := nbits e 17 16 * 16 + nbits e 21 18

/-- Two commands are participants of one instance: it has their KIND, NPART, TY and NEL, and its open participant's table names the other's region
at the other's index (R444). -/
def sameInst (c : Coll) (d : Desc) (r : Nat) : Bool :=
  c.r != r && c.d.kind == d.kind && c.d.npart == d.npart && c.d.cty == d.cty && c.d.nel == d.nel && c.d.idx != d.idx &&
    entPch (c.ptab.getD d.idx 0) == 0 && entRegion (c.ptab.getD d.idx 0) == r

/-- A CID names an instance that is open at the station, or that closed there within the last second (R444). DEDUCED, log 36: the other participants
of an open instance join it with its CID. -/
def cidUsed (s : State) (key r : Nat) (d : Desc) : Bool :=
  s.colls.any (fun c => c.1 != key && c.2.d.cid == d.cid && !c.2.ptab.isEmpty && !sameInst c.2 d r) ||
    s.collClosed.any (fun c => c.2.1 == d.cid && s.ns < c.2.2 + 1000000000)

/-- A contribution belongs to the instance of region r with a CID. -/
def forInst (r : Nat) (cid : W64) : NetMsg → Bool
  | .contrib q _ _ _ _ c _ _ _ _ => q == r && c == cid
  | _ => false

/-- The instance closes: late contributions find it closed. -/
def closeColl (key : Nat) (s : State) : State :=
  match fget s.colls key with
  | none => s
  | some c =>
    { s with
      colls := ferase s.colls key
      collClosed := (s.collClosed.filter (fun x => s.ns < x.2.2 + 1000000000)) ++ [(c.r, c.d.cid, s.ns)]
      net := s.net.filter (fun m => !forInst c.r c.d.cid m) }

/-- The instance leaves without a result. -/
def loseColl (key : Nat) (s : State) : State := { s with colls := ferase s.colls key }

/-- The instance's place while the chain's next descriptor is still to be read. -/
def keepColl (key : Nat) (c : Coll) (s : State) (d : Desc) : State := { s with colls := fset s.colls key { d := d, r := c.r } }

/-- The instance completes, and its chain goes on. -/
def collAdvance (s : State) (key : Nat) (c : Coll) : State :=
  advance s c.d c.d.nel (closeColl key) (loseColl key) (keepColl key c) (chainColl key)

/-- A contribution sets out for the participant that an entry of PTAB names: within the station at once, or on its peer channel. -/
def contribute (s : State) (c : Coll) (bs : List Byte) (bad : Bool) (e : Nat) : State :=
  let d := c.d
  if entPch e == 0 then
    if cidClosed s (entRegion e) d.cid then s
    else s.send (.contrib (entRegion e) d.kind d.npart d.cty d.nel d.cid d.idx bs bad s.ns)
  else
    let sid := match regionGang s c.r with
      | some (_, g) => g.sid
      | none => 0
    let k := chanKey sid (entPch e)
    let msg := Config.collPayload (entRegion e) d.kind d.npart d.cty d.nel d.cid d.idx bs bad
    sendFrames s k (msgFrames 9 (pmax (s.portOf (s.chan k).port)) msg)

/-- A contribution of time t comes after the deadline of the instance (R251). -/
def collLate (c : Coll) (t : Nat) : Bool :=
  match c.opened with
  | some o => o + c.d.tmo < t
  | none => false

/-- A contribution joins an instance; one that differs from its descriptor, or that arrives after the deadline, is discarded (R251, R446). -/
def joinContrib (c : Coll) : NetMsg → Coll
  | .contrib _ kind npart ty nel _ idx bs bad since =>
    let d := c.d
    if kind != d.kind || npart != d.npart || ty != d.cty || nel != d.nel || npart ≤ idx || (fget c.got idx).isSome || collLate c since then c
    else { c with
      got := fset c.got idx bs, bad := if bad then sinsert c.bad idx else c.bad
      opened := some (match c.opened with
        | some t => min t since
        | none => since) }
  | _ => c

/-- Contributions that have arrived for instance `key`. -/
def gather (s : State) (key : Nat) : State :=
  match fget s.colls key with
  | none => s
  | some c =>
    if c.ptab.isEmpty then s
    else
      let mine := s.net.filter (forInst c.r c.d.cid)
      { s with net := s.net.filter (fun m => !forInst c.r c.d.cid m), colls := fset s.colls key (mine.foldl joinContrib c) }

/-- Read a participant's own source (R445): `none` where it is not to be read. -/
def collSource (s : State) (c : Coll) : UnitRes :=
  let d := c.d
  let u := coreMid d.by_.core % 256
  if d.kind == 0x3B && d.idx != d.croot then .ok s [] false
  else if d.kind == 0x3C then unitReadMany s c.r u .read 8 (2 * d.nel) (d.words.getD 6 0)
  else unitReadMany s c.r u .read d.cesz d.nel (d.words.getD 6 0)

/-- What refuses the command once PTAB is read (R444). -/
def tableBad (s : State) (key : Nat) (c : Coll) (es : List Nat) : Option FCode :=
  let d := c.d
  let feat := match (s.region c.r).gang with
    | some g => (gangPlan s g).feat.toNat
    | none => 0
  if es.any (fun e => e / 2 ^ 22 != 0) then some .rsvd
  else if entPch (es.getD d.idx 0) != 0 || entRegion (es.getD d.idx 0) != c.r || !nbit feat 8 || (!nbit feat 5 && es.any (fun e => entPch e != 0)) ||
      cidUsed s key c.r d then some .desc
  else none

/-- A collective row: the table is read, then the participant's own source, and its contribution leaves (R444, R445). -/
def collRow (kind die k : Nat) (s : State) : State :=
  let key := collKey die k
  match fget s.colls key with
  | none => s
  | some c =>
    let d := c.d
    if 16 ≤ k || c.sent || c.out || d.kind != kind || (s.region c.r).gang.isNone then s
    else if d.told then collAdvance s key c
    else if c.ptab.isEmpty then
      match unitReadMany s c.r (coreMid d.by_.core % 256) .read 8 d.npart (d.words.getD 5 0) with
      | .wait s => s
      | .fault s code cause => issuerFault (loseColl key s) d code cause
      | .ok s bs p =>
        let es := items 8 bs d.npart
        if p then issuerFault (loseColl key s) d FCode.poison.num 0
        else
          match tableBad s key c es with
          | some f => rejectDesc (loseColl key s) d f 0
          | none => { s with colls := fset s.colls key { c with ptab := es } }
    else
      -- its own contribution joins behind those that have arrived, unless the deadline has passed
      let go (s : State) (bs : List Byte) (bad : Bool) : State :=
        let s := c.ptab.foldl (fun s e => contribute s c bs bad e) (gather s key)
        let c := fgetD s.colls key c
        let c := { c with rows := bs }
        let mine := if collLate c s.ns then c
          else { c with opened := some (c.opened.getD s.ns), got := fset c.got d.idx bs, bad := if bad then sinsert c.bad d.idx else c.bad }
        { s with colls := fset s.colls key { mine with sent := true } }
      match collSource s c with
      | .wait s => s
      | .fault s _ _ => go s [] true
      | .ok s bs p => go s bs p

def stepCollSum (die k : Nat) (s : State) : State := collRow 0x38 die k s
def stepCollMax (die k : Nat) (s : State) : State := collRow 0x39 die k s
def stepCollGath (die k : Nat) (s : State) : State := collRow 0x3A die k s
def stepCollBcast (die k : Nat) (s : State) : State := collRow 0x3B die k s
def stepCollRsv (die k : Nat) (s : State) : State := collRow 0x3C die k s

/-- One bit for each index that has contributed. -/
def contributors (c : Coll) : Nat := (c.got.filter (fun x => !c.bad.contains x.1)).foldl (fun a x => a + 2 ^ x.1) 0

/-- The end of a failed instance: a fault token, or a post-commit fault of the issuer (R446). -/
def failTail (s : State) (c : Coll) : State :=
  let d := c.d
  let bm := contributors c
  if d.cmode == 0 then
    (commandEnded s d).send (.fault d.by_.core
      { postRecord d.by_.core FCode.colltmo.num 0 d.by_.idx d.addr d.by_.baddr 0 with aux := BitVec.ofNat 32 bm } none)
  else
    completeTok (s.modRegion c.r (fun g => { g with collMaps := fset g.collMaps d.ctag.toNat bm })) d
      { kind := .fault, v := BitVec.ofNat 32 FCode.colltmo.num, tag := d.ctag }

def rowTag (bs : List Byte) (j : Nat) : W64 := BitVec.ofNat 64 (leNat ((bs.drop (16 * j)).take 8))

/-- The rows that tell the tags of a failed instance: the participant's own, where it has read them, else those of the lowest index that has
contributed any (R251, R445). DESIGN CHOICE, log 36: with none to tell them, the tags are 0. -/
def failRows (c : Coll) : List Byte := if c.rows.isEmpty then ((c.got.map (·.2)).find? (fun bs => !bs.isEmpty)).getD [] else c.rows

/-- The instance fails (R251, R446): with DK 1 each row leaves as a fault token and the bitmap. -/
def failColl (s : State) (key : Nat) (c : Coll) : State :=
  let d := c.d
  if d.dk && !c.out then
    let bm := contributors c
    let own := failRows c
    let toks := (List.range d.nel).flatMap (fun j =>
      [{ kind := .fault, v := BitVec.ofNat 32 FCode.colltmo.num, tag := rowTag own j, vc := d.covc },
       ({ kind := .data, v := BitVec.ofNat 32 bm, tag := rowTag own j, vc := (d.covc + 1) % 32 } : Token)])
    { s with
      colls := fset s.colls key { c with fabric := toks, out := true, failed := true }
      regions := (s.modRegion c.r (fun g => { g with
        collMaps := (List.range d.nel).foldl (fun m j => fset m (rowTag own j).toNat bm) g.collMaps })).regions }
  else advanceBy s d (fun s => failTail (closeColl key s) c) (loseColl key) (keepColl key c) (chainColl key)

/- Results (R445). -/

/-- One step of the fold of coll.sum or coll.max. -/
def foldElem (kind ty a b : Nat) : Nat :=
  let n := if ty < 3 then 32 else 64
  if kind == 0x38 then (if ty == 2 then f32Add a b else (a + b) % 2 ^ n)
  else if ty == 2 then f32Max a b
  else if readInt (ty == 0 || ty == 3) n a < readInt (ty == 0 || ty == 3) n b then b else a

/-- Row j of a participant's rows: TAG, cand, mass. -/
def rsvRow (bs : List Byte) (j : Nat) : W64 × Nat × Nat :=
  let b := bs.drop (16 * j)
  (rowTag bs j, leNat ((b.drop 8).take 4), leNat ((b.drop 12).take 4))

/-- The merge of R251 for row j. -/
def mergeRow (d : Desc) (xs : List (List Byte)) (j : Nat) : W64 × Nat × Nat :=
  let (tag, c0, m0) := rsvRow (xs.getD 0 []) j
  let r := (List.range (xs.length - 1)).foldl (fun (a : Nat × Nat) i =>
    let (_, ci, mi) := rsvRow (xs.getD (i + 1) []) j
    let mass := f32Add a.2 mi
    (if drawWins (d.words.getD 9 0) (tag &&& d.words.getD 10 0) (BitVec.ofNat 64 (2 ^ 40 + i + 1)) mass mi then ci else a.1, mass)) (c0, m0)
  (tag, r.1, r.2)

/-- The bytes of the result at every participant. -/
def collBytes (c : Coll) : List Byte :=
  let d := c.d
  let xs := (List.range d.npart).map (fun i => fgetD c.got i [])
  let n := d.cesz
  match d.kind with
  | 0x3A => xs.flatten
  | 0x3B => xs.getD d.croot []
  | 0x3C =>
    (List.range d.nel).flatMap (fun j =>
      let (t, ca, m) := mergeRow d xs j
      leBytes t.toNat 8 ++ leBytes ca 4 ++ leBytes m 4)
  | _ =>
    let vs := xs.map (fun bs => items n bs d.nel)
    (List.range d.nel).flatMap (fun j =>
      leBytes ((vs.drop 1).foldl (fun a v => foldElem d.kind d.cty a (v.getD j 0)) ((vs.getD 0 []).getD j 0)) n)

/-- Write bytes in pieces of n. -/
def writePieces (s : State) (r u n : Nat) : Nat → W64 → List Byte → UnitRes
  | 0, _, _ => .ok s [] false
  | k + 1, a, bs =>
    match unitWrite s r u a (bs.take n) false with
    | .ok s _ _ => writePieces s r u n k (a + BitVec.ofNat 64 n) (bs.drop n)
    | x => x

/-- The next token of a result, or the instance's end. -/
def collEmit (s : State) (key : Nat) (c : Coll) : State :=
  let d := c.d
  let x := s.site c.r (d.cpt * 32)
  match c.fabric with
  | t :: ts =>
    if onTrack x d.ctrack || (s.pt c.r d.cpt).chains.any (fun b => b.box.started && !b.box.ended && sendsOn b.box.d d.ctrack) then s
    else { s.setSite c.r (d.cpt * 32) (emitOn x [2 + d.ctrack] false t) with colls := fset s.colls key { c with fabric := ts } }
  | [] =>
    if onTrack x d.ctrack then s
    else if c.failed then failColl s key c
    else collAdvance s key c

/-- COLL_RESULT (R250, R251, R445, R446): every contribution is there, or one is a fault token. -/
def stepCollResult (die k : Nat) (s : State) : State :=
  let key := collKey die k
  let s := gather s key
  match fget s.colls key with
  | none => s
  | some c =>
    let d := c.d
    if 16 ≤ k || (!c.sent && !c.out) then s
    else if c.out then collEmit s key c
    else if !c.bad.isEmpty then failColl s key c
    else if c.got.length < d.npart then s
    else if d.dk then
      let xs := (List.range d.npart).map (fun i => fgetD c.got i [])
      let toks := (List.range d.nel).flatMap (fun j =>
        let (t, ca, m) := mergeRow d xs j
        [{ v := BitVec.ofNat 32 m, tag := t, vc := d.covc }, ({ v := BitVec.ofNat 32 ca, tag := t, vc := (d.covc + 1) % 32 } : Token)])
      { s with colls := fset s.colls key { c with fabric := toks, out := true } }
    else if !mayComplete s d then s
    else
      let n := d.cesz
      let count := if d.kind == 0x3A then d.nel * d.npart else d.nel
      let m := if n == 16 then 8 else n
      match writePieces s c.r (coreMid d.by_.core % 256) m (count * (n / m)) (d.words.getD 7 0) (collBytes c) with
      | .wait s => s
      | .fault s code cause => issuerFault (closeColl key s) d code cause
      | .ok s _ _ => collAdvance s key c

/-- COLL_DEADLINE (R251, R446): the deadline has passed, and a contribution has not arrived. -/
def stepCollDeadline (die k : Nat) (s : State) : State :=
  let key := collKey die k
  let s := gather s key
  match fget s.colls key with
  | none => s
  | some c =>
    match c.opened with
    | none => s
    | some t => if 16 ≤ k || c.out || s.ns < t + c.d.tmo || c.got.length == c.d.npart then s else failColl s key c

end Sys2Proof.Machine
end

