-- ==== Sys2Proof/Machine/Launches.lean ====
section
/-! DEFINITION. Launches on their way to the plan dispatchers: the body of LAUNCH and its checks, groups that wait for their members, the
queues (R62, R67, R75, R76, R82, R315, R384). -/

namespace Sys2Proof.Machine

/-- n bytes at offset o of a message, as a little-endian number. -/
def bytesAt (bs : List Byte) (o n : Nat) : Nat := leNat ((bs.drop o).take n)

def bytesZero (bs : List Byte) (o n : Nat) : Bool := ((bs.drop o).take n).all (fun b => b == 0)

/-- The launch a body of 152 bytes asks for (R67). -/
def launchOf (sid : Nat) (bs : List Byte) : Launch :=
  { sid := sid, ph := bytesAt bs 0 4, q := bytesAt bs 4 1, gsz := bytesAt bs 5 1, gkey := BitVec.ofNat 64 (bytesAt bs 8 8)
    args := (List.range 16).map (fun i => BitVec.ofNat 64 (bytesAt bs (16 + 8 * i) 8)) }

/-- The body's length, reserved bytes and values (R67). -/
def launchMalformed (bs : List Byte) : Bool :=
  let l := launchOf 0 bs
  bs.length != 152 || !bytesZero bs 6 2 || !bytesZero bs 144 8 || 15 < l.q || l.gsz == 0 || 4 < l.gsz || (l.gsz == 1 && l.gkey != 0)

/-- What a plan allows a launch to queue q (R62, R75). -/
def queueStatus (g : BitVec 128) (p : Plan) (q : Nat) : Sts :=
  if 4 ≤ q then .ok
  else if !g.getLsbD 3 then .feature
  else if p.period == 0 then .malformed
  else .ok

/-- The status of a LAUNCH (R67, R75). -/
def launchStatus (s : State) (sid : Nat) (bs : List Byte) : Sts :=
  let x := s.session sid
  let l := launchOf sid bs
  if launchMalformed bs then .malformed
  else
    match fget x.plans l.ph with
    | none => .nohandle
    | some p =>
      match queueStatus x.g p l.q with
      | .ok => if 1 < l.gsz && x.held.any (fun h => h.gkey == l.gkey && h.gsz != l.gsz) then .malformed else .ok
      | st => st

/-- Regions of a die that nothing runs on or holds (R76). -/
def freeRegions (s : State) (d : Nat) : List Nat :=
  ((List.range 16).map (fun i => d * 16 + i)).filter (fun r => (s.region r).gang.isNone && (s.region r).resv.isNone)

/-- The die with the most free regions, the lowest-numbered on a tie. -/
def emptiestDie (s : State) : Nat :=
  (List.range 4).foldl (fun b d => if (freeRegions s b).length < (freeRegions s d).length then d else b) 0

/-- The die of a launch's queue: the launching region's (R82), or the one HOME names (R76). -/
def launchDie (s : State) (l : Launch) : Nat :=
  match l.die with
  | some d => d
  | none => if (planOf s l).home < 4 then (planOf s l).home else emptiestDie s

/-- A launch joins its queue. -/
def queueLaunch (s : State) (l : Launch) : State :=
  let k := launchDie s l * 16 + l.q
  { s with queues := fset s.queues k (fgetD s.queues k [] ++ [{ l with since := s.ns }]) }

/-- Launches handed to the dispatchers as one co-schedule group (R67, R79). -/
def queueGroup (s : State) (ls : List Launch) : State :=
  let n := s.groups + 1
  ls.foldl (fun s l => queueLaunch s { l with group := n }) { s with groups := n }

/-- A launch that has been accepted: it is queued, or waits for its group (R67). -/
def placeLaunch (s : State) (l : Launch) : State :=
  let s := s.modSession l.sid (fun x => { x with live := x.live ++ [(l.lid, 0)] })
  if l.gsz == 1 then queueLaunch s l
  else
    let x := s.session l.sid
    let same := x.held.filter (fun h => h.gkey == l.gkey) ++ [l]
    if l.gsz ≤ same.length then
      queueGroup (s.setSession l.sid { x with held := x.held.filter (fun h => h.gkey != l.gkey) }) same
    else s.setSession l.sid { x with held := x.held ++ [l] }

/-- LAUNCH, by the host or by a running plan: the LID, from the session's sequence (R67, R384). -/
def acceptLaunch (s : State) (sid : Nat) (bs : List Byte) (die : Option Nat) : State × W64 :=
  let lid := BitVec.ofNat 64 (s.session sid).nextLid
  let s := s.modSession sid (fun x => { x with nextLid := x.nextLid + 1 })
  (placeLaunch s { launchOf sid bs with lid := lid, die := die }, lid)

end Sys2Proof.Machine
end

