-- ==== Sys2Proof/Machine/Replay.lean ====
section
/-! DEFINITION. The replay units of a region (R237, R442). -/

namespace Sys2Proof.Machine

def State.rep (s : State) (r u : Nat) : Replay := fgetD (s.region r).reps u {}
def State.setRep (s : State) (r u : Nat) (x : Replay) : State := s.modRegion r (fun g => { g with reps := fset g.reps u x })

/-- Fields of trn.set. -/
def Desc.trnU (d : Desc) : Nat := nbits (d.word 3) 1 0
def Desc.trnRoot (d : Desc) : Nat := nbits (d.word 3) 11 2
def Desc.trnK (d : Desc) : Nat := nbits (d.word 3) 19 12 + 1
def Desc.trnLge (d : Desc) : Nat := nbits (d.word 3) 23 20
def Desc.trnLvl (d : Desc) : Nat := nbits (d.word 3) 26 24
def Desc.trnFld (d : Desc) : Nat := nbits (d.word 3) 29 27

/-- What a trn.set is refused for by its words. -/
def trnBad (u : Nat) (d : Desc) : Option FCode :=
  if d.kind != 0x28 then some .desc
  else if nbits (d.word 3) 63 30 != 0 || d.used 5 then some .rsvd
  else if d.trnU != u || d.trnLge == 0 || 8 < d.trnLge || 2 ^ d.trnLge < d.trnK || d.word 4 % 2 != 0 then some .desc
  else none

/-- A trn.set goes to its unit, which holds one (R422). -/
def acceptTrn (s : State) (d : Desc) : Option State :=
  let x := s.rep d.region d.trnU
  match trnBad d.trnU d with
  | some c => some (rejectDesc s d c 0)
  | none => if x.q.isEmpty then some (s.setRep d.region d.trnU { x with q := [d] }) else none

/-- A chain of trn.set goes on at its unit. -/
def chainTrn (u : Nat) (s : State) (d : Desc) : State :=
  match trnBad u d with
  | some c => rejectDesc s d c 0
  | none => s.setRep d.region u { s.rep d.region u with q := d :: (s.rep d.region u).q }

def isCfw (s : State) (r n : Nat) : Bool := (s.site r n).act.fop == 0x38

/-- TRN_SET (R442): the table is read once, and the unit is set up with r cleared. -/
def stepTrnSet (r u : Nat) (s : State) : State :=
  let x := s.rep r u
  match x.q with
  | [] => s
  | d :: q =>
    if (s.region r).gang.isNone then s
    else if d.told then nextDesc s d (fun s => s.setRep r u { s.rep r u with q := q }) (chainTrn u)
    else
      let away (s : State) : State := s.setRep r u { x with q := q }
      if (x.on && x.r != 0) || !isCfw s r d.trnRoot then rejectDesc (away s) d .desc 0
      else
        let n := 2 ^ d.trnLge
        match unitReadMany s r (coreMid d.by_.core % 256) .read 2 n (d.words.getD 4 0) with
        | .wait s => s
        | .fault s c cause => issuerFault (away s) d c cause
        | .ok s bs p =>
          let es := items 2 bs n
          if p then issuerFault (away s) d FCode.poison.num 0
          else if es.any (fun e => 2048 ≤ e) then rejectDesc (away s) d .rsvd 0
          else if es.any (fun e => !isCfw s r (e % 1024)) then rejectDesc (away s) d .desc 0
          else
            advance s d 0 (fun s => s.setRep r u
              { on := true, root := d.trnRoot, k := d.trnK, lge := d.trnLge, lvl := d.trnLvl, fld := d.trnFld, lmap := es, q := d :: q })
              (fun s => s.setRep r u { s.rep r u with q := q }) (fun s d => s.setRep r u { s.rep r u with q := d :: q }) (chainTrn u)

/-- REPLAY_REMOVAL (R442): a removal enters its queue ahead of the tokens that wait there. -/
def stepReplayRemoval (k : Nat) (s : State) : State :=
  match s.net[k]? with
  | some (.removal r _ n side t) =>
    let s := s.drop k
    let x := s.site r n
    putSite s r n { x with q := fset x.q side (t :: fgetD x.q side []) }
  | _ => s

end Sys2Proof.Machine
end

