-- ==== Sys2Proof/Machine/Control.lean ====
section
/-! DEFINITION. The branch class (R360 to R362, R388 to R391): what each does when it fires; the branch takes effect at the commit. -/

namespace Sys2Proof.Machine

/-- The instruction fires and names what its block does at the commit. -/
def fireBranch (s : State) (t : Nat) (b : BrAct) (va vb : Option Operand) : State :=
  fireSlot s t (fun x => { x with ready := some (t + 1), br := some b, opa := va.map (·.val), opb := vb.map (·.val) })

/-- The target of a branch: the block's address plus the offset in units of 16 bytes (R360). -/
def branchTarget (r : BlockRun) (off : BitVec 24) : W64 := r.spec.baddr + off.signExtend 64 * 16

/-- A taken branch: a target that is not canonical faults (R360). -/
def takeBranch (s : State) (t : Nat) (a : W64) (va vb : Option Operand) : State :=
  if canonical a 16 then fireBranch s t (.goto a) va vb else fireFault s t 1 .noncanon 0 va vb

def stepBr (off : BitVec 24) (s : State) : State :=
  match beginFire s none none [] with
  | .wait => s
  | .over s => s
  | .go t _ => takeBranch s t (branchTarget s.curCore.run off) none none

/-- A conditional branch (R360). -/
def condBranch (c : Cond) (ty : Ty) (off : BitVec 24) (a b : Src) (s : State) : State :=
  match beginFire s none none [a, b] with
  | .wait => s
  | .over s => s
  | .go t vs =>
    if anyPoison vs then fireFault s t 1 .poison 0 vs[0]? vs[1]?
    else if branchTaken ty c (opVal vs 0) (opVal vs 1) then takeBranch s t (branchTarget s.curCore.run off) vs[0]? vs[1]?
    else fireBranch s t .fall vs[0]? vs[1]?

def stepBeq (t : Ty) (off : BitVec 24) (a b : Src) (s : State) : State := condBranch .eq t off a b s
def stepBne (t : Ty) (off : BitVec 24) (a b : Src) (s : State) : State := condBranch .ne t off a b s
def stepBlt (t : Ty) (off : BitVec 24) (a b : Src) (s : State) : State := condBranch .lt t off a b s
def stepBge (t : Ty) (off : BitVec 24) (a b : Src) (s : State) : State := condBranch .ge t off a b s
def stepBle (t : Ty) (off : BitVec 24) (a b : Src) (s : State) : State := condBranch .le t off a b s
def stepBgt (t : Ty) (off : BitVec 24) (a b : Src) (s : State) : State := condBranch .gt t off a b s

/-- call (R361): D takes the address of the next block in section order. -/
def stepCall (d : Dst) (off : BitVec 24) (s : State) : State :=
  match beginFire s none none [] with
  | .wait => s
  | .over s => s
  | .go t _ =>
    let r := s.curCore.run
    let a := branchTarget r off
    if !canonical a 16 then fireFault s t 1 .noncanon 0 none none
    else
      (land s t 1 d r.nextAddr false none none).modCore s.curKey (fun c => { c with
        run := c.run.setSlot c.run.cursor { c.run.slot c.run.cursor with br := some (.goto a) } })

/-- The checks of a return target (R361). -/
def targetBad (a : W64) (poi : Bool) : Option FCode :=
  if poi then some .poison else if a.toNat % 16 != 0 then some .align else if !canonical a 16 then some .noncanon else none

def stepRet (a : Src) (s : State) : State :=
  match beginFire s none none [a] with
  | .wait => s
  | .over s => s
  | .go t vs =>
    match targetBad (opVal vs 0) (opPoi vs 0) with
    | some c => fireFault s t 1 c 0 vs[0]? none
    | none => fireBranch s t (.goto (opVal vs 0)) vs[0]? none

/-- The fault handled came from a block core, and was no refused chained access (R389). -/
def coreTrap (s : State) : Bool :=
  match s.curCore.trapped, (s.region (s.curKey / 10)).trap with
  | some x, _ => !x.post || (refusedChain s (accessOf s.curKey x.rcd)).isNone
  | none, some x =>
    (match x.src with
     | .core _ => true
     | .post k => (refusedChain s (accessOf k x.rcd)).isNone
     | _ => false)
  | none, none => false

/-- tret (R389): only a block of the trap block fires it; with SUP a poisoned A faults, and for a core's fault A is checked as a
return target. -/
def stepTret (a : Src) (sup : Bool) (s : State) : State :=
  match beginFire s none none [a] with
  | .wait => s
  | .over s => s
  | .go t vs =>
    if !s.curCore.run.trap then s
    else if sup && opPoi vs 0 then fireFault s t 1 .poison 0 vs[0]? none
    else
      match if sup && coreTrap s then targetBad (opVal vs 0) false else none with
      | some c => fireFault s t 1 c 0 vs[0]? none
      | none => fireBranch s t (.tret sup (opVal vs 0)) vs[0]? none

/-- An instruction without operands that ends its block. -/
def endBranch (b : BrAct) (s : State) : State :=
  match beginFire s none none [] with
  | .wait => s
  | .over s => s
  | .go t _ => fireBranch s t b none none

def stepAret (s : State) : State := endBranch .aret s
def stepTend (s : State) : State := endBranch .tend s
def stepAbort (s : State) : State := endBranch .abort s
def stepHalt (s : State) : State := endBranch .halt s

/-- A core that has halted goes on at the next block. -/
def wake : Phase → Phase
  | .halted a => .start a
  | p => p

/-- MAILBOX_MESSAGE (R391): the oldest message reaches its Lodge mailbox and resumes the core where it halted. -/
def stepMailboxMessage (s : State) : State :=
  match s.inputs.mailbox with
  | [] => s
  | c :: cs =>
    let s := { s with inputs := { s.inputs with mailbox := cs }, mailbox := s.mailbox ++ [c] }
    let k := 640 + c % 8
    s.modCore k (fun x =>
      { x with
        phase := wake x.phase
        trapped := x.trapped.map (fun t => { t with resume := wake t.resume }) })

end Sys2Proof.Machine
end

