-- ==== Sys2Proof/Machine/Planes.lean ====
section
/-! DEFINITION. Configuration planes: the check of a plane record at load (R161 to R174, R329 to R332, R393 to R421), loads (R178, R179),
stillness, emptiness and swaps (R181 to R187), barriers (R189, R190), CFGST's sources (R180). -/

namespace Sys2Proof.Machine

/- The check of a record (R178, R179). -/

def fmtsAny : List Nat := [0, 1, 2, 3, 4, 5, 6, 7, 8]
def fmtsInt : List Nat := [0, 1, 5, 6, 7, 8]
def fmtsPk : List Nat := [3, 4, 5, 6, 7, 8]

/-- Arities and types of an element opcode (R330). -/
def fopRow (f : Nat) : Option (List Nat × List Nat) :=
  if f == 0x00 then some ([1, 2, 3, 4], [0, 1, 2, 3, 4, 5, 6, 7, 8, 9, 10, 11, 12, 13, 14, 15])
  else if 0x01 ≤ f && f ≤ 0x05 then some ([2], fmtsAny)
  else if 0x06 ≤ f && f ≤ 0x0C then some ([2], fmtsInt)
  else if f == 0x0D || f == 0x0E then some ([1], fmtsAny)
  else if f == 0x0F || f == 0x10 then some ([1], fmtsInt)
  else if f == 0x11 then some ([3], [2])
  else if f == 0x12 || f == 0x13 then some ([2], fmtsAny)
  else if f == 0x14 then some ([3], fmtsAny)
  else if f == 0x15 then some ([1], [2, 3, 4])
  else if f == 0x18 then some ([1], fmtsAny)
  else if f == 0x19 || f == 0x1A then some ([1], [2])
  else if f == 0x1B || f == 0x1C then some ([1], fmtsPk)
  else if f == 0x20 || f == 0x22 || f == 0x23 then some ([1], fmtsAny)
  else if f == 0x21 then some ([2], fmtsAny)
  else if f == 0x24 then some ([1], fmtsInt)
  else if f == 0x28 then some ([2, 3, 4], fmtsAny)
  else if f == 0x29 || f == 0x2A || f == 0x2B then some ([2], fmtsAny)
  else if f == 0x30 || f == 0x31 then some ([1], fmtsAny)
  else if f == 0x38 then some ([2], [2])
  else if f == 0x40 || f == 0x44 || f == 0x45 then some ([1], fmtsAny)
  else if f == 0x41 || f == 0x42 then some ([2], fmtsAny)
  else if f == 0x43 then some ([3], fmtsAny)
  else none

/-- A VC table entry with a format or a scale that R168 refuses. -/
def vceCfg (w : W16) : Bool :=
  let f := nbits w.toNat 3 0
  8 < f || (nbits w.toNat 11 4 != 0 && f != 4 && f != 5 && f != 6)

/-- A track is routed to an edge port with nothing attached (R161). -/
def edgeBad (n : Nat) (p : PlaneRec) : Bool :=
  let x := n % 32
  let y := n / 32
  let routed (o : Nat) : Bool := p.sw o != 0
  (y == 31 && (x < 20 || 27 < x) && (routed 0 || routed 1)) || (y == 0 && (routed 4 || routed 5))

/-- The TAGOP names no declared field, or is code 7 (R171, R172). -/
def tagopBad (l : List TagField) (t : Nat) : Bool :=
  tagopOp t == 7 || (1 ≤ tagopOp t && tagopOp t ≤ 5 && l.length ≤ tagopF t)

/-- A VC pairing that no conversion serves (R168, R280, R401). -/
def pairBad (p : PlaneRec) : Bool :=
  let n := fmtLanes p.ty
  let out := fmtLanes (p.vc p.ovc).fmt
  let ins := (List.range p.arity).map (fun q => fmtLanes (p.vc (p.qvc q)).fmt)
  if p.fop == 0x1B then ins.any (· != n) || out != 1
  else if p.fop == 0x1C then ins.any (· != 1) || out != n
  else if (0x01 ≤ p.fop && p.fop ≤ 0x24) || p.fop == 0x31 || p.fop == 0x38 then ins.any (· != n) || out != n
  else false

/-- A field of IMM that must be zero is not (R397, R398, R407, R408); a memory port uses TLK only with APT 0, and CH, SCK and PDK only when it is
chained (R412). -/
def immReserved (p : PlaneRec) : Bool :=
  let f := p.fop
  let i := p.imm
  if (0x01 ≤ f && f ≤ 0x0E) then i != 0
  else if f == 0x15 then nbits i 23 8 != 0
  else if f == 0x30 then nbits i 23 1 != 0
  else if f == 0x31 then nbit i 23
  else if 0x40 ≤ f && f ≤ 0x45 then
    nbits i 7 4 != 0 || nbits i 23 20 != 0 || (nbit i 3 && nbits i 2 0 != 0) || (f != 0x42 && f != 0x43 && nbits i 19 8 != 0)
  else false

/-- What an opcode's own rule refuses (R404, R408, R409, R411, R412). -/
def fopCfg (n : Nat) (p : PlaneRec) : Bool :=
  let i := p.imm
  match p.fop with
  | 0x28 => p.matched
  | 0x31 => nbits i 19 0 == 0 || nbits i 22 20 == 0
  | 0x38 => p.matched || p.policy != 0 || p.level == 0 || nbits i 23 3 != 0
  | 0x40 | 0x41 | 0x44 | 0x45 => n % 32 != 1
  | 0x42 | 0x43 => n % 32 != 1 || nbits i 17 16 == 3 || nbits i 19 18 == 3
  | _ => false

/-- The refusal of a fabric element's record. -/
def feBad (n : Nat) (p : PlaneRec) : Option FCode :=
  if p.ext != 0 then some .rsvd
  else
    match fopRow p.fop with
    | none => some .cfgop
    | some (ar, ty) =>
      if p.fop == 0 then none
      else if !ar.contains p.arity || !ty.contains p.ty || pairBad p || fopCfg n p then some .cfgop
      else if immReserved p then some .rsvd
      else none

/-- Tile types: opcode and, for a tile with queues, matching and arity (R331, R420). -/
def tileFop : SiteKind → Nat × Option (Bool × Nat)
  | .pt _ => (0xF0, none)
  | .mn _ => (0xF1, none)
  | .tlk _ => (0xF2, some (false, 1))
  | .cmt _ => (0xF3, some (false, 1))
  | .rsv _ => (0xF4, some (false, 2))
  | .spn _ => (0xF5, some (false, 4))
  | .xps _ => (0xF6, some (false, 1))
  | .mst _ => (0xF7, some (true, 2))
  | .fe => (0, none)

def extRest (p : PlaneRec) (lo : Nat) : Bool := p.ext.toNat >>> lo != 0

/-- The extension of a memory node (R222, R332). -/
def nodeExtBad (p : PlaneRec) : Option FCode :=
  let e := extBits p
  let n := e 5 2
  let size (i : Nat) : Nat := e (6 * i + 21) (6 * i + 16)
  if e 15 11 != 0 || extRest p 88 then some .rsvd
  else if 1 < e 1 0 || n == 0 || 12 < n || (e 1 0 == 0 && e 9 6 == 0) || (e 1 0 == 1 && (n != 2 || size 0 != size 1)) ||
      (List.range 12).any (fun i => if i < n then size i == 0 || 48 < size i else size i != 0) ||
      48 < ((List.range n).map size).sum then some .cfgop
  else none

/-- The extension of a tile (R332). -/
def extBad (l : List TagField) (n : Nat) (p : PlaneRec) : Option FCode :=
  let e := extBits p
  match siteKind n with
  | .pt y => if extRest p 6 then some .rsvd else if e 5 1 == y then some .cfgop else none
  | .mn _ => nodeExtBad p
  | .tlk _ =>
    if extRest p 64 then some .rsvd
    else if 6 < e 50 48 || (e 51 51 == 1 && (e 57 52 < 16 || 40 < e 57 52 || e 63 61 == 0)) then some .cfgop else none
  | .cmt _ => if extRest p 3 then some .rsvd else if !fieldGuarded l (e 2 0) then some .cfgop else none
  | .rsv _ => if extRest p 132 then some .rsvd else if e 130 128 == 0 then some .cfgop else none
  | .spn _ => if p.ext != 0 then some .rsvd else none
  | .xps _ => if extRest p 16 then some .rsvd else if e 6 1 == 0 || 32 < e 6 1 || e 15 8 == 0 || 128 < e 15 8 then some .cfgop else none
  | .mst _ =>
    if extRest p 7 then some .rsvd
    else if e 0 0 == 1 && (e 6 4 == 0 || l.length ≤ e 3 1) then some .cfgop else none
  | .fe => none

/-- The word of a special function tile (R420, R421). -/
def sfBad (l : List TagField) (n : Nat) (p : PlaneRec) (mode : Bool × Nat) : Bool :=
  p.matched != mode.1 || p.arity != mode.2 || p.ty != 0 || nbits p.word.toNat 87 80 != 0 || (p.policy != 0 && p.fop != 0xF3) ||
  (match siteKind n with
   | .spn _ =>
     nbits p.imm 1 0 == 0 || nbits p.imm 23 2 != 0 || (colourField l).isNone ||
       (List.range 3).any (fun q => nbits p.imm 1 0 ≤ q && p.qsel q != 0)
   | _ => false)

/-- The refusal of a tile's record. -/
def tileBad (l : List TagField) (n : Nat) (p : PlaneRec) : Option FCode :=
  let (f, mode) := tileFop (siteKind n)
  if p.fop == 0 then (if p.ext != 0 then some .rsvd else none)
  else if p.fop != f then some .cfgop
  else
    match extBad l n p with
    | some c => some c
    | none =>
      match mode with
      | some m => if sfBad l n p m then some .cfgop else none
      | none => none

/-- A reserved bit of the configuration word or the VC table is set (R166, R168). -/
def wordReserved (p : PlaneRec) : Bool :=
  nbits p.ovcByte 7 5 != 0 || nbits p.mkByte 7 6 != 0 || p.vct.any (fun w => nbits w.toNat 15 14 != 0)

/-- The refusal of a plane record at site n under a tag layout, if any. -/
def recordBad (l : List TagField) (n : Nat) (p : PlaneRec) : Option FCode :=
  if wordReserved p then some .rsvd
  else if 1 < p.mode || (p.matched && p.arity == 1) || tagopBad l p.tagop || 4 < p.policy || (List.range 8).any (fun o => 9 < p.sw o) || p.vct.any vceCfg || edgeBad n p then some .cfgop
  else
    match siteKind n with
    | .fe => feBad n p
    | _ => tileBad l n p

/-- A record from its 128 bytes (R178). -/
def recordOf (bs : List Byte) (pid : Nat) : PlaneRec :=
  { word := BitVec.ofNat 128 (leNat (bs.take 16))
    vct := (items 2 (bs.drop 16) 32).map (BitVec.ofNat 16)
    ext := BitVec.ofNat 384 (leNat ((bs.drop 80).take 48)), pid := pid }

/- Rectangles and the fields of the commands (R179, R443). -/

structure Rect where
  x0 : Nat
  y0 : Nat
  w : Nat
  h : Nat
  deriving DecidableEq, Repr

def Rect.ok (q : Rect) : Bool := 1 ≤ q.w && 1 ≤ q.h && q.x0 + q.w ≤ 32 && q.y0 + q.h ≤ 32
/-- Sites by ascending number. -/
def Rect.sites (q : Rect) : List Nat := (List.range q.h).flatMap (fun j => (List.range q.w).map (fun i => (q.y0 + j) * 32 + q.x0 + i))
def Rect.meets (a b : Rect) : Bool :=
  a.x0 < b.x0 + b.w && b.x0 < a.x0 + a.w && a.y0 < b.y0 + b.h && b.y0 < a.y0 + a.h

def Desc.rect (d : Desc) : Rect :=
  let w := d.word 3
  if d.kind == 0x32 then { x0 := nbits w 12 8, y0 := nbits w 17 13, w := nbits w 23 18, h := nbits w 29 24 }
  else { x0 := nbits w 20 16, y0 := nbits w 25 21, w := nbits w 31 26, h := nbits w 37 32 }
def Desc.pid (d : Desc) : Nat := nbits (d.word 3) 15 0
def Desc.flush (d : Desc) : Bool := nbit (d.word 3) 38
def Desc.bar (d : Desc) : Nat := nbits (d.word 3) 2 0
/-- The windows a barrier names. -/
def Desc.barWins (d : Desc) : List Nat :=
  ([nbits (d.word 4) 13 0, nbits (d.word 4) 29 16]).take (nbits (d.word 3) 31 30)

/-- The plane of the plan that a PID names. -/
def findPlane (s : State) (r pid : Nat) : Option PlaneSec :=
  match regionGang s r with
  | some (g, _) => (gangPlan s g).planes.find? (fun p => p.pid == pid)
  | none => none

/-- What a configuration command is refused for at issue (R179, R443). -/
def cfgBad (s : State) (d : Desc) : Option FCode :=
  let w := d.word 3
  match d.kind with
  | 0x30 =>
    if nbits w 63 38 != 0 || d.used 4 then some .rsvd
    else if !d.rect.ok || (d.pid != 0 && (findPlane s d.region d.pid).isNone) then some .desc else none
  | 0x31 => if nbits w 63 39 != 0 || d.used 4 then some .rsvd else if !d.rect.ok then some .desc else none
  | 0x32 =>
    if nbits w 7 3 != 0 || nbits w 63 32 != 0 || nbits (d.word 4) 15 14 != 0 || nbits (d.word 4) 63 30 != 0 || d.used 5 then some .rsvd
    else if !d.rect.ok || nbits w 31 30 == 3 then some .desc else none
  | _ => some .desc

def State.cfg (s : State) (r : Nat) : CfgUnit := (s.region r).cfg
def State.modCfg (s : State) (r : Nat) (f : CfgUnit → CfgUnit) : State := s.modRegion r (fun g => { g with cfg := f g.cfg })

/-- A new configuration command: held in issue order (R183, R422). -/
def acceptCfg (s : State) (d : Desc) : Option State :=
  match cfgBad s d with
  | some c => some (rejectDesc s d c 0)
  | none => some (s.modCfg d.region (fun x => { x with q := x.q ++ [{ d := d }] }))

/-- A chain goes on at the configuration bus, in the place of issue order that it holds there (R183). -/
def chainCfg (i : Nat) (s : State) (d : Desc) : State :=
  match cfgBad s d with
  | some c => rejectDesc s d c 0
  | none => s.modCfg d.region (fun x => { x with q := x.q.take i ++ { d := d } :: x.q.drop i })

/-- A swap or a barrier, or what follows it in its chain, holds back the Pergola's later engine commands (R183). -/
def cfgHolds (s : State) (r : Nat) : Bool := (s.cfg r).q.any (fun c => c.d.kind != 0x30)

def setCmd (s : State) (r i : Nat) (c : CfgCmd) : State := s.modCfg r (fun x => { x with q := x.q.set i c })
def dropCmd (s : State) (r i : Nat) : State := s.modCfg r (fun x => { x with q := x.q.eraseIdx i })

/-- Command i completes with V and its effect, and its chain goes on in its place. -/
def cfgAdvance (s : State) (r i : Nat) (c : CfgCmd) (v : Nat) (eff : State → State) : State :=
  advance s c.d v eff (fun s => dropCmd s r i) (fun s d => setCmd s r i { c with d := d }) (chainCfg i)

/-- The first command of a KIND that no earlier one with an overlapping rectangle precedes; one that has completed holds nothing back (R183). -/
def cmdTurn (q : List CfgCmd) (kind : Nat) (want : CfgCmd → Bool) : Option (Nat × CfgCmd) :=
  let first (told : Bool) : Option Nat := (List.range q.length).find? (fun i =>
    let c := q.getD i { d := {} }
    c.d.kind == kind && c.d.told == told && want c && (q.take i).all (fun e => e.d.told || !Rect.meets e.d.rect c.d.rect))
  ((first false).orElse (fun _ => first true)).map (fun i => (i, q.getD i { d := {} }))

/- Loads (R178, R179). -/

/-- A load is refused at site n (R179). One that a core issued is a post-commit fault of that core (R367); the launch path's own, which has
no descriptor, is raised by the configuration bus. -/
def loadFault (s : State) (r i : Nat) (d : Desc) (n : Nat) (c : FCode) (cause : Nat) : State :=
  if d.addr == 0 then
    raiseRegion (commandEnded (dropCmd s r i) d) r .cfgload
      { code := c.num, mid := regionMid r 40, x := n % 32, y := n / 32, aux := BitVec.ofNat 32 cause }
  else rejectDesc (dropCmd s r i) d c cause

/-- The record a load writes at site n: read from the plane section, or idle (R178, R443). -/
def loadRecord (s : State) (r n pid : Nat) : Sum (State × PlaneRec) UnitRes :=
  match (if pid == 0 then none else findPlane s r pid) with
  | none => .inl (s, { pid := pid })
  | some p =>
    let x := n % 32
    let y := n / 32
    if x < p.x0 || p.x0 + p.w ≤ x || y < p.y0 || p.y0 + p.h ≤ y then .inl (s, { pid := pid })
    else
      match unitReadMany s r 40 .fetch 8 16 (p.va + BitVec.ofNat 64 (32 + ((y - p.y0) * p.w + (x - p.x0)) * 128)) with
      | .ok s bs poi => if poi then .inr (.fault s FCode.poison.num 0) else .inl (s, recordOf bs pid)
      | u => .inr u

/-- CFG_LOAD (R179): the next site of the first load that may go on takes its shadow record, which is checked first. -/
def stepCfgLoad (r : Nat) (s : State) : State :=
  if (s.region r).gang.isNone then s
  else
    match cmdTurn (s.cfg r).q 0x30 (fun c => c.done < c.d.rect.w * c.d.rect.h) with
    | none => s
    | some (i, c) =>
      let n := c.d.rect.sites.getD c.done 0
      match loadRecord s r n c.d.pid with
      | .inr (.wait s) => s
      | .inr (.fault s code cause) => loadFault s r i c.d n (FCode.ofNum code) cause
      | .inr (.ok s _ _) => s
      | .inl (s, p) =>
        match recordBad (s.region r).layout n p with
        | some e => loadFault s r i c.d n e 0
        | none =>
          let y := s.site r n
          setCmd (s.setSite r n { y with sha := p }) r i { c with done := c.done + 1 }

/-- CFG_LOAD_COMPLETE (R179, R180): every record is written; V is their number. -/
def stepCfgLoadComplete (r : Nat) (s : State) : State :=
  match cmdTurn (s.cfg r).q 0x30 (fun c => c.done == c.d.rect.w * c.d.rect.h) with
  | none => s
  | some (i, c) => cfgAdvance s r i c c.done (fun s => s.modCfg r (fun x => { x with lpid := c.d.pid }))

/- Stillness and emptiness (R181). -/

/-- No token has moved at a site of the rectangle for 64 cycles. -/
def rectStill (s : State) (r : Nat) (q : Rect) : Bool :=
  q.sites.all (fun n =>
    match (s.site r n).moved with
    | some c => c + 64 ≤ s.cyc
    | none => true)

/-- BELVEDERE_STILL (R84, R181): 64 cycles after the last movement of the region the Belvedere latches still. -/
def stepBelvedereStill (r : Nat) (s : State) : State :=
  match (s.region r).moved with
  | some c => if c + 64 ≤ s.cyc then s.modRegion r (fun g => { g with moved := none }) else s
  | none => s

/-- A token or a state in a place of R181: the place code, and what the record of F_STRAY says of it (R186). -/
structure Stray where
  site : Nat
  place : Nat
  tag : W64 := 0
  opa : W64 := 0
  opb : W64 := 0
  deriving DecidableEq, Repr

def kindNum : TokKind → Nat
  | .data => 0 | .mark => 1 | .ctl => 2 | .fault => 3

def tokStray (n place : Nat) (t : Token) : Stray :=
  { site := n, place := place, tag := t.tag, opa := t.v.setWidth 64
    opb := BitVec.ofNat 64 (t.vc + kindNum t.kind * 32 + t.lvl * 128 + (if t.poi then 1024 else 0)) }

def numStray (n place k : Nat) : Stray := { site := n, place := place, opa := BitVec.ofNat 64 k }

/-- Two records of a memory node give its buffers the same layout. -/
def sameBufs (a b : PlaneRec) : Bool := a.fop == b.fop && extBits a 5 0 == extBits b 5 0 && extBits a 87 16 == extBits b 87 16

/-- Open entries of CMT tiles that stand at site n: the values done of its field (R242). -/
def cmtOpen (g : Region) (x : Site) : List Nat := fgetD g.cmt (extBits x.act 2 0) []

/-- What stands at place 15 of a site; `first` says that no SPN tile that the rectangle's planes use precedes it: there the region's colours in
use are counted. DESIGN CHOICE, log 47. -/
def sfStrays (s : State) (r n : Nat) (first : Bool) : List Stray :=
  let g := s.region r
  let x := s.site r n
  if x.act.fop == 0 then []
  else
    match siteKind n with
    | .spn _ => if first then g.colours.map (fun c => numStray n 15 c.1) else []
    | .tlk t => ((s.tlk r t).entries.filter (fun e => e.2.pins != 0)).map (fun e => numStray n 15 e.1)
    | .mst _ => (List.range (x.store.length + x.issue.length)).map (numStray n 15)
    | .cmt _ => (cmtOpen g x).map (numStray n 15)
    | .pt _ => (List.range x.arc.length).map (numStray n 15)
    | _ => []

/-- Emissions that an operation has still to make: the lanes of unpk, the copies of rpt (R401, R406). -/
def pendingToks (x : Site) : List Token :=
  let ts := if x.act.fop == 0x1B then x.coll else if x.act.fop == 0x2B then List.replicate x.copies (x.s0.getD {}) else []
  ts.map (fun t => { t with vc := x.act.ovc })

/-- Tokens held towards an incomplete group: of pack, an XPS, the sides of a cfw. -/
def groupToks (x : Site) : List Token := if x.act.fop == 0x1B || x.act.fop == 0x2B then [] else x.coll ++ x.s0.toList ++ x.s1.toList

/-- What the places of a site hold, in the order of R186. -/
def siteStrays (s : State) (r n : Nat) (first : Bool) : List Stray :=
  let x := s.site r n
  let mst := x.act.fop == 0xF7
  let entries := x.store ++ x.issue
  x.bufs.flatMap (fun b => b.2.map (fun t => tokStray n (b.1 / 32) t.tok)) ++
    x.q.flatMap (fun q => q.2.map (tokStray n (8 + q.1))) ++
    (if mst then [] else entries.flatMap (fun e => (e.slots.filterMap id).map (tokStray n 12))) ++
    (groupToks x).map (tokStray n 12) ++
    (x.out.map (·.tok) ++ pendingToks x).map (tokStray n 13) ++
    (match siteKind n with
     | .mn m => if sameBufs x.act x.sha then [] else ((s.node r m).bufs.filter (fun b => 0 < b.2.count)).map (fun b => numStray n 14 b.1)
     | _ => []) ++
    sfStrays s r n first

def isSpn (n : Nat) : Bool := n == 16 * 32 + 27 || n == 17 * 32 + 27

def rectStrays (s : State) (r : Nat) (q : Rect) : List Stray :=
  let ns := q.sites
  let before := ns.contains (16 * 32 + 27) && (s.site r (16 * 32 + 27)).act.fop != 0
  ns.flatMap (fun n => siteStrays s r n (isSpn n && !(n == 17 * 32 + 27 && before)))

/-- F_STRAY of a swap or a barrier (R186). -/
def strayRec (r : Nat) (x : Stray) (n : Nat) : FaultRec :=
  { code := FCode.stray.num, mid := regionMid r 40, x := x.site % 32, y := x.site / 32, flg := 3, tag := x.tag, opa := x.opa, opb := x.opb
    aux := BitVec.ofNat 32 (x.place + min n 255 * 256) }

/- The swap (R182). -/

/-- Swap one site: what its places hold is gone, its planes change places, its accumulator and store are clear (R182, R202, R403). -/
def swapSite (x : Site) : Site :=
  { act := x.sha, sha := x.act, rr := x.rr, reqs := x.reqs, moved := x.moved, acc := accResetLanes x.sha, last := x.last }

/-- What a swap of site n does to the region's units: colours, pins, entries, buffers (R181, R182). -/
def swapUnits (g : Region) (n : Nat) : Region :=
  let x := fgetD g.sites n {}
  match siteKind n with
  | .mn m => if sameBufs x.act x.sha then g else { g with nodes := ferase g.nodes m }
  | .spn _ => if x.act.fop == 0 then g else { g with colours := [] }
  | .tlk t => { g with tlks := fmodify g.tlks t (fun k => { k with entries := k.entries.filter (fun e => e.2.pins == 0) }) }
  | .cmt _ => if x.act.fop == 0 then g else { g with cmt := ferase g.cmt (extBits x.act 2 0) }
  | _ => g

def swapRect (s : State) (r : Nat) (q : Rect) : State :=
  q.sites.foldl (fun s n => (s.modRegion r (fun g => swapUnits g n)).setSite r n (swapSite (s.site r n))) s

/-- CFG_SWAP (R182, R183): the swap whose turn has come checks the PIDs and waits for stillness. -/
def stepCfgSwap (r : Nat) (s : State) : State :=
  if (s.region r).gang.isNone then s
  else
    match cmdTurn (s.cfg r).q 0x31 (fun c => !c.waits && !c.arrived) with
    | none => s
    | some (i, c) =>
      if c.d.rect.sites.any (fun n => (s.site r n).sha.pid != c.d.pid) then rejectDesc (dropCmd s r i) c.d .cfgop 0
      else setCmd s r i { c with waits := true }

/-- No fault of the region awaits its record or runs its trap. -/
def noFault (s : State) (r : Nat) : Bool := (s.region r).faults.isEmpty && (s.region r).trap.isNone

/-- The completion of a swap that has been performed leaves. -/
def swapComplete (s : State) (r i : Nat) (c : CfgCmd) : State := cfgAdvance s r i c c.v id

/-- SWAP_PERFORM (R182, R186): in one step, once the rectangle is still. -/
def stepSwapPerform (r : Nat) (s : State) : State :=
  match cmdTurn (s.cfg r).q 0x31 (fun c => c.waits || c.arrived) with
  | none => s
  | some (i, c) =>
    if c.arrived then swapComplete s r i c
    else if !rectStill s r c.d.rect || !noFault s r then s
    else
      let l := rectStrays s r c.d.rect
      match l, c.d.flush with
      | x :: _, false => raiseRegion (commandEnded (dropCmd s r i) c.d) r .stray (strayRec r x l.length)
      | _, _ =>
        let s := (swapRect s r c.d.rect).modCfg r (fun y => { y with apid := c.d.pid, flsh := (y.flsh + l.length) % 65536 })
        let c' := { c with waits := false, arrived := true, v := l.length }
        swapComplete (setCmd s r i c') r i c'

/- Barriers (R189, R190). -/

/-- BAR: the barrier whose turn has come waits for stillness. -/
def stepBar (r : Nat) (s : State) : State :=
  if (s.region r).gang.isNone then s
  else
    match cmdTurn (s.cfg r).q 0x32 (fun c => c.d.told || (!c.waits && !c.arrived)) with
    | none => s
    | some (i, c) => if c.d.told then cfgAdvance s r i c 0 id else setCmd s r i { c with waits := true }

/-- BARRIER_ARRIVE (R189): the rectangle is still and empty; otherwise F_STRAY. It waits while a fault of the region awaits or runs its trap, as
a swap does (R182). DESIGN CHOICE, log 47. -/
def stepBarrierArrive (r : Nat) (s : State) : State :=
  match cmdTurn (s.cfg r).q 0x32 (fun c => c.waits) with
  | none => s
  | some (i, c) =>
    if !rectStill s r c.d.rect || !noFault s r then s
    else
      let l := rectStrays s r c.d.rect
      match l with
      | x :: _ => raiseRegion (commandEnded (dropCmd s r i) c.d) r .stray (strayRec r x l.length)
      | [] => setCmd s r i { c with waits := false, arrived := true }

/-- The barrier a region has arrived at. -/
def arrivedBar (s : State) (r : Nat) : Option (Nat × CfgCmd) := cmdTurn (s.cfg r).q 0x32 (fun c => c.arrived && !c.d.told)

/-- Retire the windows that a region named: those that are not OPEN give F_WINSTATE there (R443). -/
def barRetire (s : State) (r : Nat) (d : Desc) (open_ : List Nat) : State :=
  d.barWins.foldl (fun s w =>
    if !open_.contains w then refuseDesc s d .winstate 0
    else if (s.win w).st == .opened then beginRetire s w (.core (r * 10))
    else s) s

/-- BARRIER_COMPLETE (R189, R190, R443): every region of the gang has arrived at the same barrier; its windows are retired once, and
each region's command completes with V = 0. -/
def stepBarrierComplete (gang : Nat) (s : State) : State :=
  let g := s.gang gang
  let bars := g.regions.filterMap (fun r => (arrivedBar s r).map (fun c => (r, c)))
  let fresh := bars.all (fun b => b.2.2.v == 0)
  if g.regions.isEmpty || (fresh && (bars.length < g.regions.length || !bars.all (fun b => b.2.2.d.bar == ((bars.head?.map (fun c => c.2.2.d.bar)).getD 0)))) then s
  else
    let open_ := (bars.flatMap (fun b => b.2.2.d.barWins)).filter (fun w => (s.win w).st == .opened)
    let s := if fresh then
        bars.foldl (fun s b => setCmd (barRetire s b.1 b.2.2.d open_) b.1 b.2.1 { b.2.2 with v := 1 }) s
      else s
    bars.foldl (fun s b => if fresh || b.2.2.v == 1 then cfgAdvance s b.1 b.2.1 { b.2.2 with v := 1 } 0 id else s) s

end Sys2Proof.Machine
end

