-- ==== Sys2Proof/Machine/Pergola.lean ====
section
/-! DEFINITION. The parser of a region's Pergola (R191 to R212): how the lead stream becomes terminals, stack steps, mismatch and recovery,
the settled ordinal. -/

namespace Sys2Proof.Machine

def State.parser (s : State) (r : Nat) : Parser := (s.region r).parser
def State.setParser (s : State) (r : Nat) (p : Parser) : State := s.modRegion r (fun g => { g with parser := p })

/-- The parser's state becomes st; while an action runs, it does so as the action ends (R389). -/
def Parser.goTo (p : Parser) (st : PgState) : Parser := if p.st == .action then { p with back := st } else { p with st := st }

/-- The grammar of the plan that region r runs. -/
def grammarOf (s : State) (r : Nat) : Grammar :=
  match (s.region r).gang with
  | some g => (gangPlan s g).gram
  | none => {}

/- The mark queue (R193). -/

/-- A box of the lead track has sent its last token, and no mark closes its last run: the command's end enqueues the DR (R193). -/
def leadEnds (s : State) (r y t : Nat) : Bool :=
  (s.pt r y).chains.any (fun c =>
    let b := c.box
    b.started && !b.ended && !b.closed && b.fault.isNone && sendsOn b.d t && b.d.total ≤ b.pos && b.toks.isEmpty &&
      (b.group != 0 || b.d.endl == 0)) && !onTrack (s.site r (y * 32)) t

/-- The lead port's run is closed: its DR, where there is one (R193, R210). -/
def drEntry (s : State) (r y t ord : Nat) : List MqEntry :=
  let n := fgetD (s.pt r y).run t 0
  if n == 0 then [] else [{ term := 0, ord := ord, cnt := n, pos := (s.region r).leadPos - n }]

def enqueueMarks (s : State) (r y t : Nat) (es : List MqEntry) : State :=
  let s := s.modPt r y (fun p => { p with run := ferase p.run t })
  s.setParser r { s.parser r with mq := (s.parser r).mq ++ es }

/-- MARK_ENQUEUE (R191 to R193): a mark leaves on the lead track as its entry, and the DR it closes, enter the queue; or a command that
ends after data enqueues its DR. -/
def stepMarkEnqueue (r : Nat) (s : State) : State :=
  let g := s.region r
  let y := g.lead.1
  let t := g.lead.2
  let n := y * 32
  let mk := fgetD (s.pt r y).marks t 0
  let room (es : List MqEntry) : Bool := g.parser.mq.length + es.length ≤ 16
  if g.gang.isNone then s
  else if leadMark s r n (2 + t) then
    let lvl := match grantVc s r n (2 + t) with
      | some vc => ((srcHead n (s.site r n) (2 + t) vc).map (·.lvl)).getD 0
      | none => 0
    let es := drEntry s r y t ((mk + 2 ^ 40 - 1) % 2 ^ 40) ++ [{ term := lvl, ord := mk, cnt := 0, pos := g.leadPos }]
    if room es then hop (enqueueMarks s r y t es) r n (2 + t) else s
  else
    let es := drEntry s r y t mk
    if !es.isEmpty && leadEnds s r y t && room es then enqueueMarks s r y t es else s

/- The settled ordinal (R202, R208, R209). -/

/-- a is at or after m among 40-bit ordinals. -/
def ordReached (a m : Nat) : Bool := (a + 2 ^ 40 - m) % 2 ^ 40 < 2 ^ 39

/-- An entry sent while the parser's ordinal was m or earlier has not been delivered: it is on its way, or waits at its site. -/
def entriesPending (s : State) (r m : Nat) : Bool :=
  s.net.any (fun x => match x with
    | .tact q _ e => q == r && ordReached m e.gen
    | _ => false) ||
  (s.region r).sites.any (fun x => x.2.aqWait.any (fun e => ordReached m e.gen))

/-- Some entry of the region has not been delivered. -/
def anyPending (s : State) (r : Nat) : Bool :=
  s.net.any (fun x => match x with
    | .tact q _ _ => q == r
    | _ => false) || (s.region r).sites.any (fun x => !x.2.aqWait.isEmpty)

/-- Settled is to rise to m: at once where nothing stands before it. -/
def settleTo (s : State) (r m : Nat) : State :=
  let p := s.parser r
  if p.raises.isEmpty && !entriesPending s r m then s.setParser r { p with settled := some m }
  else s.setParser r { p with raises := p.raises ++ [m] }

/-- SETTLED_RAISE (R202, R209): the entries sent have been delivered, and settled rises; after a reset the parser goes on. -/
def stepSettledRaise (r : Nat) (s : State) : State :=
  let p := s.parser r
  if (s.region r).gang.isNone then s
  else
    match p.raises with
    | m :: ms => if entriesPending s r m then s else s.setParser r { p with settled := some m, raises := ms }
    | [] =>
      if p.recovering then
        (match p.resetAt with
         | some m =>
           if anyPending s r then s
           else s.setParser r { p.goTo .parse with settled := some m, recovering := false, resetAt := none }
         | none => s)
      else if p.st == .done && !anyPending s r then s.setParser r { p with settled := none }
      else s

/- Stack steps (R197, R207). -/

/-- The parser may move: no trap block runs, and no pre-emption has stopped it. -/
def parserMoves (s : State) (r : Nat) : Bool :=
  let g := s.region r
  g.gang.isSome && g.trap.isNone && g.stopped.isNone && !g.faults.any (fun w => w.src == .mismatch || w.src == .stackovf)

/-- The record of a mismatch at head h (R210). -/
def mismatchRecord (s : State) (r : Nat) (h : MqEntry) (enters : Bool) : FaultRec :=
  let p := s.parser r
  let top := p.stack.headD 0xFFF
  { s.stamp r { code := FCode.mismatch.num, mid := regionMid r 40, flg := 3
                opa := BitVec.ofNat 64 (h.term + h.ord * 256), opb := BitVec.ofNat 64 h.cnt
                aux := BitVec.ofNat 32 (top + p.stack.length * 4096 + if enters then 2 ^ 31 else 0) } with
    pos := BitVec.ofNat 64 h.pos }

/-- The head fits no entry (R207). -/
def mismatch (s : State) (r : Nat) (h : MqEntry) : State :=
  let p := s.parser r
  if (grammarOf s r).rcv && !p.discEnd then
    let s := regionRecord s r (mismatchRecord s r h true)
    s.setParser r { s.parser r with st := .mismatch, ovf := false }
  else
    let rcd := mismatchRecord s r h false
    s.modRegion r (fun g => { g with faults := g.faults ++ [{ src := .mismatch, rcd := rcd, cyc := s.cyc }], parser := { g.parser with st := .trap, ovf := false } })

/-- Expand a nonterminal (R197): beyond 64 entries nothing is popped or pushed. -/
def expand (s : State) (r prod : Nat) : State :=
  let p := s.parser r
  let rhs := ((grammarOf s r).prods.getD prod (0, [])).2
  if 64 < p.stack.length - 1 + rhs.length then
    raiseRegion (s.setParser r { p with st := .trap }) r .stackovf { code := FCode.stackovf.num, mid := regionMid r 40 }
  else s.setParser r { p with stack := rhs ++ p.stack.drop 1 }

/-- The head matches the terminal on top (R197, R198). -/
def matchHead (p : Parser) (h : MqEntry) : Parser :=
  let p := { p with stack := p.stack.drop 1, mq := p.mq.drop 1, discEnd := false }
  if h.term == 0 then { p with drc := h.cnt, afterDr := true }
  else { p with ord := h.ord, drc := if p.afterDr then p.drc else 0, afterDr := false }

/-- The parser needs a head: settled is to rise to the last mark matched (R202), unless a recovery has raised it further (R209). -/
def needHead (p : Parser) : Parser :=
  let last : Option Nat := match p.raises.getLast? with
    | some m => some m
    | none => p.settled
  match last with
  | none => p
  | some l => if ordReached l p.ord then p else { p with raises := p.raises ++ [p.ord] }

/-- PARSE_STEP (R197, R198): one stack step. After the `tret` of an F_STACKOVF the top of the stack, sole or not, mismatches at the head
(R197, R211). -/
def stepParseStep (r : Nat) (s : State) : State :=
  let p := s.parser r
  if !parserMoves s r || p.st != .parse then s
  else
    match p.stack with
    | [] => s.setParser r { p with st := .done }
    | x :: rest =>
      if 0x400 ≤ x then
        let a := (grammarOf s r).acts.getD (x - 0x400) 0
        (s.setParser r { p with stack := rest, st := .action }).modCore (r * 10) (fun c => { c with phase := .start a })
      else
        let row := (grammarOf s r).cells.getD x []
        let c0 := row.getD 0 0
        if !p.ovf && x < 0x100 && nbit c0 15 && nbit c0 14 then expand s r (nbits c0 9 0)
        else
          let p := needHead p
          let s := s.setParser r p
          match p.mq with
          | [] => s
          | h :: _ =>
            if p.ovf then mismatch s r h
            else if 0x100 ≤ x then (if x == 0x100 + h.term then s.setParser r (matchHead p h) else mismatch s r h)
            else
              let c := row.getD h.term 0
              if nbit c 15 then expand s r (nbits c 9 0) else mismatch s r h

/-- MISMATCH_DISCARD (R207, R208): one entry a step, until a mark ends the discard. -/
def stepMismatchDiscard (r : Nat) (s : State) : State :=
  let p := s.parser r
  if !parserMoves s r || p.st != .mismatch || p.resetAt.isSome then s
  else
    match p.mq with
    | [] => s
    | h :: hs =>
      if h.term == 0 then s.setParser r { p with mq := hs, afterDr := true }
      else if h.term < (grammarOf s r).lvl then settleTo (s.setParser r { p with mq := hs, ord := h.ord, drc := 0, afterDr := false }) r h.ord
      else if h.term == 7 then s.setParser r { p with resetAt := some h.ord, discEnd := true }
      else s.setParser r { p with mq := hs, ord := h.ord, drc := 0, afterDr := false, resetAt := some h.ord }

/-- The stack cut back to the topmost RESET, or the start symbol alone (R209). -/
def cutStack (g : Grammar) (st : List Nat) : List Nat :=
  let rest := st.dropWhile (fun x => x != g.reset)
  if rest.isEmpty then [g.start] else rest

/-- RECOVERY_RESET (R206, R209): the stack is cut back and the recovery entries leave. -/
def stepRecoveryReset (r : Nat) (s : State) : State :=
  let p := s.parser r
  let g := grammarOf s r
  match p.resetAt with
  | some m =>
    if !parserMoves s r || p.st != .mismatch || p.recovering then s
    else
      let s := s.setParser r { p with stack := cutStack g p.stack, recovering := true }
      g.pois.foldl (fun s n => s.send (.tact r n { ord := m % 2 ^ 32, fn := .emit, v := 0, poison := true, gen := m })) s
  | none => s

/-- DONE_TERMINAL (R200, R207): a terminal after the parse is complete is recorded and discarded. -/
def stepDoneTerminal (r : Nat) (s : State) : State :=
  let p := s.parser r
  if (s.region r).gang.isNone || (s.region r).trap.isSome || p.st != .done then s
  else
    match p.mq with
    | [] => s
    | h :: _ =>
      let s := regionRecord s r (mismatchRecord s r h false)
      s.setParser r { s.parser r with mq := (s.parser r).mq.drop 1 }

end Sys2Proof.Machine
end

