-- ==== Sys2Proof/Machine/Trellis.lean ====
section
/-! DEFINITION. The Trellis (R254 to R271, R441): loads of wiring and tables, runs, and what a fault leaves. -/

namespace Sys2Proof.Machine

def State.trl (s : State) (r : Nat) : Trellis := (s.region r).trl
def State.modTrl (s : State) (r : Nat) (f : Trellis → Trellis) : State := s.modRegion r (fun g => { g with trl := f g.trl })

/- Fields of the bodies (R441). -/

def Desc.tctx (d : Desc) : Nat := nbits (d.word 3) 2 0
def Desc.tlvl (d : Desc) : Nat := nbits (d.word 3) 6 3
def Desc.tc0 (d : Desc) : Nat := nbits (d.word 3) 15 8
def Desc.tnc (d : Desc) : Nat := nbits (d.word 3) 24 16
def Desc.tsm (d : Desc) : Bool := nbit (d.word 3) 25
def Desc.tsrk (d : Desc) : Bool := nbit (d.word 3) 26
def Desc.tsrc (d : Desc) : W64 := d.words.getD 4 0
/-- Levels used. -/
def Desc.tnl (d : Desc) : Nat := nbits (d.word 3) 6 3 + 1
def Desc.tmkp (d : Desc) : Bool := nbit (d.word 3) 7
def Desc.tstore (d : Desc) : Bool := nbit (d.word 3) 8
def Desc.tnin (d : Desc) : Nat := nbits (d.word 3) 19 9
def Desc.tibase (d : Desc) : Nat := nbits (d.word 3) 29 20
def Desc.tnout (d : Desc) : Nat := nbits (d.word 3) 37 30 + 1
def Desc.tobase (d : Desc) : Nat := nbits (d.word 3) 47 38
/-- Attach tracks as attach × 2 + track, the key of the waiting tokens. -/
def Desc.tiprt (d : Desc) : Nat := nbits (d.word 3) 50 48 * 2 + nbits (d.word 3) 51 51
def Desc.toprt (d : Desc) : Nat := nbits (d.word 3) 54 52 * 2 + nbits (d.word 3) 55 55
def Desc.tovc (d : Desc) : Nat := nbits (d.word 3) 60 56

/-- A table load by reference covers whole tiles of an OPEN window (R105, R262). -/
def tabWhole (s : State) (key off : Nat) (d : Desc) : Bool :=
  off % tileSize (s.win key) == 0 && d.tnc * 8 % tileSize (s.win key) == 0

/-- What a Trellis command is refused for at issue (R260 to R263, R441). -/
def trlBad (s : State) (d : Desc) : Option FCode :=
  let w := d.word 3
  let loadBad := d.tnc == 0 || 256 < d.tc0 + d.tnc
  match d.kind with
  | 0x20 =>
    if nbit w 7 || nbits w 63 25 != 0 || d.used 5 then some .rsvd
    else if loadBad || d.tsrc.toNat % 16 != 0 then some .desc else none
  | 0x21 =>
    if nbit w 7 || nbits w 63 27 != 0 || (d.tsrk && refBad d.tsrc) || d.used 5 then some .rsvd
    else if loadBad || (!d.tsrk && d.tsrc.toNat % 8 != 0) then some .desc
    else if d.tsrk && (s.win (refKey d.tsrc)).st != .opened then some .winstate
    else if d.tsrk && d.tsm && !tabWhole s (refKey d.tsrc) 0 d then some .cntpart else none
  | 0x22 =>
    if nbits w 63 61 != 0 || d.used 5 then some .rsvd
    else if 1024 < d.tibase + d.tnin || (d.tstore && 1024 < d.tobase + d.tnout) || (!d.tstore && d.tobase != 0) ||
        (d.tstore && (nbits w 55 52 != 0 || d.tovc != 0 || d.tsrc != 0)) ||
        (d.tnin == 0 && !d.tmkp && nbits w 51 48 != 0) then some .desc else none
  | _ => some .desc

/-- A counted load by address, where the place of its source is known, covers part of a tile (R262). -/
def tabPartial (s : State) (r : Nat) (c : TrlCmd) : Bool :=
  if c.d.kind != 0x21 || c.d.tsrk || !c.d.tsm || c.prog != 0 then false
  else
    match unitTr s r 41 .cread c.d.tsrc 8 with
    | .ok s (.win die w off) => !tabWhole s (die * 4096 + w) off c.d
    | _ => false

/-- What a Trellis command is refused for at issue (R260 to R263); a load whose translation is withheld then is judged as its turn comes. -/
def trlRefused (s : State) (d : Desc) : Option FCode :=
  match trlBad s d with
  | some c => some c
  | none => if tabPartial s d.region { chain := 0, d := d } then some .cntpart else none

def pushTrl (s : State) (n : Nat) (d : Desc) : State :=
  s.modTrl d.region (fun t => { t with
    q := t.q ++ [{ chain := n, d := d }], nexts := if d.next == 0 then t.nexts else t.nexts ++ [(n, d.next, d.by_)] })

/-- A new Trellis command (R260): eight are queued. -/
def acceptTrl (s : State) (d : Desc) : Option State :=
  match trlRefused s d with
  | some c => some (rejectDesc s d c 0)
  | none =>
    let t := s.trl d.region
    if 8 ≤ t.q.length then none
    else some (pushTrl (s.modTrl d.region (fun t => { t with chains := t.chains + 1 })) t.chains d)

/-- The next descriptor of a chain enters as soon as the queue has room (R260). -/
def trlRefill (s : State) (r : Nat) : State :=
  let t := s.trl r
  match t.nexts with
  | [] => s
  | (n, a, by_) :: rest =>
    if 8 ≤ t.q.length then s
    else
      match readDesc s a by_ with
      | .wait s => s
      | .refuse s c => refuseDesc (s.modTrl r (fun t => { t with nexts := rest })) { addr := a, by_ := by_ } c 0
      | .fault s code cause =>
        (s.modTrl r (fun t => { t with nexts := rest })).send
          (.fault by_.core (postRecord by_.core code cause by_.idx a by_.baddr 0) none)
      | .ok s d =>
        let s := countCmd (s.modTrl r (fun t => { t with nexts := rest })) d
        match trlRefused s d with
        | some c => rejectDesc s d c 0
        | none => pushTrl s n d

/-- The command at place i changes, or leaves the queue. -/
def setTrlCmd (s : State) (r i : Nat) (c : TrlCmd) : State := s.modTrl r (fun t => { t with q := t.q.set i c })
def dropTrlCmd (s : State) (r i : Nat) : State := s.modTrl r (fun t => { t with q := t.q.eraseIdx i })

/-- A command refused as its turn comes ends its chain (R424). -/
def rejectTrl (s : State) (r i : Nat) (c : FCode) : State :=
  match (s.trl r).q[i]? with
  | none => s
  | some x =>
    let gone := ((s.trl r).q.drop (i + 1)).filter (fun y => y.chain == x.chain)
    let s := s.modTrl r (fun t => { t with
      q := t.q.take i ++ (t.q.drop (i + 1)).filter (fun y => y.chain != x.chain), nexts := t.nexts.filter (fun y => y.1 != x.chain) })
    rejectDesc (gone.foldl (fun s y => commandEnded s y.d) s) x.d c 0

/-- The loads of a KIND that no earlier command of their context stands before: none waits for another (R264). -/
def loadTurns (q : List TrlCmd) (kind : Nat) : List Nat :=
  (List.range q.length).filter (fun i =>
    match q[i]? with
    | some c => c.d.kind == kind && (q.take i).all (fun e => e.d.tctx != c.d.tctx)
    | none => false)

/-- The Trellis faults: its record names the cell, the command at place i ends with V once the trap block has returned (R270). -/
def trlFault (s : State) (r i code v aux : Nat) (tag : W64) : State :=
  raiseRegion (s.modTrl r (fun t => { t with frozen := some { code := code, tag := tag, aux := aux }, endAt := some (i, v) })) r .trellis
    { code := code, mid := regionMid r 41, tag := tag, aux := BitVec.ofNat 32 aux }

/-- AUX of a cell (R270). -/
def cellAux (ctx lvl c : Nat) : Nat := c + lvl * 256 + ctx * 65536

/-- AUX of a load's fault: an over-read names the tile's sequence, an F_XLATE its cause, any other the cell (R107, R126, R270). -/
def unitAux (code cause cell : Nat) : Nat := if code == FCode.rdexcess.num || code == FCode.xlate.num then cause else cell

def cellKey (ctx lvl c : Nat) : Nat := ctx * 4096 + lvl * 256 + c

/-- What R256 refuses in a wiring record. -/
def wiringBad (lvl : Nat) (x : Nat) : Option FCode :=
  let sels := (List.range 6).map (fun k => nbits x (16 * k + 15) (16 * k))
  let bad (v : Nat) : Option FCode :=
    if nbits v 15 12 != 0 then some .rsvd
    else
      match nbits v 11 10 with
      | 0 => none
      | 1 => if nbits v 9 8 != 0 then some .rsvd else if lvl == 0 then some .cfgop else none
      | 2 => if nbits v 9 1 != 0 then some .rsvd else none
      | _ => some .rsvd
  match sels.findSome? bad with
  | some c => some c
  | none => if nbits x 127 96 != 0 then some .rsvd else none

/-- A load has written one more record: the context is marked in LDM (R267). -/
def noteLoaded (s : State) (r ctx : Nat) : State :=
  s.modTrl r (fun t => { t with ldm := if nbit t.ldm ctx then t.ldm else t.ldm + 2 ^ ctx })

/-- A wiring record is fetched with X (R261). DEDUCED, log 21: a plan's data windows carry R and W only (R314), and the manual's program BITVOTE
loads its wiring from one, so a fetch that is refused is made as a plain read. -/
def wiringRead (s : State) (r : Nat) (a : W64) : UnitRes :=
  match unitRead s r 41 .fetch a 16 with
  | .fault s1 code cause =>
    (match unitRead s r 41 .read a 16 with
     | .fault _ _ _ => .fault s1 code cause
     | x => x)
  | x => x

/-- The rest of a wiring load, record by record (R261). -/
def ctxGo (s : State) (r i : Nat) : Nat → State
  | 0 => s
  | fuel + 1 =>
    match (s.trl r).q[i]? with
    | none => s
    | some c =>
      if c.d.tnc ≤ c.prog then s
      else
        let cell := c.d.tc0 + c.prog
        let aux := cellAux c.d.tctx c.d.tlvl cell
        match wiringRead s r (c.d.tsrc + BitVec.ofNat 64 (16 * c.prog)) with
        | .wait s => s
        | .fault s code cause => trlFault s r i code c.prog (unitAux code cause aux) 0
        | .ok s bs p =>
          let x := leNat bs
          match wiringBad c.d.tlvl x with
          | some f => trlFault s r i f.num c.prog aux 0
          | none =>
            let key := cellKey c.d.tctx c.d.tlvl cell
            let s := s.modTrl r (fun t => { t with
              cells := fset t.cells key { fgetD t.cells key {} with
                sel := (List.range 6).map (fun k => BitVec.ofNat 16 (nbits x (16 * k + 15) (16 * k))), selEcc := p } })
            ctxGo (setTrlCmd (noteLoaded s r c.d.tctx) r i { c with prog := c.prog + 1 }) r i fuel

/-- The place of table word k of a load: what a plain or counted read of it gives, with the tile of a counted read and its bytes (R156, R262). -/
def tabRead (s : State) (r : Nat) (c : TrlCmd) : UnitRes × Option (Nat × Nat) × TileCopy :=
  let d := c.d
  let plain (x : UnitRes) : UnitRes × Option (Nat × Nat) × TileCopy := (x, none, {})
  let counted (s : State) (key n o : Nat) : UnitRes × Option (Nat × Nat) × TileCopy :=
    let go (s : State) (x : TileCopy) : UnitRes × Option (Nat × Nat) × TileCopy :=
      let (bs, p) := x.read o 8
      (.ok s bs p, some (key, n), x)
    if c.cur == some (key, n) then go s c.copy
    else
      match countedArrive s (.unit r 41) key n (regionMid r 41) with
      | (.wait, s) => plain (.wait s)
      | (.notOpen, s) => plain (.fault s FCode.winstate.num 0)
      | (.denied, s) => plain (.fault s FCode.access.num 0)
      | (.over, s) => plain (.fault s FCode.rdexcess.num (n % 2 ^ 32))
      | (.ready, s) => go (beginRead s key n) (copyTile s key n)
  if d.tsrk then
    let key := refKey d.tsrc
    let off := refSeq d.tsrc * tileSize (s.win key) + 8 * c.prog
    let n := off / tileSize (s.win key)
    let o := off % tileSize (s.win key)
    if d.tsm then counted s key n o
    else
      match seqLocate s (.unit r 41) (regionMid r 41) key n o 8 false with
      | .at_ s ma => let (bs, p) := s.loadMem ma 8; plain (.ok s bs p)
      | .wait s => plain (.wait s)
      | .refused s f cause => plain (.fault s f.num cause)
      | .remote s e w ch f =>
        plain (unitRemote s r 41 { who := .unit r 41, kind := .read, mid := regionMid r 41, tgt := .remote e w ch f, n := 8 })
  else if d.tsm then
    match unitTr s r 41 .cread (d.tsrc + BitVec.ofNat 64 (8 * c.prog)) 8 with
    | .withheld s _ => plain (.wait s)
    | .fault s f cause => plain (.fault s f.num cause)
    | .ok s (.win die w off) =>
      let key := die * 4096 + w
      match wholeTile s die w off with
      | some (f, cause) => plain (.fault s f.num cause)
      | none =>
      counted s key (match c.cur with
        | some (k, n) => if k == key && off % tileSize (s.win key) != 0 then n else tileByAddress (s.win key) off
        | none => tileByAddress (s.win key) off) (off % tileSize (s.win key))
    | .ok s _ => plain (.fault s FCode.xlate.num 4)
  else plain (unitRead s r 41 .read (d.tsrc + BitVec.ofNat 64 (8 * c.prog)) 8)

/-- The last word of a counted tile has been written into the context: its home is told (R262). -/
def tabDelivered (s : State) (r : Nat) (cur : Option (Nat × Nat)) (gen prog : Nat) : State × Option (Nat × Nat) :=
  match cur with
  | some (key, n) =>
    if (prog + 1) * 8 % tileSize (s.win key) == 0 then
      (s.send (.counted { who := .none, kind := .cread, mid := regionMid r 41, tgt := .win (key / 4096) (key % 4096) 0, n := 8, epoch := some gen } n), none)
    else (s, cur)
  | none => (s, none)

/-- The rest of a table load, word by word (R262). -/
def tabGo (s : State) (r i : Nat) : Nat → State
  | 0 => s
  | fuel + 1 =>
    match (s.trl r).q[i]? with
    | none => s
    | some c =>
      if c.d.tnc ≤ c.prog then s
      else
        let cell := c.d.tc0 + c.prog
        match tabRead s r c with
        | (.wait s, _, _) => s
        | (.fault s code cause, _, _) => trlFault s r i code c.prog (unitAux code cause (cellAux c.d.tctx c.d.tlvl cell)) 0
        | (.ok s bs p, cur, copy) =>
          let key := cellKey c.d.tctx c.d.tlvl cell
          let s := s.modTrl r (fun t => { t with
            cells := fset t.cells key { fgetD t.cells key {} with tab := BitVec.ofNat 64 (leNat bs), tabEcc := p } })
          let (s, cur) := tabDelivered s r cur copy.gen c.prog
          tabGo (setTrlCmd (noteLoaded s r c.d.tctx) r i { c with prog := c.prog + 1, cur := cur, copy := if cur.isSome then copy else {} }) r i fuel

/-- A command that a fault stopped ends once the trap block has returned: a run's head is discarded (R261 to R263, R270). -/
def trlEnd (s : State) (r kind : Nat) : State :=
  let t := s.trl r
  match t.endAt, t.frozen with
  | some (i, v), none =>
    (match t.q[i]? with
     | some c =>
       if c.d.kind != kind || !mayComplete s c.d then s
       else
         let s := match c.cur with
           | some (key, n) => endRead s key n c.copy.gen
           | none => s
         let s := (dropTrlCmd s r i).modTrl r (fun t => { t with endAt := none })
         if kind == 0x22 then
           completeDesc (s.modTrl r (fun t => { t with
             taken := 0, part := [], markIn := none, inq := fset t.inq c.d.tiprt ((fgetD t.inq c.d.tiprt []).drop 1) })) c.d v
         else completeDesc s c.d v
     | none => s.modTrl r (fun t => { t with endAt := none }))
  | _, _ => s

/-- One load goes on, unless a fault has stopped the Trellis. -/
def loadGo (kind r : Nat) (s : State) (i : Nat) : State :=
  if (s.trl r).frozen.isSome then s else if kind == 0x20 then ctxGo s r i 256 else tabGo s r i 256

/-- A load of the row has written all its records. -/
def loadDone (s : State) (r i : Nat) : Option Desc :=
  ((s.trl r).q[i]?).bind (fun c => if c.prog == c.d.tnc && mayComplete s c.d then some c.d else none)

/-- A load row: the loads whose turn it is go on, each by itself, and the first that is done completes with the number written. -/
def trlLoad (kind r : Nat) (s : State) : State :=
  if (s.region r).gang.isNone then s
  else
    let s := trlEnd (trlRefill s r) r kind
    let t := s.trl r
    if t.frozen.isSome || t.endAt.isSome then s
    else
      let turns := loadTurns t.q kind
      match turns.find? (fun i => (t.q[i]?).any (tabPartial s r)) with
      | some i => rejectTrl s r i .cntpart
      | none =>
        let s := turns.foldl (loadGo kind r) s
        if (s.trl r).frozen.isSome then s
        else
          match turns.findSome? (fun i => (loadDone s r i).map (fun d => (i, d))) with
          | some (i, d) => completeDesc (dropTrlCmd s r i) d d.tnc
          | none => s

def stepTrlCtx (r : Nat) (s : State) : State := trlLoad 0x20 r s
def stepTrlTab (r : Nat) (s : State) : State := trlLoad 0x21 r s

/- Runs. -/

/-- The first run of the queue. -/
def runTurn (q : List TrlCmd) : Option Nat := (List.range q.length).find? (fun i => ((q[i]?).map (fun c => c.d.kind == 0x22)).getD false)

/-- Four data tokens as a plane (R259). -/
def planeOf (ts : List Token) : W128 × Bool :=
  (BitVec.ofNat 128 ((List.range 4).foldl (fun a w => a + ((ts.getD w {}).v).toNat * 2 ^ (32 * w)) 0), ts.any (·.poi))

/-- The first run of the queue takes one token of its input track (R263). -/
def takeInput (s : State) (r i : Nat) (c : TrlCmd) : State :=
  let t := s.trl r
  let d := c.d
  match fgetD t.inq d.tiprt [] with
  | [] => s
  | h :: hs =>
    let planes := t.taken < d.tnin
    if !planes && !(d.tmkp && t.markIn.isNone) then s
    else if h.kind == .fault then trlFault s r i (h.v.toNat % 65536) 0xFFFFFFFF 0 h.tag
    else if planes != (h.kind == .data) then trlFault s r i FCode.markskew.num 0xFFFFFFFF 0 h.tag
    else
      let t := { t with inq := fset t.inq d.tiprt hs }
      if !planes then s.modTrl r (fun _ => { t with markIn := some h })
      else
        let ts := t.part ++ [h]
        if ts.length < 4 then s.modTrl r (fun _ => { t with part := ts })
        else s.modTrl r (fun _ => { t with part := [], taken := t.taken + 1, store := fset t.store (d.tibase + t.taken) (planeOf ts) })

/-- A poisoned plane has been emitted, with its last token (R267): token k leaves before the tokens ks. -/
def planeLeft (k : Token) (ks : List Token) : Nat := if k.kind == .data && k.poi && (ks.filter (fun t => t.kind == .data)).length % 4 == 0 then 1 else 0

/-- The next token of the first run that may emit, or the completion of a run that has emitted everything. -/
def emitRun (s : State) (r : Nat) : State :=
  let os := (s.trl r).outs
  let may (i : Nat) : Bool :=
    match os[i]? with
    | none => false
    | some o =>
      if o.toks.isEmpty then mayComplete s o.d
      else (os.take i).all (fun e => e.toks.isEmpty || e.d.toprt != o.d.toprt) &&
        injectRoom s r (31 * 32 + 20 + o.d.toprt / 2) 0 (o.d.toprt % 2) o.d.tovc
  match (List.range os.length).find? may with
  | none => s
  | some i =>
    match os[i]? with
    | none => s
    | some o =>
      match o.toks with
      | [] => completeDesc (s.modTrl r (fun t => { t with outs := t.outs.eraseIdx i, runs := (t.runs + 1) % 65536 })) o.d o.v
      | k :: ks =>
        inject (s.modTrl r (fun t => { t with outs := t.outs.set i { o with toks := ks }, pzr := (t.pzr + planeLeft k ks) % 65536 })) r
          (31 * 32 + 20 + o.d.toprt / 2) 0 (o.d.toprt % 2) o.d.tovc k

/-- TRL_RUN (R263): runs that have entered emit and complete, and the first run of the queue takes its input. -/
def stepTrlRun (r : Nat) (s : State) : State :=
  if (s.region r).gang.isNone then s
  else
    let s := trlEnd (trlRefill (emitRun s r) r) r 0x22
    let t := s.trl r
    if t.frozen.isSome || t.endAt.isSome then s
    else
      match runTurn t.q with
      | none => s
      | some i =>
        match t.q[i]? with
        | some c => takeInput s r i c
        | none => s

/-- What a selector gives (R256): a plane of the store, a cell of the level below, a constant. -/
def selected (t : Trellis) (below : List (W128 × Bool)) (x : W16) : W128 × Bool :=
  let v := x.toNat
  match nbits v 11 10 with
  | 0 => fgetD t.store (nbits v 9 0) (0, false)
  | 1 => below.getD (nbits v 7 0) (0, false)
  | _ => (if nbit v 0 then BitVec.allOnes 128 else 0, false)

/-- A cell's output plane (R255). -/
def cellOut (t : Trellis) (below : List (W128 × Bool)) (c : Cell) : W128 × Bool :=
  let ins := c.sel.map (selected t below)
  let lane (n : Nat) : Bool :=
    nbit c.tab.toNat ((List.range 6).foldl (fun a k => a + if nbit ((ins.getD k (0, false)).1).toNat n then 2 ^ k else 0) 0)
  (if c.tab == 0 then 0 else BitVec.ofNat 128 ((List.range 128).foldl (fun a n => a + if lane n then 2 ^ n else 0) 0), c.selEcc || c.tabEcc || ins.any (·.2))

/-- The outputs of level `lvl`, after those of the levels below it. -/
def levelOut (t : Trellis) (ctx : Nat) : Nat → List (W128 × Bool)
  | 0 => []
  | n + 1 =>
    let below := levelOut t ctx n
    (List.range 256).map (fun c => cellOut t below (fgetD t.cells (cellKey ctx n c) {}))

/-- A plane as four data tokens (R259). -/
def planeToks (d : Desc) (p : W128 × Bool) : List Token :=
  (List.range 4).map (fun w =>
    { v := BitVec.ofNat 32 (p.1.toNat >>> (32 * w)), tag := d.tsrc, vc := d.tovc, poi := p.2 })

/-- A cell of a run's levels whose table or wiring was read with an uncorrectable error (R270). -/
def eccCell (t : Trellis) (d : Desc) : Option Nat :=
  (t.cells.find? (fun c => (c.2.selEcc || c.2.tabEcc) && c.1 / 4096 == d.tctx && c.1 / 256 % 16 < d.tnl)).map (fun c =>
    cellAux d.tctx (c.1 / 256 % 16) (c.1 % 256))

/-- TRELLIS_RUN_ENTER (R255, R263 to R265): the first run of the queue has its input, every earlier load of its context has completed;
it evaluates its levels, and stores or starts to emit its planes. -/
def stepTrellisRunEnter (r : Nat) (s : State) : State :=
  let t := s.trl r
  if (s.region r).gang.isNone || t.frozen.isSome || t.endAt.isSome then s
  else
    match runTurn t.q with
    | none => s
    | some i =>
      match t.q[i]? with
      | none => s
      | some c =>
        let d := c.d
        if t.taken < d.tnin || (d.tmkp && t.markIn.isNone) || (t.q.take i).any (fun e => e.d.tctx == d.tctx) then s
        else
          let out := (levelOut t d.tctx d.tnl).take d.tnout
          let bad := (out.filter (·.2)).length
          let store := if d.tstore then (List.range d.tnout).foldl (fun m j => fset m (d.tobase + j) (out.getD j (0, false))) t.store else t.store
          let mark : List Token := match t.markIn with
            | some m => if d.tmkp then [{ m with vc := d.tovc }] else []
            | none => []
          let toks := if d.tstore then [] else out.flatMap (planeToks d) ++ mark
          let s := s.modTrl r (fun _ => { t with
            q := t.q.eraseIdx i, store := store, taken := 0, part := [], markIn := none, actx := d.tctx
            pzr := if d.tstore then (t.pzr + bad) % 65536 else t.pzr, outs := t.outs ++ [{ d := d, toks := toks, v := bad }] })
          match eccCell t d with
          | some aux =>
            raiseRegion (s.modTrl r (fun t => { t with frozen := some { code := FCode.eccu.num, aux := aux } })) r .trellis
              { code := FCode.eccu.num, mid := regionMid r 41, aux := BitVec.ofNat 32 aux }
          | none => s

end Sys2Proof.Machine
end

