-- ==== Sys2Proof/Machine/Registers.lean ====
section
/-! DEFINITION. The system registers (R387): what each reads as, and what a write does under each field's access code (R7). -/

namespace Sys2Proof.Machine

/-- A system register, without the region of a per-region one. -/
inductive Reg where
  | pkgid | clmpst | portcfg (p : Nat) | bootst | bellsq | flraise
  | xroot | xctl | tsctl (d : Nat) | cfgst | pgst | mestat (j : Nat) | rtst | trlst
  deriving DecidableEq, Repr

/-- The register of a number below 0x8000 (R387). -/
def regOf (n : Nat) : Option Reg :=
  if n == 0x100 then some .pkgid
  else if n == 0x101 then some .clmpst
  else if 0x110 ≤ n && n ≤ 0x113 then some (.portcfg (n - 0x110))
  else if n == 0x120 then some .bootst
  else if n == 0x121 then some .bellsq
  else if n == 0x122 then some .flraise
  else if n == 0x130 then some .xroot
  else if n == 0x131 then some .xctl
  else if 0x140 ≤ n && n ≤ 0x143 then some (.tsctl (n - 0x140))
  else if n == 0x150 then some .cfgst
  else if n == 0x160 then some .pgst
  else if 0x170 ≤ n && n ≤ 0x177 then some (.mestat (n - 0x170))
  else if n == 0x180 then some .rtst
  else if n == 0x190 then some .trlst
  else none

/-- The register that a number names for core k, with its region: a Lodge core names region r's copy as 0x8000 + r × 0x100 + the
low byte (R387). -/
def regFor (k n : Nat) : Option (Reg × Nat) :=
  if 0x8000 ≤ n then (regOf (0x100 + n % 256)).map (fun x => (x, (n - 0x8000) / 256 % 64))
  else (regOf n).map (fun x => (x, k / 10))

def bitAt (b : Bool) (k : Nat) : Nat := if b then 2 ^ k else 0

def pkgidWord : Nat :=
  0x7240 + Config.stepping.toNat * 2 ^ 16 + 0xF * 2 ^ 20 + 0xFF * 2 ^ 24 + Config.ethp * 2 ^ 32

/-- PORTCFG of a port (R22); a port that ETHP lacks reads as zero. -/
def portWord (s : State) (p : Nat) : Nat :=
  let x := s.portOf p
  if nbit Config.ethp p then bitAt x.en 0 + bitAt x.split 1 + bitAt x.lnka 2 + bitAt (x.lnkb && x.split) 3 + x.mtu % 65536 * 2 ^ 16 else 0

def bootWord (b : Boot) : Nat :=
  b.slot % 2 + bitAt b.alt 1 + bitAt b.fail 2 + bitAt b.lock 3 + b.floor.toNat % 65536 * 2 ^ 16 + b.sver.toNat % 2 ^ 32 * 2 ^ 32

/-- Entries held across a die's Turnstiles (R154). -/
def heldOn (s : State) (d : Nat) : Nat :=
  (s.chains.filter (fun c => chainDie s c.1 == d)).foldl (fun a c => a + c.2.held.length) 0

def tsctlWord (s : State) (d : Nat) : Nat :=
  s.gapLim.getD d 50 % 65536 + heldOn s d % 65536 * 2 ^ 32 + s.gaps.getD d 0 % 65536 * 2 ^ 48

def cfgWord (g : Region) : Nat :=
  let c := g.cfg
  c.apid % 65536 + c.lpid % 65536 * 2 ^ 16 + bitAt (c.q.any (fun x => x.d.kind == 0x30 && 0 < x.done)) 32 +
    bitAt (c.q.any (·.waits)) 33 + bitAt g.moved.isNone 34 + c.flsh % 65536 * 2 ^ 48

/-- STATE of PGST; TRAP while a trap block runs (R201). -/
def pgState (g : Region) : Nat :=
  if g.trap.isSome then 5
  else
    match g.parser.st with
    | .idle => 0
    | .parse => 1
    | .action => 2
    | .done => 3
    | .mismatch => 4
    | .trap => 5

def pgWord (g : Region) : Nat :=
  pgState g + g.parser.stack.length % 128 * 8 + g.parser.mq.length % 32 * 2 ^ 16 + g.parser.ord % 2 ^ 40 * 2 ^ 24

def bankWord (b : Bank) : Nat := bitAt b.int_ 0 + bitAt b.frz 1 + bitAt b.ovf 2 + bitAt b.nv 3 + bitAt b.inf 4

/-- BUSY: a me.op is in progress on a bank (R213, R218). -/
def meBusy (e : Engine) : Bool := [e.run0, e.run1].any (fun m => (m.map (fun x => nbits (x.d.word 0) 7 0)) == some 0x10)

def meWord (e : Engine) : Nat :=
  bankWord e.bank0 + bankWord e.bank1 * 2 ^ 8 + e.ksl % 65536 * 2 ^ 16 + bitAt (meBusy e) 32 + e.q.length % 8 * 2 ^ 33

def rtWord (g : Region) : Nat :=
  let c := g.crs
  c.rmes % 256 + bitAt c.lap 8 + bitAt c.lerr 9 + c.nexpm1 % 256 * 2 ^ 10 + min c.drops 255 * 2 ^ 18 + c.dups % 2 ^ 32 * 2 ^ 32

def trlWord (t : Trellis) : Nat :=
  t.actx % 8 + bitAt (t.outs.any (fun o => !o.toks.isEmpty)) 3 + t.q.length % 16 * 16 + t.ldm % 256 * 2 ^ 8 + t.runs % 65536 * 2 ^ 16 + t.pzr % 65536 * 2 ^ 32

/-- What a register reads as, for region r where it is one of a region's. -/
def readReg (s : State) (x : Reg) (r : Nat) : W64 :=
  let g := s.region r
  match x with
  | .pkgid => BitVec.ofNat 64 pkgidWord
  | .clmpst => clampWord s.clamp
  | .portcfg p => BitVec.ofNat 64 (portWord s p)
  | .bootst => BitVec.ofNat 64 (bootWord s.boot)
  | .bellsq => BitVec.ofNat 64 (s.bell % 2 ^ 32)
  | .flraise => 0
  | .xroot => g.xroot
  | .xctl => BitVec.ofNat 64 (g.pglim + g.miss % 2 ^ 32 * 2 ^ 32)
  | .tsctl d => BitVec.ofNat 64 (tsctlWord s d)
  | .cfgst => BitVec.ofNat 64 (cfgWord g)
  | .pgst => BitVec.ofNat 64 (pgWord g)
  | .mestat j => BitVec.ofNat 64 (meWord (fgetD g.engs j {}))
  | .rtst => BitVec.ofNat 64 (rtWord g)
  | .trlst => BitVec.ofNat 64 (trlWord g.trl)

/-- A write to PORTCFG (R22): EN 0 drops the link and discards what is queued for transmission; a change of SPLIT while EN is 1 and an MTU
outside its range are ignored. DESIGN CHOICE, log 42: "a write … is ignored" is taken of the field alone, and the rest of the write is
performed. -/
def writePort (s : State) (p v : Nat) : State :=
  if !nbit Config.ethp p then s
  else
    let x := s.portOf p
    let en := nbit v 0
    let mtu := nbits v 31 16
    let y : Port := { x with
      en := en, split := if x.en then x.split else nbit v 1
      mtu := if 1518 ≤ mtu && mtu ≤ 9216 then mtu else x.mtu
      lnka := x.lnka && en, lnkb := x.lnkb && en }
    { s.modPort p (fun _ => y) with wire := if en then s.wire else s.wire.filter (fun f => f.1 % 4 != p) }

/-- A write to FLRAISE (R44). -/
def writeFloor (s : State) (lodge : Bool) (v : W64) : State :=
  let b := s.boot
  if lodge && b.floor < v && v ≤ b.sver && b.blowing.isNone then { s with boot := { b with blowing := some (v, s.ns) } } else s

/-- A write to CLMPST by a Lodge core clears the bits it names (R20). -/
def writeClamp (s : State) (v : Nat) : State :=
  let c := s.clamp
  { s with clamp := { c with isov := c.isov && !nbit v 8, temph := c.temph && !nbit v 9, pwrh := c.pwrh && !nbit v 10 } }

/-- A write to a register (R7, R386): a register that only the Lodge may write ignores other cores. -/
def writeReg (s : State) (lodge : Bool) (x : Reg) (r : Nat) (v : W64) : State :=
  match x with
  | .portcfg p => writePort s p v.toNat
  | .flraise => writeFloor s lodge v
  | .clmpst => if lodge then writeClamp s v.toNat else s
  | .xroot => if lodge then s.modRegion r (fun g => { g with xroot := v &&& 0x7FFFFFFE01 }) else s
  | .xctl => if lodge && nbits v.toNat 15 0 != 0 then s.modRegion r (fun g => { g with pglim := nbits v.toNat 15 0 }) else s
  | .tsctl d => if lodge && nbits v.toNat 15 0 != 0 then { s with gapLim := s.gapLim.set d (nbits v.toNat 15 0) } else s
  | _ => s

/-- The register write at the head of the inputs, where it is one of the row's. -/
def regInput (s : State) (mine : Reg → Bool) : Option (RegReq × Reg × State) :=
  match s.inputs.regs with
  | [] => none
  | q :: qs =>
    match regFor (if q.lodge then 640 else q.r * 10) q.num with
    | some (x, r) => if mine x then some ({ q with r := if q.num < 0x8000 then q.r else r }, x, { s with inputs := { s.inputs with regs := qs } }) else none
    | none => none

/-- A register write that waits, of the registers of one row. -/
def regRow (mine : Reg → Bool) (s : State) : State :=
  match regInput s mine with
  | some (q, x, s) => writeReg s q.lodge x q.r q.v
  | none => s

def isPortcfg : Reg → Bool
  | .portcfg _ => true
  | _ => false

def stepPortcfgWrite (s : State) : State := regRow isPortcfg s
def stepFlraiseWrite (s : State) : State := regRow (fun x => x == .flraise) s
/-- REGISTER_WRITE (R7): any other register; a number that names none changes nothing. -/
def stepRegisterWrite (s : State) : State :=
  match s.inputs.regs with
  | q :: qs =>
    if (regFor (if q.lodge then 640 else q.r * 10) q.num).isNone then { s with inputs := { s.inputs with regs := qs } }
    else regRow (fun x => !isPortcfg x && x != .flraise) s
  | [] => s

/-- FLOOR_FUSE_BLOWN (R44): the floor fuses hold the new floor. -/
def stepFloorFuseBlown (s : State) : State :=
  match s.boot.blowing with
  | some (v, _) => { s with boot := { s.boot with floor := v, blowing := none } }
  | none => s

end Sys2Proof.Machine
end

