-- ==== Sys2Proof/Machine/System.lean ====
section
/-! DEFINITION. Prefetch, invalidation, engine commands, launches, the bell, system registers and action entries as block instructions
(R203, R381 to R386): the checks at fire, and what is laid aside for the commit. -/

namespace Sys2Proof.Machine

/-- pf needs R at the leaf; without it the cause is 4 (R381). -/
def pfCause : AddrRes → AddrRes
  | .fault s .xlate 2 => .fault s .xlate 4
  | x => x

/-- pf (R381): a must translate to a Commons window; a range past the extent straddles. -/
def stepPf (a b c : Src) (mst : BitVec 3) (q1 : Bool) (p : Option Pred) (s : State) : State :=
  match beginFire s none p [a, b, c] with
  | .wait => s
  | .over s => s
  | .go t vs =>
    if anyPoison vs then fireFault s t 1 .poison 0 vs[0]? vs[1]?
    else
      onAddr t (opVal vs 0) vs[0]? vs[1]? (fun s tgt =>
        match tgt with
        | .win die w off =>
          if winExtent (s.win (die * 4096 + w)) < off + (opVal vs 1).toNat then fireFault s t 1 .straddle 0 vs[0]? vs[1]?
          else layAside s t (.pf (opVal vs 0) tgt (opVal vs 1) (opVal vs 2) mst.toNat q1) vs[0]? vs[1]?
        | _ => fireFault s t 1 .xlate 4 vs[0]? vs[1]?) (pfCause (addrReach s .read (opVal vs 0) 1))

/-- inv (R382): a range that is not canonical, or that wraps, is F_NONCANON. -/
def stepInv (a b : Src) (sc : Scope) (p : Option Pred) (s : State) : State :=
  match beginFire s none p [a, b] with
  | .wait => s
  | .over s => s
  | .go t vs =>
    if anyPoison vs then fireFault s t 1 .poison 0 vs[0]? vs[1]?
    else if !canonical (opVal vs 0) (opVal vs 1).toNat then fireFault s t 1 .noncanon 0 vs[0]? vs[1]?
    else layAside s t (.inv (opVal vs 0) (opVal vs 1) sc) vs[0]? vs[1]?

/-- eng (R383): the descriptor's address is checked and translated at fire. -/
def stepEng (a : Src) (doff : BitVec 16) (p : Option Pred) (s : State) : State :=
  match beginFire s none p [a] with
  | .wait => s
  | .over s => s
  | .go t vs =>
    let d := opVal vs 0 + doff.signExtend 64 * 64
    if opPoi vs 0 then fireFault s t 1 .poison 0 vs[0]? none
    else if d.toNat % 64 != 0 then fireFault s t 1 .desc 0 vs[0]? none
    else withAddr s t .read false d 8 vs[0]? none (fun s tgt => layAside s t (.eng d tgt) vs[0]? none)

/-- launch (R384): the addresses of the body are checked and translated at fire (R365). -/
def stepLaunchInstruction (d : Fin 64) (a : Src) (p : Option Pred) (s : State) : State :=
  match beginFire s (some (.g d)) p [a] with
  | .wait => s
  | .over s => s
  | .go t vs =>
    if opPoi vs 0 then fireFault s t 1 .poison 0 vs[0]? none
    else if (opVal vs 0).toNat % 64 != 0 then fireFault s t 1 .desc 0 vs[0]? none
    else
      onAddr t (opVal vs 0) vs[0]? none (fun s tgt => layAsideLate s t (.launch d.val (opVal vs 0) tgt) vs[0]? none)
        (addrReach s .read (opVal vs 0) bodyBytes)

/-- snap: a well-formed one has no predicate (R385). -/
def stepSnap (p : Option Pred) (s : State) : State :=
  match beginFire s none p [] with
  | .wait => s
  | .over s => s
  | .go t _ => layAside s t .snap none none

/-- rsr (R386, R392): the whole register at fire, two cycles later. -/
def stepRsr (d : Dst) (n : BitVec 16) (p : Option Pred) (s : State) : State :=
  match beginFire s (some d) p [] with
  | .wait => s
  | .over s => s
  | .go t _ =>
    match regFor s.curKey n.toNat with
    | some (x, r) => land s t 2 d (readReg s x r) false none none
    | none => fireFault s t 1 .rsvd 0 none none

def stepWsr (a : Src) (n : BitVec 16) (p : Option Pred) (s : State) : State :=
  match beginFire s none p [a] with
  | .wait => s
  | .over s => s
  | .go t vs =>
    if opPoi vs 0 then fireFault s t 1 .poison 0 vs[0]? none
    else layAside s t (.wsr n.toNat (opVal vs 0)) vs[0]? none

/-- tact (R203): site and ordinal are checked at fire, and the entry leaves at the commit. C is read for SETIMM alone. -/
def stepTact (fn : TactOp) (a b c : Src) (p : Option Pred) (s : State) : State :=
  match beginFire s none p (if fn == .setimm then [a, b, c] else [a, b]) with
  | .wait => s
  | .over s => s
  | .go t vs =>
    let site := (opVal vs 0).toNat
    let m := (opVal vs 1).toNat
    if anyPoison vs then fireFault s t 1 .poison 0 vs[0]? vs[1]?
    else if 1023 < site || site % 32 == 0 || 26 < site % 32 || 2 ^ 40 ≤ m || m < (s.region (s.curKey / 10)).parser.ord then
      fireFault s t 1 .desc 0 vs[0]? vs[1]?
    else layAside s t (.tact site (m % 2 ^ 32) fn ((opVal vs 2).toNat % 2 ^ 24)) vs[0]? vs[1]?

end Sys2Proof.Machine
end

