-- ==== Sys2Proof/Machine/Traps.lean ====
section
/-! DEFINITION. Taking a fault and returning from its trap block: exact faults of block cores (R94, R347), post-commit faults (R367), the start
of the trap block (R93), what `tret` does for every fault (R389), and the time limits F_WEDGE and F_TASKLONG (R83, R221). -/

namespace Sys2Proof.Machine

/-- A core stands between blocks: it runs none, re-executes none (R56), and every operation of its last one has left (R365). -/
def betweenBlocks (c : Core) : Bool :=
  c.outq.isEmpty && c.failed == 0 && (match c.phase with
    | .running | .ending _ => false
    | _ => true)

/-- A fault inside the trap block aborts the plan (R94). -/
def trapNest (s : State) (r : Nat) : State :=
  abortRegion (regionRecord s r (s.stamp r { code := FCode.trapnest.num, mid := regionMid r 40 })) r

/-- Where a core goes on after a trap: one that faulted exactly starts its block again (R389). -/
def resumePhase (c : Core) : Phase :=
  match c.phase with
  | .frozen => .start c.run.spec.baddr
  | p => p

/-- A Lodge core's own fault: its record is kept, and between blocks the core takes Thiben's handler, which finds the record where a trap block
does (R93, R389). A fault of the handler's own blocks stops the core. DESIGN CHOICE, log 17. -/
def lodgeTrap (s : State) (k : Nat) (f : FaultRec) (post : Bool) : State :=
  let f := { f with time := BitVec.ofNat 64 s.ns }
  let s := { s with lodgeFaults := s.lodgeFaults ++ [f] }
  if (s.core k).inTrap then s.modCore k (fun c => { c with phase := .frozen })
  else
    s.modCore k (fun c =>
      { c with
        phase := .start Config.lodgeHandler, inTrap := true, pre := (List.range 8).zip f.words
        trapped := some { resume := resumePhase c, rcd := f, post := post } })

/-- An exact fault of core k: the block does not commit, and the trap falls between blocks (R94, R347). -/
def exactFault (s : State) (k : Nat) (f : FaultRec) : State :=
  if (s.core k).inTrap && k < 640 then trapNest s (k / 10)
  else
    let s := s.modCore k (fun c => { c with phase := .frozen, failed := 0 })
    if 640 ≤ k then lodgeTrap s k f false else raiseRegion s (k / 10) (.core k) f

/- Post-commit faults (R367). -/

/-- The block named by a post-commit record is one of the running trap block's. -/
def ofTrapBlock (s : State) (k : Nat) (f : FaultRec) : Bool :=
  k % 10 == 0 && ((s.region (k / 10)).trap.map (fun t => t.blks.contains f.opb)).getD false

/-- Core k stands between blocks with post-commit faults to take; a Lodge core takes the next one after its handler has returned. -/
def postDue (k : Nat) (c : Core) : Bool := betweenBlocks c && !c.post.isEmpty && !(640 ≤ k && c.inTrap)

/-- Between blocks, the post-commit faults that have reached core k join the faults that wait (R367); a Lodge core takes the first. -/
def takePost (s : State) (k : Nat) : State :=
  let c := s.core k
  if !postDue k c then s
  else if 640 ≤ k then
    (match c.post with
     | f :: fs => lodgeTrap (s.modCore k (fun c => { c with post := fs })) k f true
     | [] => s)
  else
    let s := s.modCore k (fun c => { c with post := [] })
    if c.post.any (ofTrapBlock s k) then trapNest s (k / 10)
    else c.post.foldl (fun s f => raiseRegion s (k / 10) (.post k) f) s

/-- POST_COMMIT_FAULT (R366, R367): the fault reaches its core; the operation's register is poisoned at once, and the trap waits for the end of
the block in progress. -/
def stepPostCommitFault (k : Nat) (s : State) : State :=
  match s.msg k with
  | some (.fault core f g) =>
    let s := (s.drop k).modCore core (fun c =>
      { c with
        post := c.post ++ [f]
        g := match g with
          | some n => if n < 64 then fset c.g n { val := 0, poi := true, pend := false } else c.g
          | none => c.g })
    takePost s core
  | _ => s

/- The start of the trap block (R93). -/

/-- FAULT_TRAP (R93, R94): the Pergola has finished its block, and the cycle of the fault is over, so that every fault of that cycle has its place
in the order; the first waiting fault's record goes to the session ring, and the plan's trap block starts with the record in o0 to o7. -/
def stepFaultTrap (r : Nat) (s : State) : State :=
  let g := s.region r
  let c := s.core (r * 10)
  match g.faults, g.gang with
  | w :: rest, some n =>
    if g.trap.isSome || !betweenBlocks c || s.cyc ≤ w.cyc then s
    else
      let s := regionRecord s r w.rcd
      let s := s.modRegion r (fun g =>
        { g with
          faults := rest
          trap := some { src := w.src, rcd := w.rcd, resume := resumePhase c, inAction := g.parser.st == .action } })
      s.modCore (r * 10) (fun c =>
        { c with
          phase := .start (s.gang n).trap, inTrap := true, failed := 0
          pre := (List.range 8).zip w.rcd.words })
  | _, _ => s

/- tret (R389). -/

/-- The Pergola runs the block at a supplied address: as part of the action in progress, or as an action of its own. A Pergola that a
pre-emption has stopped has it as its resume point. -/
def pergolaGo (s : State) (r : Nat) (x : TrapCtx) (a : W64) : State :=
  let s := s.modRegion r (fun g =>
    { g with parser := if x.inAction then g.parser else { g.parser with st := .action, back := g.parser.st } })
  if (s.region r).stopped.isSome then s.modRegion r (fun g => { g with stopped := some (.start a) })
  else s.modCore (r * 10) (fun c => { c with phase := .start a })

/-- A block core goes on after its fault: from the start of its block or where it stopped, or at a supplied block. -/
def coreReturn (s : State) (r k : Nat) (x : TrapCtx) (sup : Bool) (a : W64) : State :=
  if k == r * 10 then (if sup then pergolaGo s r x a else s)
  else if sup then s.modCore k (fun c => { c with phase := .start a })
  else s.modCore k (fun c => { c with phase := resumePhase c })

/-- A port tile resumes (R433): the elements that faulted are skipped, or take the value supplied. -/
def thawPort (s : State) (r y : Nat) (sup : Bool) (a : W64) : State :=
  let chains := (s.pt r y).chains
  match (List.range chains.length).find? (fun i => (chains.getD i {}).box.fault.isSome) with
  | none => s
  | some i =>
    let b := (chains.getD i {}).box
    let closing := b.d.sm == 2 && b.skip == 0 && ((portHead s r y b.d).map (fun t => t.kind == .fault)).getD false
    let s := if closing then portPop s r y b.d else s
    setBox s r y i { b with fault := none, supply := if sup then some a else none }

/-- A memory port resumes: the refused access leaves, its arcs are completed, and its chain is answered for; the null link that its chain then
takes is waited for behind the other requests (R144, R153, R155, R389). -/
def thawRequest (s : State) (r n : Nat) (sup : Bool) : State :=
  let x := s.site r n
  match x.reqs with
  | q :: qs =>
    let chained := refusedChain s (fun a => a.who == .port r (n / 32) q.id)
    let link := if sup && chained.isSome then [{ q with kind := .null, st := .flight, sent := true, pinned := none }] else []
    let s := s.setSite r n { x with reqs := qs ++ link }
    let s := if q.kind == .null then s else (arcsFrom s r (n / 32)).foldl (fun s d => s.send (.arc r d q.tag)) s
    (match chained with
     | some (key, a) => chainGo s key a sup
     | none => s)
  | [] => s

/-- A memory port that faulted at its heads, where a fault token or a refused set took the place of an access, completes the arc of that access
in its turn (R144, R176, R389). Mark sets, a duplicate tag and mfen's tokens stand for no access. -/
def thawArcs (s : State) (r n : Nat) (f : SiteFault) : State :=
  let x := s.site r n
  if n % 32 == 1 && isMemPort x.act.fop && x.act.fop != 0x45 && (!f.qs.isEmpty || f.issued) && f.code != FCode.markskew.num &&
      f.code != FCode.tagdup.num then
    portSettle (s.setSite r n { x with reqs := x.reqs ++ [{ id := freshReq x, kind := .null, st := .done [], tag := f.tag, otag := f.tag }] }) r (n / 32)
  else s

/-- The heads, or the issued entry, that caused a fault are discarded. -/
def discardCause (x : Site) (f : SiteFault) : Site :=
  let x := f.qs.foldl popQ x
  { x with issue := if f.issued then x.issue.drop 1 else x.issue }

/-- A site resumes (R389). -/
def thaw (s : State) (r n : Nat) (sup : Bool) (a : W64) : State :=
  let x := s.site r n
  match x.frozen with
  | none => s
  | some f =>
    let s := s.setSite r n { x with frozen := none }
    let x := s.site r n
    if x.strayTok.isSome then s.setSite r n { x with strayTok := none }
    else if n % 32 == 0 then thawPort s r (n / 32) sup a
    else
      match f.stale with
      | some m => s.setSite r n (pullEntries { x with aq := x.aq.filter (fun e => serialGe e.ord m) })
      | none =>
        let s := s.setSite r n (discardCause x f)
        let s := if f.yng.isSome then thawRequest s r n sup else thawArcs s r n f
        let x := s.site r n
        let y := if sup then emitEl x { kind := .data, v := a.setWidth 32, tag := f.tag } else x
        replayNotes (putSite s r n y) r n ((y.out.drop x.out.length).map (·.tok))

/-- What a trap block's return does for the fault it handled. -/
def returnFrom (s : State) (r : Nat) (x : TrapCtx) (sup : Bool) (a : W64) : State :=
  match x.src with
  | .site n => thaw s r n sup a
  | .core k => coreReturn s r k x sup a
  | .post k =>
    (match refusedChain s (accessOf k x.rcd) with
     | some (key, a) => chainGo s key a sup
     | none => if sup then coreReturn s r k x sup a else s)
  | .mismatch => s.modRegion r (fun g => { g with parser := { g.parser.goTo .done with mq := g.parser.mq.drop 1 } })
  | .stackovf => s.modRegion r (fun g => { g with parser := { g.parser.goTo .parse with ovf := true } })
  | .engine j => s.modEng r j (fun e => { e with frozen := none })
  | .trellis => s.modTrl r (fun t => { t with frozen := none })
  | .carousel => s.modCrs r (fun c => { c with frozen := none })
  | .replay u => s.setRep r u { s.rep r u with frozen := none }
  | .wedge => s.modRegion r (fun g => { g with wedge := s.cyc })
  | .taskLong k =>
    let x := s.kiosk r k
    s.setKiosk r k { x with run := x.run.map (fun t => (t.1, s.cyc)) }
  | .stray | .window _ | .port _ | .cfgload | .unit => s

/-- The trap block of region r has returned (R389). -/
def trapReturn (s : State) (r : Nat) (sup : Bool) (a : W64) : State :=
  match (s.region r).trap with
  | none => s
  | some x =>
    let s := s.modRegion r (fun g => { g with trap := none })
    let s := s.modCore (r * 10) (fun c => { c with inTrap := false, phase := x.resume, pre := [] })
    returnFrom s r x sup a

/-- Thiben's handler of Lodge core k's own fault has returned, in the forms a trap block has for a block core's fault and for a refused chained
access (R389). -/
def lodgeReturn (s : State) (k : Nat) (sup : Bool) (a : W64) : State :=
  match (s.core k).trapped with
  | none => s
  | some x =>
    let s := s.modCore k (fun c => { c with inTrap := false, phase := x.resume, pre := [], trapped := none })
    match if x.post then refusedChain s (accessOf k x.rcd) else none with
    | some (key, a) => chainGo s key a sup
    | none => if sup then s.modCore k (fun c => { c with phase := .start a }) else s

/- Time limits. -/

/-- A token stands somewhere at a site. -/
def siteHolds (x : Site) : Bool :=
  !x.bufs.isEmpty || !x.q.isEmpty || !x.out.isEmpty || !x.store.isEmpty || !x.issue.isEmpty || !x.coll.isEmpty || x.s0.isSome || x.s1.isSome ||
    x.strayTok.isSome

/-- Tokens are present in the region (R83). -/
def tokensIn (s : State) (r : Nat) : Bool :=
  let g := s.region r
  g.sites.any (fun x => siteHolds x.2) || g.trl.inq.any (fun q => !q.2.isEmpty)

/-- The cycle of the last token movement of the region, or from which the limit counts. -/
def lastMove (g : Region) : Nat := g.sites.foldl (fun m x => max m (x.2.moved.getD 0)) g.wedge

/-- A fault of this source waits or is being handled. -/
def faultHeld (g : Region) (src : FaultSrc) : Bool := g.faults.any (fun w => w.src == src) || ((g.trap.map (fun t => t.src == src)).getD false)

/-- A translation is withheld whose limit PGLIM has not expired: its region is exempt from F_WEDGE (R83). -/
def wedgeExempt (s : State) (g : Region) : Bool := g.withheld.any (fun w => w.res == .pending && s.ns < w.since + g.pglim * 1000)

/-- A barrier of the region has arrived and waits for the other regions of its gang (R189, R190), whichever barrier they are at. DESIGN CHOICE,
log 47. -/
def barrierWaits (g : Region) : Bool := g.cfg.q.any (·.arrived)

/-- WEDGE_TIMEOUT (R83, R132, R190): tokens are present, or a barrier waits, nothing has moved for 2^WDG cycles, and no translation is withheld
within its limit. -/
def stepWedgeTimeout (r : Nat) (s : State) : State :=
  let g := s.region r
  match g.gang with
  | none => s
  | some n =>
    if wedgeExempt s g || !(tokensIn s r || barrierWaits g) || s.cyc < lastMove g + 2 ^ (s.gang n).wdg || faultHeld g .wedge then s
    else raiseRegion s r .wedge { code := FCode.wedge.num, mid := regionMid r 40 }

/-- TASK_LONG_TIMEOUT (R221): a task still runs 4,096 cycles after its start. -/
def stepTaskLongTimeout (r kiosk : Nat) (s : State) : State :=
  let x := s.kiosk r kiosk
  match x.run with
  | none => s
  | some (slot, t) =>
    if s.cyc < t + 4096 || faultHeld (s.region r) (.taskLong kiosk) then s
    else
      raiseRegion s r (.taskLong kiosk)
        { code := FCode.tasklong.num, mid := coreMid (r * 10 + 1 + kiosk), tag := ((fget x.slots slot).map (·.tt)).getD 0 }

end Sys2Proof.Machine
end

