-- ==== Sys2Proof/Machine/Blocks.lean ====
section
/-! DEFINITION. How a block starts (R199, R318 to R321, R342), how it commits or does not (R56, R346, R347), how its operations leave the core
(R365, R366), how its branch takes effect (R360 to R362, R388 to R391), and which unit an engine command goes to (R422). -/

namespace Sys2Proof.Machine

/- Fetching a block (R321). -/

/-- Words fetched, or why not. -/
inductive FetchRes where
  | ok (s : State) (ws : List W64) (poi : Bool)
  | wait (s : State)
  | fault (s : State) (c : FCode) (cause : Nat)

/-- A withheld translation of a fetch is noted for the walker, or is noted no more (R131, R132). -/
def fetchHeld (s : State) (k : Nat) (va : Option W64) : State :=
  match keyRegion k, va with
  | some r, some a => withhold s r (2 * k) a
  | _, _ => s

def fetchFree (s : State) (k : Nat) (a : W64) : State :=
  match keyRegion k with
  | some r => unhold s r (2 * k) a
  | none => s

/-- n words from a, each by a fetch access, which needs X. No remote window gives fetches (R32): F_XLATE. -/
def fetchWords (s : State) (k : Nat) : Nat → W64 → FetchRes
  | 0, _ => .ok s [] false
  | n + 1, a =>
    match translate s k .fetch a 8 with
    | .withheld s va => .wait (fetchHeld s k va)
    | .fault s c cause => .fault (fetchFree s k a) c cause
    | .ok s t =>
      let s := fetchFree s k a
      match locate s .none (coreMid k) t 8 .fetch with
      | .wait s => .wait s
      | .refused s c cause => .fault s c cause
      | .remote s _ _ _ _ => .fault s .xlate 4
      | .at_ s ma =>
        let (bs, p) := s.loadMem ma 8
        match fetchWords s k n (a + 8) with
        | .ok s ws q => .ok s (BitVec.ofNat 64 (leNat bs) :: ws) (p || q)
        | x => x

/-- A whole block: its header, and what a good header names (R318). -/
def fetchBlock (s : State) (k : Nat) (a : W64) : FetchRes :=
  match fetchWords s k 2 a with
  | .ok s hd p =>
    (match decodeHeader (hd.getD 0 0) (hd.getD 1 0) with
     | .error _ => .ok s hd p
     | .ok h =>
       let n := if h.pp then 2 * h.loff else h.count
       match fetchWords s k n (a + 16) with
       | .ok s ws q =>
         if !h.pp then .ok s (hd ++ ws) (p || q)
         else
           (match fetchWords s k (nbits (ws.getD (n - 1) 0).toNat 3 0) (a + BitVec.ofNat 64 (16 * h.loff + 16)) with
            | .ok s rs w => .ok s (hd ++ ws ++ rs) (p || q || w)
            | x => x)
       | x => x)
  | x => x

/-- Keep the latest copies that fit in so many words (R199). -/
def keepCopies (cap : Nat) : List (Nat × List W64) → List (Nat × List W64)
  | [] => []
  | x :: xs => if x.2.length ≤ cap then x :: keepCopies (cap - x.2.length) xs else []

/-- A block becomes the latest copy of a store of blocks. -/
def keepCopy (cap : Nat) (xs : List (Nat × List W64)) (a : Nat) (ws : List W64) : List (Nat × List W64) :=
  keepCopies cap ((a, ws) :: xs.filter (fun x => x.1 != a))

/-- The copy of the block at a, if any. -/
def copyOf (xs : List (Nat × List W64)) (a : Nat) : Option (List W64) := (xs.find? (fun x => x.1 == a)).map (·.2)

/-- The block becomes the latest copy in the core's buffer of 16 KiB. -/
def noteBuffer (s : State) (k a : Nat) (ws : List W64) : State :=
  s.modCore k (fun c => { c with buffer := keepCopy 2048 c.buffer a ws })

/-- The block store of the core's region; a Lodge core has none. -/
def blockStore (s : State) (k : Nat) : List (Nat × List W64) :=
  match keyRegion k with
  | some r => (s.region r).store
  | none => []

/-- The block becomes the latest copy in the buffer and in the region's store of 64 KiB. -/
def noteCopy (s : State) (k a : Nat) (ws : List W64) : State :=
  let s := noteBuffer s k a ws
  match keyRegion k with
  | some r => s.modRegion r (fun g => { g with store := keepCopy 8192 g.store a ws })
  | none => s

/-- The block at a (R199): from the core's buffer, which touches no other copy; else from its region's store; else fetched. -/
def getBlock (s : State) (k : Nat) (a : W64) : FetchRes :=
  match copyOf (s.core k).buffer a.toNat with
  | some ws => .ok (noteBuffer s k a.toNat ws) ws false
  | none =>
    match copyOf (blockStore s k) a.toNat with
    | some ws => .ok (noteCopy s k a.toNat ws) ws false
    | none =>
      match fetchBlock s k a with
      | .ok s ws false => .ok (noteCopy s k a.toNat ws) ws false
      | x => x

/- Decoding it (R318 to R320). -/

structure ParsedBlock where
  head : BlockHeader
  live : Option Liveness
  words : List W64
  recLen : Nat
  deriving DecidableEq, Repr

/-- The checks of R320 in their order; a refusal with its AUX. -/
def parseBlock (kind : CoreKind) (tagFields : Nat) (ws : List W64) : Except (Reject × BitVec 32) ParsedBlock :=
  match decodeHeader (ws.getD 0 0) (ws.getD 1 0) with
  | .error e => .error (e, 0xFFFFFFFF)
  | .ok h =>
    let is := (ws.drop 2).take h.count
    let rs := ws.drop (2 * h.loff)
    match (if h.pp then (decodeRecord rs).map some else .ok none) with
    | .error e => .error (e, 0xFFFFFFFF)
    | .ok live =>
      match decodeInstrs kind h.mask tagFields 0 [] is with
      | .error (e, i) => .error (e, BitVec.ofNat 32 i)
      | .ok _ => .ok { head := h, live := live, words := is, recLen := if h.pp then recordLen (rs.getD 1 0) else 0 }

/-- TT of the task a kiosk runs. -/
def taskTag (s : State) (k : Nat) : W64 :=
  if k % 10 == 0 || 640 ≤ k then 0
  else
    let x := s.kiosk (k / 10) (k % 10 - 1)
    ((x.run.bind (fun t => fget x.slots t.1)).map (·.tt)).getD 0

/-- The special sources, latched as the block starts (R342). -/
def latch (s : State) (k : Nat) (a : W64) : Latched :=
  let tt := (taskTag s k).toNat
  let p : Parser := if k < 640 && k % 10 == 0 then (s.region (k / 10)).parser else {}
  { baddr := a, ttl := BitVec.ofNat 64 (tt % 2 ^ 32), tth := BitVec.ofNat 64 (tt / 2 ^ 32), mord := BitVec.ofNat 64 p.ord
    drc := BitVec.ofNat 64 p.drc, rid := BitVec.ofNat 64 (k / 10 + (if 640 ≤ k then k % 10 else 0)), time := BitVec.ofNat 64 s.ns }

/-- The block at a does not start (R94, R320). -/
def startFault (s : State) (k : Nat) (a : W64) (c : FCode) (aux : BitVec 32) : State :=
  let s := s.modCore k (fun x => { x with run := { x.run with spec := { x.run.spec with baddr := a } } })
  exactFault s k
    { code := c.num, mid := coreMid k, flg := recordFlg true false (c == .poison), tag := taskTag s k, opa := a, aux := aux }

/-- o-slots that the block's words name in D. -/
def namesO (ws : List W64) (n : Nat) : Bool :=
  ws.any (fun w => match wordDst w with
    | some (.o m) => m.val == n
    | _ => false)

/-- The block's run at its start. -/
def newRun (s : State) (k : Nat) (a : W64) (b : ParsedBlock) : BlockRun :=
  let c := s.core k
  { mask := b.head.mask, nst := b.head.nst, pp := b.head.pp, live := b.live
    nextAddr := a + BitVec.ofNat 64 (nextBlockOff b.head b.recLen)
    slots := b.words.map (fun w => { word := w }), pre := c.pre.filter (fun x => !namesO b.words x.1)
    spec := latch s k a, startCyc := s.cyc, trap := c.inTrap }

/-- What keeps core k from starting its next block: operations to leave (R365), an invalidation (R382), a fault that waits for the Pergola's
trap block (R93, R94), a pre-emption (R85), no gang, a boot that has not released the Lodge (R40). -/
def startHeld (s : State) (k : Nat) : Bool :=
  let c := s.core k
  !c.outq.isEmpty || c.invs != 0 ||
  (match keyRegion k with
   | none => !s.boot.done
   | some r =>
     let g := s.region r
     g.gang.isNone ||
     (if k % 10 == 0 then !c.inTrap && ((c.failed == 0 && (!g.faults.isEmpty || g.trap.isSome)) || g.stopped.isSome) else coreHeld s k))

/-- BLOCK_START (R199, R320, R321, R342): the block is fetched and decoded, and starts; a fault of either is exact. -/
def stepBlockStart (core : CoreId) (s : State) : State :=
  let k := coreKey core
  let c := s.core k
  match c.phase with
  | .start a =>
    if postDue k c then takePost s k
    else if startHeld s k then s
    else
      match getBlock s k a with
      | .wait s => s
      | .fault s c cause => startFault s k a c (if c == .xlate then BitVec.ofNat 32 cause else 0xFFFFFFFF)
      | .ok s _ true => startFault s k a .poison 0xFFFFFFFF
      | .ok s ws false =>
        let layout := match keyRegion k with
          | some r => 2 ^ (s.region r).layout.length - 1
          | none => 0
        match parseBlock (coreKind core) layout ws with
        | .error (e, aux) => startFault s k a (rejectCode e) aux
        | .ok b =>
          let run := newRun s k a b
          s.modCore k (fun c => { c with phase := .running, run := run })
  | _ => s

/- The end of a block (R346, R347). -/

/-- The record of instruction i's fault (R347). -/
def slotRecord (s : State) (k i : Nat) (x : Slot) : FaultRec :=
  let (code, cause) := x.fault.getD (0, 0)
  { code := code, mid := coreMid k, flg := recordFlg x.opa.isSome x.opb.isSome (code == FCode.poison.num), tag := taskTag s k
    opa := x.opa.getD 0, opb := x.opb.getD 0, aux := auxOf code cause i }

/-- The D of an executed instruction that names a g-register. -/
def slotG (x : Slot) : Option Nat :=
  if x.off then none
  else
    match wordDst x.word with
    | some (.g n) => some n.val
    | _ => none

/-- The D an operation is answered into. -/
def lateG : OutOp → Option Nat
  | .ldc g _ _ _ _ _ | .atomic _ _ g _ _ _ _ | .launch g _ _ => some g
  | _ => none

/-- An operation whose D a later instruction of its block writes too is answered into no register (R345). -/
def withoutG : OutOp → OutOp
  | .ldc _ t va n tgt c => .ldc 64 t va n tgt c
  | .atomic f t _ va tgt b c => .atomic f t 64 va tgt b c
  | .launch _ va tgt => .launch 64 va tgt
  | op => op

/-- The block writes a register whose reply has not arrived (R366). -/
def overwritesPending (c : Core) : Bool :=
  c.run.slots.any (fun x => match slotG x with
    | some n => (fgetD c.g n {}).pend
    | none => false)

/-- The g writes, in index order; the D of an operation answered after the commit becomes pending (R346, R366). -/
def commitG (g : FMap GReg) (xs : List Slot) : FMap GReg :=
  xs.foldl (fun g x =>
    match slotG x, x.op with
    | some n, some op =>
      if (lateG op).isSome then fset g n { (fgetD g n {}) with pend := true } else fset g n { val := x.val, poi := x.poi, pend := false }
    | some n, none => fset g n { val := x.val, poi := x.poi, pend := false }
    | none, _ => g) g

/-- The operations of a block in index order (R365). -/
def blockOuts (r : BlockRun) : List Out :=
  (List.range r.slots.length).filterMap (fun i =>
    let x := r.slot i
    if x.off then none
    else x.op.map (fun op =>
      let later := (r.slots.drop (i + 1)).any (fun y => (lateG op).isSome && slotG y == lateG op)
      { idx := i, baddr := r.spec.baddr, op := if later then withoutG op else op, stale := x.stale }))

/-- The branch of a block (R360). -/
def blockBranch (r : BlockRun) : BrAct :=
  match (r.slot (r.slots.length - 1)).br with
  | some .fall => .goto r.nextAddr
  | some b => b
  | none => .goto r.nextAddr

/-- The trap block keeps the addresses of its blocks: a fault of their operations after the commit is a fault inside it (R94, R367). -/
def noteTrapBlock (s : State) (k : Nat) : State :=
  let c := s.core k
  if !c.inTrap || 640 ≤ k then s
  else s.modRegion (k / 10) (fun g => { g with trap := g.trap.map (fun t => { t with blks := c.run.spec.baddr :: t.blks }) })

/-- No translation of core k is withheld any more: loads that the block did not need end with it (R346). -/
def dropHeld (s : State) (k : Nat) : State :=
  match keyRegion k with
  | some r =>
    if (s.region r).withheld.any (fun x => x.key == 2 * k) then
      s.modRegion r (fun g => { g with withheld := g.withheld.filter (fun x => x.key != 2 * k) })
    else s
  | none => s

/-- The block commits (R346). -/
def commitBlock (s : State) (k : Nat) : State :=
  (dropHeld (noteTrapBlock s k) k).modCore k (fun c =>
    { c with
      g := commitG c.g c.run.slots, outq := blockOuts c.run, phase := .ending (blockBranch c.run), failed := 0, pre := []
      run := { c.run with slots := [], o := [] } })

/-- F_BLKINC (R346, R347). -/
def blockIncomplete (s : State) (k : Nat) : State :=
  exactFault s k
    { code := FCode.blkinc.num, mid := coreMid k, tag := taskTag s k
      aux := match firstUnfired (s.core k).run with
        | some i => BitVec.ofNat 32 i
        | none => 0xFFFFFFFE }

/-- The residue check of the block fails (R56): it starts again; the third failure raises F_ECCU. -/
def residueFails (s : State) (k : Nat) : State :=
  let c := s.core k
  let a := c.run.spec.baddr
  if c.failed < 2 then s.setCore k { c with failed := c.failed + 1, phase := .start a }
  else
    exactFault (s.setCore k { c with failed := 0 }) k
      { code := FCode.eccu.num, mid := coreMid k, flg := recordFlg true false false, tag := taskTag s k, opa := a }

/-- The running block ends: it faults, is incomplete, fails its residue check, or commits. -/
def blockEnds (s : State) (k : Nat) : State :=
  let c := s.core k
  match firstFault c.run with
  | some (i, x) => exactFault s k (slotRecord s k i x)
  | none =>
    match commitAt c.run with
    | none => blockIncomplete s k
    | some _ =>
      if overwritesPending c then s
      else
        match s.inputs.residue with
        | j :: js =>
          if j == k then residueFails { s with inputs := { s.inputs with residue := js } } k else commitBlock s k
        | [] => commitBlock s k

/- Engine commands (R422). -/

/-- The cores that may issue a KIND. -/
def mayIssue (kind core : Nat) : Bool :=
  if 640 ≤ core then 0x08 ≤ kind && kind ≤ 0x0A
  else if kind == 0x18 || kind == 0x19 || (0x30 ≤ kind && kind ≤ 0x32) then core % 10 == 0
  else if 0x20 ≤ kind && kind ≤ 0x22 then core % 10 == 9
  else true

/-- A window command enters its window's queue of sixteen. -/
def queueWin (s : State) (d : Desc) : Option State :=
  if !winDescBad d && 16 ≤ (fgetD s.wq d.win []).length then none else some (acceptWin d.win s d)

/-- The unit of a KIND takes the command, or none where its queue is full. -/
def unitTakes (s : State) (d : Desc) : Option State :=
  let k := d.kind
  if k ≤ 0x04 then acceptBox s d
  else if k ≤ 0x0A then queueWin s d
  else if k ≤ 0x11 then acceptMe s d
  else if k == 0x12 then acceptArm s d
  else if k ≤ 0x19 then acceptCrs s d
  else if k ≤ 0x22 then acceptTrl s d
  else if k == 0x28 then acceptTrn s d
  else if k ≤ 0x32 then acceptCfg s d
  else acceptColl s d

/-- The region's command router (R383, R422). -/
def routeCmd (s : State) (d : Desc) : Option State :=
  let s := countCmd s d
  if mayIssue d.kind d.by_.core then unitTakes s d else some (rejectDesc s d .desc 0)

/-- A swap, a barrier or a crs.ring holds back the later commands of its Pergola (R183, R227). -/
def engHeld (s : State) (k : Nat) : Bool :=
  k < 640 && k % 10 == 0 && (cfgHolds s (k / 10) || (s.crs (k / 10)).q.any (fun d => d.kind == 0x18))

/- Operations leave the core (R365). -/

/-- A state, and whether the operation has left. -/
abbrev Left := State × Bool

/-- The access an operation of core k makes. -/
def opAccess (s : State) (k : Nat) (who : Who) (kind : AKind) (va : W64) (n : Nat) (tgt : Tgt) : Access :=
  { who := who, kind := kind, mid := coreMid k, tgt := tgt, va := va, n := n, since := s.ns
    gang := match keyRegion k with
      | some r => (s.region r).gang.getD 0
      | none => 0 }

/-- A store at commit (R370, R372). -/
def leaveSt (s : State) (k : Nat) (o : Out) (va : W64) (n : Nat) (v : W64) (poi : Bool) (tgt : Tgt) : Left :=
  if tgt.cached then (coreStore s k va n v poi tgt, true)
  else
    let a := { opAccess s k (.op k o.idx o.baddr) .write va n tgt with data := leBytes v.toNat n, poi := poi }
    match a.locate s with
    | .at_ s ma => (s.storeMem ma a.data poi, true)
    | .wait s => (s, false)
    | .refused s c cause => (refuse s a c cause, true)
    | .remote s d w c off => (sendRemote s a d w c off, true)

/-- An access that bypasses the cache leaves once the core has written back and dropped the line (R370). -/
def leaveBypass (s : State) (k : Nat) (a : Access) (m : NetMsg) : Left :=
  match bypassLine s k a.va a.n with
  | (s, false) => (s, false)
  | (s, true) => if clashes s k a.va a.n true a.chain.isSome then (s, false) else (s.send m, true)

/-- A load of the core has not returned. -/
def loadsOut (s : State) (k : Nat) : Bool := (outstanding s).any (fun x => whoCore x.1.who == some k && readsOnly x.1.kind)

/-- crel at commit, once every load of the core before it has returned (R375). -/
def leaveCrel (s : State) (k : Nat) (o : Out) (va : W64) (tgt : Tgt) : Left :=
  let size := match tgt with
    | .win die w _ => tileSize (s.win (die * 4096 + w))
    | _ => 1
  match bypassLine s k va size with
  | (s, false) => (s, false)
  | (s, true) =>
    if loadsOut s k || clashes s k va size true false then (s, false) else (s.send (.crel (opAccess s k (.op k o.idx o.baddr) .cread va 1 tgt)), true)

/-- An atomic of core k is on its way: each completes before the next one issues (R149). -/
def atomicOut (s : State) (k : Nat) : Bool :=
  s.net.any (fun m => match onWay m with
    | some (a, _) => a.kind == .atomic && whoCore a.who == some k
    | none => false)

def leaveAtomic (s : State) (k : Nat) (o : Out) (fn : Nat) (t : Ty) (g : Nat) (va : W64) (tgt : Tgt) (b c : W64) : Left :=
  if atomicOut s k then (s, false)
  else
    let a := { opAccess s k (.reg k g o.idx o.baddr) .atomic va (tyBytes t) tgt with fn := fn, t := t, b := b, c := c }
    leaveBypass s k a (.atomic a)

/-- A release leaves after every operation before it is performed; a wide one closes the epoch (R147, R159, R378). -/
def leaveRel (s : State) (k : Nat) (o : Out) (va : W64) (tgt : Tgt) (v : W64) (poi : Bool) (sc : Scope) : Left :=
  match bypassLine s k va 8 with
  | (s, false) => (s, false)
  | (s, true) =>
    if !coreSettled s k then (s, false)
    else
      let wide := scopeWide sc
      let e := (s.core k).epoch
      let a := { opAccess s k (.op k o.idx o.baddr) .write va 8 tgt with
        data := leBytes v.toNat 8, poi := poi, scope := sc, epoch := if wide then some e else none }
      let s := if wide then s.modCore k (fun c => { c with epoch := e + 1 }) else s
      (s.send (.release a), true)

/-- A fence at commit (R379): what left before it is performed, and with a wide scope every dirty byte is written back. -/
def leaveFence (s : State) (k : Nat) (sc : Scope) : Left :=
  let (s, ok) := if scopeWide sc then flushAll s k else (s, true)
  (s, ok && coreSettled s k)

/-- pf at commit (R115, R381). -/
def leavePf (s : State) (k : Nat) (o : Out) (va : W64) (tgt : Tgt) (len tag : W64) (mst : Nat) (q1 : Bool) : Left :=
  match tgt with
  | .win die w off =>
    let key := die * 4096 + w
    let x := s.win key
    let q := if q1 then 1 else 0
    if len == 0 || x.kind == 0 then
      if 640 ≤ k then (s, true)
      else
        let r := k / 10
        let y := s.site r (mstSite mst)
        let ts := fgetD y.q q []
        if 4 ≤ ts.length then (s, false)
        else (moved (s.setSite r (mstSite mst) { y with q := fset y.q q (ts ++ [{ kind := .ctl, v := 0, tag := tag }]) }) r (mstSite mst), true)
    else
      (match joinFill s key
          { by_ := .core k, mid := coreMid k, cnt := 0, pf := true, last := some ((off + len.toNat - 1) / tileSize x)
            tok := if 640 ≤ k then none else some (k / 10, mst, q, tag), want := true, addr := va.toNat, idx := o.idx, baddr := o.baddr } with
       | some s => (s, true)
       | none => (postFault s k .winstate 0 o.idx va o.baddr none, true))
  | _ => (s, true)

/-- The regions that a scope reaches from core k (R135, R140). -/
def scopeRegions (s : State) (k : Nat) (sc : Scope) : List Nat :=
  match sc with
  | .stn => List.range 64
  | sc =>
    if 640 ≤ k then []
    else
      let r := k / 10
      match sc with
      | .die => (List.range 16).map (fun i => r / 16 * 16 + i)
      | .gang => ((regionGang s r).map (fun g => g.2.regions)).getD [r]
      | _ => [r]

def leaveInv (s : State) (k : Nat) (va len : W64) (sc : Scope) : Left :=
  if len == 0 then (s, true)
  else
    ((s.modCore k (fun c => { c with invs := c.invs + 1 })).send
      (.inval k va.toNat (va.toNat + len.toNat - 1) (scopeRegions s k sc) false []), true)

/-- eng at commit (R157, R383): the dirty lines are written back and stand at their targets, the descriptor is read, and its unit takes it. -/
def leaveEng (s : State) (k : Nat) (o : Out) (d : W64) : Left :=
  if engHeld s k then (s, false)
  else
    match flushAll s k with
    | (s, false) => (s, false)
    | (s, true) =>
      if wbOut s k then (s, false)
      else
      let by_ : Issuer := { core := k, idx := o.idx, baddr := o.baddr }
      match readDesc s d by_ with
      | .wait s => (s, false)
      | .refuse s c => (refuseDesc s { addr := d, by_ := by_ } c 0, true)
      | .fault s c cause => (s.send (.fault k (postRecord k c cause o.idx d o.baddr 0) none), true)
      | .ok s x =>
        match routeCmd s x with
        | some s => (s, true)
        | none => (s, false)

/-- One word by core k, as its plain loads read it, after its earlier writes of those bytes (R142, R159, R370). Where another station holds it, what
goes through the cache is fetched as a whole line. -/
def coreReadWord (s : State) (k : Nat) (a : W64) : UnitRes :=
  match translate s k .read a 8 with
  | .withheld s va => .wait (fetchHeld s k va)
  | .fault s c cause => .fault (fetchFree s k a) c.num cause
  | .ok s t =>
    let s := fetchFree s k a
    if clashes s k a 8 false false then .wait s
    else
      match coreLoad s k a 8 t with
      | .ok s bs poi _ => .ok s bs (poi.any id)
      | .wait s => .wait s
      | .refused s c cause => .fault s c.num cause
      | .remote s d w c o =>
        let lo := if t.cached then a.toNat % 64 else 0
        match unitPiece s (k / 10) (coreMid k % 256) d w c (o - lo) (if t.cached then 64 else 8) .read with
        | .ok s bs poi =>
          if t.cached then
            let (s, bs, ps) := fillLine s k a 8 (t.sub lo) bs (if poi then BitVec.allOnes 16 else 0)
            .ok s bs (ps.any id)
          else .ok s bs poi
        | x => x

/-- n words from a by core k. -/
def coreReadWords (s : State) (k : Nat) : Nat → W64 → UnitRes
  | 0, _ => .ok s [] false
  | n + 1, a =>
    match coreReadWord s k a with
    | .ok s bs p =>
      (match coreReadWords s k n (a + 8) with
       | .ok s cs q => .ok s (bs ++ cs) (p || q)
       | x => x)
    | x => x

/-- launch at commit (R384): its body is read through the data cache. -/
def leaveLaunch (s : State) (k : Nat) (o : Out) (g : Nat) (va : W64) : Left :=
  let fault (s : State) (code cause : Nat) (tag : W64) : State :=
    s.send (.fault k (postRecord k code cause o.idx va o.baddr tag) (some g))
  match (coreReadWords s k (bodyBytes / 8) va).ends (k / 10) (coreMid k % 256) with
  | .wait s => (s, false)
  | .fault s c cause => (fault s c cause 0, true)
  | .ok s _ true => (fault s FCode.poison.num 0 0, true)
  | .ok s bs false =>
    match regionGang s (k / 10) with
    | none => (s, true)
    | some (_, x) =>
      match launchStatus s x.sid bs with
      | .ok =>
        let (s, lid) := acceptLaunch s x.sid bs (some (k / 160))
        (s.send (.reply k g lid false), true)
      | st => (fault s FCode.desc.num 0 (BitVec.ofNat 64 st.num), true)

/-- wsr at commit (R386). -/
def leaveWsr (s : State) (k n : Nat) (v : W64) : State :=
  match regFor k n with
  | some (x, r) => writeReg s (640 ≤ k) x r v
  | none => s

/-- The core's first operation that is still to leave does so, if it can (R365). -/
def leaveOp (s : State) (k : Nat) (o : Out) : Left :=
  let op := Who.op k o.idx o.baddr
  let reg (g : Nat) := Who.reg k g o.idx o.baddr
  match o.op with
  | .st va n v poi tgt => if clashes s k va n true false then (s, false) else leaveSt s k o va n v poi tgt
  | .stp va v poi tgt =>
    let a := { opAccess s k op .pWrite va 8 tgt with data := leBytes v.toNat 8, poi := poi }
    leaveBypass s k a (.presence a)
  | .ldc g t va n tgt c =>
    let a := { opAccess s k (reg g) .chRead va n tgt with t := t, chain := some c }
    leaveBypass s k a (.chain a)
  | .stc va n v poi tgt c =>
    let a := { opAccess s k op .chWrite va n tgt with data := leBytes v.toNat n, poi := poi, chain := some c }
    leaveBypass s k a (.chain a)
  | .cnull c => (s.send (.chain { opAccess s k op .chWrite 0 0 (.cmn 0 0) with chain := some c }), true)
  | .crel va tgt => leaveCrel s k o va tgt
  | .atomic fn t g va tgt b c => leaveAtomic s k o fn t g va tgt b c
  | .rel va tgt v poi sc => leaveRel s k o va tgt v poi sc
  | .fence sc => leaveFence s k sc
  | .pf va tgt len tag mst q1 => leavePf s k o va tgt len tag mst q1
  | .inv va len sc => leaveInv s k va len sc
  | .eng d _ => leaveEng s k o d
  | .launch g va _ => leaveLaunch s k o g va
  | .snap => (ringBell s, true)
  | .wsr n v => (leaveWsr s k n v, true)
  | .tact site m fn v =>
    (s.send (.tact (k / 10) site { ord := m, fn := fn, v := v, gen := (s.region (k / 10)).parser.ord }), true)

/-- The core's first operation, its translation dead (R136), is translated afresh: a refusal is a post-commit fault (R367), and a translation that
is withheld keeps it waiting. -/
def refreshOp (s : State) (k : Nat) (o : Out) : State :=
  let put (s : State) (x : Out) : State := s.modCore k (fun c => { c with outq := x :: c.outq.drop 1 })
  match o.op.addr with
  | none => put s { o with stale := false }
  | some (kind, va, n) =>
    match translate s k kind va n with
    | .ok s t => put (fetchFree s k va) { o with op := o.op.retarget t, stale := false }
    | .withheld s held => fetchHeld s k held
    | .fault s c cause =>
      (postFault (fetchFree s k va) k c cause o.idx va o.baddr (lateG o.op)).modCore k (fun c => { c with outq := c.outq.drop 1 })

/-- One operation leaves; every access waits while an invalidation of the core is in progress (R382). -/
def drainOp (s : State) (k : Nat) : State :=
  let c := s.core k
  match c.outq with
  | [] => s
  | o :: _ =>
    if c.invs != 0 then s
    else if o.stale then refreshOp s k o
    else
      match leaveOp s k o with
      | (s, true) => s.modCore k (fun c => { c with outq := c.outq.drop 1 })
      | (s, false) => s

/- The branch takes effect (R360 to R362, R388 to R391). -/

/-- The task of kiosk core k ends (R221, R388). -/
def endTask (s : State) (k : Nat) : State :=
  let r := k / 10
  let x := s.kiosk r (k % 10 - 1)
  (s.setKiosk r (k % 10 - 1)
    { x with run := none, slots := match x.run with
        | some t => ferase x.slots t.1
        | none => x.slots }).modCore k (fun c => { c with phase := .idle })

/-- The action of the Pergola ends (R198, R362, R389). -/
def endAction (s : State) (k : Nat) : State :=
  if (s.core k).inTrap then trapNest s (k / 10)
  else
    (s.modRegion (k / 10) (fun g => { g with parser := { g.parser with st := g.parser.back, back := .parse } })).modCore k
      (fun c => { c with phase := .idle })

/-- The branch of core k's block takes effect. -/
def takeEffect (s : State) (k : Nat) (b : BrAct) : State :=
  let go (a : W64) : State := s.modCore k (fun c => { c with phase := .start a })
  let next := (s.core k).run.nextAddr
  match b with
  | .fall => go next
  | .goto a => go a
  | .aret => endAction s k
  | .tend => endTask s k
  | .tret sup a => if 640 ≤ k then lodgeReturn s k sup a else trapReturn s (k / 10) sup a
  | .abort => if 640 ≤ k then s.modCore k (fun c => { c with phase := .halted next }) else abortRegion s (k / 10)
  | .halt => s.modCore k (fun c => { c with phase := .halted next })

/-- The commit of a pre-emption-point block stops the Pergola under a request, and under a park the commit of any block does (R85, R134): its
phase becomes the resume point. -/
def stopAtPoint (s : State) (k : Nat) (pp : Bool) : State :=
  match keyRegion k with
  | none => s
  | some r =>
    let asked := ((regionGang s r).map (fun g => g.2.pre.isSome && (pp || g.2.park.isSome))).getD false
    if k % 10 == 0 && asked && !(s.core k).inTrap && (s.region r).stopped.isNone then
      let p := (s.core k).phase
      (s.modRegion r (fun g => { g with stopped := some p, live := (s.core k).run.live })).modCore k (fun c => { c with phase := .idle })
    else s

/-- BLOCK_COMMIT (R56, R346, R347, R365): a running block whose conditions hold, or with nothing more to fire, commits or faults; then its operations leave one after
another, and its branch takes effect. -/
def stepBlockCommit (core : CoreId) (s : State) : State :=
  let k := coreKey core
  let c := s.core k
  match c.phase with
  | .running => if blockReady c then blockEnds s k else s
  | .ending b =>
    if c.outq.isEmpty then
      let inTrap := c.inTrap
      let s := stopAtPoint (takeEffect s k b) k (c.run.pp && !inTrap)
      takePost s k
    else drainOp s k
  | _ => s

/-- AFTER_COMMIT_REPLY (R366): the reply fills its pending register. -/
def stepAfterCommitReply (k : Nat) (s : State) : State :=
  match s.msg k with
  | some (.reply core g v poi) =>
    (s.drop k).modCore core (fun c =>
      if (fgetD c.g g {}).pend then { c with g := fset c.g g { val := v, poi := poi, pend := false } } else c)
  | _ => s

end Sys2Proof.Machine
end

