-- ==== Sys2Proof/Machine/Float.lean ====
section
/-! DEFINITION. Floating point and conversion instructions of blocks (R355 to R358). Latencies follow R364. -/

namespace Sys2Proof.Machine

/-- A .f32 source: bits 31:0 (R343). -/
def f32Src (vs : List W64) (k : Nat) : Nat := (vs.getD k 0).toNat % 2 ^ 32

def f32Word (v : Nat) : W64 := BitVec.ofNat 64 v

def stepFadd (d : Dst) (a b : Src) (p : Option Pred) (s : State) : State :=
  execPure d p [a, b] 4 (fun vs => f32Word (f32Add (f32Src vs 0) (f32Src vs 1))) s
def stepFsub (d : Dst) (a b : Src) (p : Option Pred) (s : State) : State :=
  execPure d p [a, b] 4 (fun vs => f32Word (f32Sub (f32Src vs 0) (f32Src vs 1))) s
def stepFmul (d : Dst) (a b : Src) (p : Option Pred) (s : State) : State :=
  execPure d p [a, b] 4 (fun vs => f32Word (f32Mul (f32Src vs 0) (f32Src vs 1))) s
def stepFma (d : Dst) (a b c : Src) (p : Option Pred) (s : State) : State :=
  execPure d p [a, b, c] 4 (fun vs => f32Word (f32Fma (f32Src vs 0) (f32Src vs 1) (f32Src vs 2))) s
def stepFmin (d : Dst) (a b : Src) (p : Option Pred) (s : State) : State :=
  execPure d p [a, b] 1 (fun vs => f32Word (f32Min (f32Src vs 0) (f32Src vs 1))) s
def stepFmax (d : Dst) (a b : Src) (p : Option Pred) (s : State) : State :=
  execPure d p [a, b] 1 (fun vs => f32Word (f32Max (f32Src vs 0) (f32Src vs 1))) s
def stepFabs (d : Dst) (a : Src) (p : Option Pred) (s : State) : State :=
  execPure d p [a] 1 (fun vs => f32Word (f32Abs (f32Src vs 0))) s
def stepFneg (d : Dst) (a : Src) (p : Option Pred) (s : State) : State :=
  execPure d p [a] 1 (fun vs => f32Word (f32Neg (f32Src vs 0))) s

def stepFcmpeq (d : Dst) (a b : Src) (p : Option Pred) (s : State) : State :=
  execPure d p [a, b] 1 (fun vs => boolWord (f32Rel .eq (vs.getD 0 0) (vs.getD 1 0))) s
def stepFcmplt (d : Dst) (a b : Src) (p : Option Pred) (s : State) : State :=
  execPure d p [a, b] 1 (fun vs => boolWord (f32Rel .lt (vs.getD 0 0) (vs.getD 1 0))) s
def stepFcmple (d : Dst) (a b : Src) (p : Option Pred) (s : State) : State :=
  execPure d p [a, b] 1 (fun vs => boolWord (f32Rel .le (vs.getD 0 0) (vs.getD 1 0))) s

def stepFrsqs (d : Dst) (a : Src) (p : Option Pred) (s : State) : State :=
  execPure d p [a] 2 (fun vs => f32Word (rsqSeed (f32Src vs 0))) s
def stepFrcps (d : Dst) (a : Src) (p : Option Pred) (s : State) : State :=
  execPure d p [a] 2 (fun vs => f32Word (rcpSeed (f32Src vs 0))) s

/-- An exact value in .f32 or .bf16 (R358). -/
def toFloat (t : Ty) (v : Exact) : W64 := BitVec.ofNat 64 (if t == .bf16 then encBf16 false v else rneF32 v)

def stepCvti (t : Ty) (d : Dst) (a : Src) (p : Option Pred) (s : State) : State :=
  execPure d p [a] 2 (fun vs => toFloat t (exactOfInt (readTy .i64 (vs.getD 0 0)))) s
def stepCvtn (t : Ty) (d : Dst) (a : Src) (p : Option Pred) (s : State) : State :=
  execPure d p [a] 2 (fun vs => toFloat t (exactOfInt (readTy .n64 (vs.getD 0 0)))) s
def stepCvtt (t : Ty) (d : Dst) (a : Src) (p : Option Pred) (s : State) : State :=
  execPure d p [a] 2 (fun vs => wrapTy t (exactToInt false (tySigned t) (tyBits t) (decF32 (f32Src vs 0)))) s
def stepCvte (t : Ty) (d : Dst) (a : Src) (p : Option Pred) (s : State) : State :=
  execPure d p [a] 2 (fun vs => wrapTy t (exactToInt true (tySigned t) (tyBits t) (decF32 (f32Src vs 0)))) s

/-- cvtb: .f32 from .bf16 exactly, or .bf16 from .f32 (R358). -/
def stepCvtb (t : Ty) (d : Dst) (a : Src) (p : Option Pred) (s : State) : State :=
  execPure d p [a] 2 (fun vs =>
    if t == .bf16 then toFloat .bf16 (decF32 (f32Src vs 0)) else toFloat .f32 (decBf16 ((vs.getD 0 0).toNat % 2 ^ 16))) s

/-- The channel scale of cvtq: bits 7:0 of B, signed (R358). -/
def cvtqScale (b : W64) : Int := sextInt b.toNat 8

def stepCvtq (t : Ty) (d : Dst) (a b : Src) (sat : Bool) (p : Option Pred) (s : State) : State :=
  execPure d p [a, b] 2 (fun vs =>
    let k := cvtqScale (vs.getD 1 0)
    if t == .t8 then BitVec.ofNat 64 (encT8 k sat (decF32 (f32Src vs 0)))
    else f32Word (rneF32 (decT8 k ((vs.getD 0 0).toNat % 256)))) s

end Sys2Proof.Machine
end

