-- ==== Sys2Proof/Machine/Keccak.lean ====
section
/-! DEFINITION. SHAKE256 as FIPS 202 defines it (R42, R45, R64), from the recurrences that the standard gives for its constants. PRESUMED from
FIPS 202, which the manual names; log 10. -/

namespace Sys2Proof.Machine

/-- A step of the register that draws the round constants' bits: x^8 + x^6 + x^5 + x^4 + 1. -/
def lfsrStep (x : Nat) : Nat := let y := 2 * x; if 256 ≤ y then (y - 256) ^^^ 0x71 else y

/-- The register after n steps from 1. -/
def lfsrAt : Nat → Nat
  | 0 => 1
  | n + 1 => lfsrStep (lfsrAt n)

/-- Round r's constant: bit 2^j − 1 is the register's lowest bit after j + 7 r steps. -/
def roundWord (r : Nat) : W64 :=
  (List.range 7).foldl (fun w j => if lfsrAt (j + 7 * r) % 2 == 1 then w ||| BitVec.ofNat 64 (2 ^ (2 ^ j - 1)) else w) 0

/-- A state is 25 words; the one in column x of row y stands at x + 5 y. The word at x and y, each taken modulo 5. -/
def cellOf (st : List W64) (x y : Nat) : W64 := st.getD (y % 5 * 5 + x % 5) 0

/-- The parity of a column. -/
def parity (st : List W64) (x : Nat) : W64 := (List.range 5).foldl (fun w y => w ^^^ cellOf st x y) 0

/-- Theta: each word takes the parities of the columns beside its own. -/
def mixColumns (st : List W64) : List W64 :=
  st.zipIdx.map (fun e => e.1 ^^^ parity st (e.2 + 4) ^^^ (parity st (e.2 + 1)).rotateLeft 1)

/-- Where the walk over the words goes from a place: from (x, y) to (y, 2x + 3y). -/
def walkNext (p : Nat) : Nat := p / 5 + 5 * ((2 * (p % 5) + 3 * (p / 5)) % 5)

/-- Rho and pi in one walk from place 1: the word met in step t goes to the next place, turned by the t-th triangular number. -/
def moveWords (st : List W64) : Nat → Nat → List W64 → List W64
  | 0, _, out => out
  | n + 1, p, out =>
    let t := 24 - n
    moveWords st n (walkNext p) (out.set (walkNext p) ((st.getD p 0).rotateLeft (t * (t + 1) / 2 % 64)))

/-- Chi: each word takes its right-hand neighbour's zeros against the next one. -/
def mixRows (st : List W64) : List W64 :=
  st.zipIdx.map (fun e => e.1 ^^^ (~~~cellOf st (e.2 % 5 + 1) (e.2 / 5) &&& cellOf st (e.2 % 5 + 2) (e.2 / 5)))

/-- Keccak-f[1600]: rounds r to 23, as many as are left. -/
def permute : Nat → List W64 → List W64
  | 0, st => st
  | n + 1, st =>
    let m := mixColumns st
    let next := mixRows (moveWords m 24 1 m)
    permute n (next.modify 0 (· ^^^ roundWord (23 - n)))

/-- Bytes as words of eight, little-endian, as many words as asked. -/
def wordsLe : Nat → List Byte → List W64
  | 0, _ => []
  | n + 1, bs => (bs.take 8).reverse.foldl (fun w b => w <<< 8 ||| b.setWidth 64) 0 :: wordsLe n (bs.drop 8)

/-- A block of 136 bytes enters the sponge. -/
def takeBlock (st : List W64) (blk : List Byte) : List W64 :=
  permute 24 (((wordsLe 17 blk).zipWith (· ^^^ ·) (st.take 17)) ++ st.drop 17)

/-- The message with SHAKE's suffix and the padding, to a whole number of blocks. -/
def padShake (bs : List Byte) : List Byte :=
  let gap := 136 - bs.length % 136
  bs ++ (if gap == 1 then [0x9F] else 0x1F :: (List.replicate (gap - 2) 0 ++ [0x80]))

def spongeIn (st : List W64) : Nat → List Byte → List W64
  | 0, _ => st
  | n + 1, bs => spongeIn (takeBlock st (bs.take 136)) n (bs.drop 136)

/-- SHAKE256 of bytes, 512 bits. -/
def shake256 (bs : List Byte) : List Byte :=
  (((spongeIn (List.replicate 25 0) (bs.length / 136 + 1) (padShake bs)).take 8).map (fun (w : W64) =>
    (List.range 8).map (fun i => (w >>> (8 * i)).setWidth 8))).flatten

end Sys2Proof.Machine
end

