-- ==== Sys2Proof/Machine/Power.lean ====
section
/-! DEFINITION. The clamp (R16 to R18, R20), the boot (R40 to R42) and the cycle of AUX (R17, R41). -/

namespace Sys2Proof.Machine

/- The clamp (R17). -/

/-- The hottest sensor, in 1/16 °C. -/
def hottest (x : Sample) : Nat := x.temps.foldl max 0

/-- Limits exceeded by temperature (100 °C), by power (1,800 W). -/
def tooHot (x : Sample) : Bool := 1600 ≤ hottest x
def tooMuch (x : Sample) : Bool := 1800 < x.watts
def exceeded (x : Sample) : Bool := tooHot x || tooMuch x
def cleared (x : Sample) : Bool := x.watts < 1710 && hottest x < 1520
def tripping (x : Sample) : Bool := 1760 ≤ hottest x || x.flowLost

/-- The sample at the head of the inputs, which is taken; CLMPST shows its values (R20). -/
def takeSample (s : State) (mine : Sample → Bool) : Option (Sample × State) :=
  match s.inputs.samples with
  | x :: xs =>
    if mine x then
      some (x, { s with
        inputs := { s.inputs with samples := xs }
        clamp := { s.clamp with pwr := x.watts, tmax := hottest x, temps := x.temps } })
    else none
  | [] => none

/-- A change of state, or a step of the clock: ISOV, a clamp event for the management unit (R37), and an event to every open session (R18). -/
def clampMoved (s : State) (c : Clamp) : State :=
  let s : State := { s with clamp := { c with isov := true }, clampEvents := s.clampEvents ++ [clampWord { c with isov := true }] }
  sendAll s 0x85 (leBytes (clampWord s.clamp).toNat 8)

/-- CLAMP_LIMITS_EXCEEDED (R17): NOM goes to GATE; in GATE and SLOW the 100 µs count goes on, or starts. -/
def stepClampLimitsExceeded (s : State) : State :=
  match takeSample s (fun x => exceeded x && !tripping x) with
  | none => s
  | some (x, s) =>
    let c := { s.clamp with clear := none, excess := some (s.clamp.excess.getD s.ns) }
    if c.st == 0 then
      clampMoved s { c with st := 1, excess := some s.ns, temph := c.temph || tooHot x, pwrh := c.pwrh || tooMuch x }
    else { s with clamp := c }

/-- CLAMP_NEITHER (R17): both counts restart from zero. -/
def stepClampNeither (s : State) : State :=
  match takeSample s (fun x => !exceeded x && !cleared x && !tripping x) with
  | none => s
  | some (_, s) => { s with clamp := { s.clamp with clear := none, excess := none } }

/-- CLAMP_EXCESS_EXPIRY (R17): limits still exceeded after 100 µs lower the clock, down to 1.8 GHz. -/
def stepClampExcessExpiry (s : State) : State :=
  match s.clamp.excess with
  | none => s
  | some t =>
    if s.ns < t + 100000 then s
    else
      match takeSample s (fun x => exceeded x && !tripping x) with
      | none => s
      | some (x, s) =>
        let c := { s.clamp with clear := none, excess := some s.ns }
        if c.st == 1 then clampMoved s { c with st := 2, steps := 1, temph := c.temph || tooHot x, pwrh := c.pwrh || tooMuch x }
        else if c.st == 2 && c.steps < 8 then clampMoved s { c with steps := c.steps + 1 }
        else if c.st == 2 then { s with clamp := { c with half := true } }
        else { s with clamp := c }

/-- CLAMP_CLEAR_EXPIRY (R17): a cleared sample starts the count of clearance; limits cleared for 1 ms raise the clock, and GATE ends. -/
def stepClampClearExpiry (s : State) : State :=
  match takeSample s (fun x => cleared x && !tripping x) with
  | none => s
  | some (_, s) =>
    let t := s.clamp.clear.getD s.ns
    let c := { s.clamp with excess := none, clear := some t }
    if s.ns < t + 1000000 then { s with clamp := c }
    else
      let c := { c with clear := some s.ns }
      if c.st == 1 then clampMoved s { c with st := 0 }
      else if c.st == 2 then clampMoved s { c with steps := c.steps - 1, half := false, st := if c.steps ≤ 1 then 1 else 2 }
      else { s with clamp := c }

/-- THERMTRIP_N is asserted: the clamp has tripped (R17). -/
def thermtripN (s : State) : Bool := s.clamp.st == 3

/-- CLAMP_TRIP (R17): 110 °C, or coolant flow lost. -/
def stepClampTrip (s : State) : State :=
  match takeSample s tripping with
  | none => s
  | some (x, s) => clampMoved s { s.clamp with st := 3, temph := s.clamp.temph || 1760 ≤ hottest x, excess := none, clear := none }

/- The boot (R40 to R42). -/

/-- The image of a slot: its header's fields, the bytes the signature covers, the signature, the ceiling record, the code. -/
structure Image where
  sver : W64
  entry : Nat
  msg : List Byte
  sig : List Byte
  ceil : List Byte
  code : List Byte
  deriving DecidableEq, Repr

/-- Bytes of the SPI device. -/
def spiBytes (s : State) (a n : Nat) : List Byte := readBytes s.mem (spiAddr a) n

/-- Two ranges share no byte. -/
def apart (a n b m : Nat) : Bool := a + n ≤ b || b + m ≤ a

/-- A header field of 8 bytes. -/
def hdrField (h : List Byte) (o : Nat) : Nat := leNat ((h.drop o).take 8)

/-- The header's rules (R42), with CEILLEN against NENT. DESIGN CHOICE, log 42: a byte of the 192 reserved ones that is not zero fails the
header; the rule names reserved bits for the record and its entries. -/
def headerOk (h : List Byte) (nent : Nat) : Bool :=
  let co := hdrField h 24
  let cl := hdrField h 32
  let eo := hdrField h 40
  let el := hdrField h 48
  let so := hdrField h 56
  hdrField h 0 == 0x000072401A6E0001 && hdrField h 16 % 16 == 0 && hdrField h 16 < cl && co % 4096 == 0 && 16 ≤ cl &&
  cl ≤ 2 ^ 25 - 4096 && cl % 16 == 0 && eo % 16 == 0 && el == 16 + 32 * nent && (h.drop 64).all (fun b => b == 0) &&
  256 ≤ co && 256 ≤ eo && 256 ≤ so && co + cl ≤ 2 ^ 25 && eo + el ≤ 2 ^ 25 && so + 29792 ≤ 2 ^ 25 &&
  apart co cl eo el && apart co cl so 29792 && apart eo el so 29792

/-- An entry of the ceiling record: the targets it names and the ceiling entry. -/
structure CeilEntry where
  kind : Nat
  unit : Nat
  first : Nat
  last : Nat
  slot : Nat
  val : W64 × W64
  deriving DecidableEq, Repr

def ceilEntry (bs : List Byte) : CeilEntry :=
  let b (i : Nat) : Nat := (bs.getD i 0).toNat
  { kind := b 0, unit := b 1, first := b 2, last := b 3, slot := b 4
    val := (BitVec.ofNat 64 (leNat ((bs.drop 16).take 8)), BitVec.ofNat 64 (leNat ((bs.drop 24).take 8))) }

/-- Units and targets of a kind (R42). -/
def ceilUnits : Nat → Nat
  | 0 => 4 | 1 => 8 | 2 | 3 | 4 => 1 | _ => 0
def ceilTargets : Nat → Nat
  | 0 => 64 | 1 => 32 | _ => 1

def ceilEntryOk (bs : List Byte) : Bool :=
  let e := ceilEntry bs
  e.unit < ceilUnits e.kind && e.first ≤ e.last && e.last < ceilTargets e.kind && e.slot < 32 &&
  ((bs.drop 5).take 11).all (fun b => b == 0) && nbits e.val.1.toNat 11 8 == 0 && nbits e.val.2.toNat 11 0 == 0 &&
  nbits e.val.1.toNat 47 12 ≤ nbits e.val.2.toNat 47 12

/-- The ceiling slots an entry writes, as target × 32 + slot. -/
def ceilSlots (e : CeilEntry) : List Nat :=
  (List.range (e.last + 1 - e.first)).map (fun i =>
    (match e.kind with
     | 0 => e.unit * 64 + e.first + i
     | 1 => 256 + e.unit * 32 + e.first + i
     | k => 510 + k) * 32 + e.slot)

def ceilEntries (rcd : List Byte) : List (List Byte) :=
  (List.range ((rcd.length - 16) / 32)).map (fun i => (rcd.drop (16 + 32 * i)).take 32)

/-- A ceiling record passes (R42). -/
def ceilOk (rcd : List Byte) : Bool :=
  let es := ceilEntries rcd
  ((rcd.drop 4).take 12).all (fun b => b == 0) && es.all ceilEntryOk && ((es.map ceilEntry).flatMap ceilSlots).Nodup

/-- The image of a slot, if its header passes. -/
def readImage (s : State) (slot : Nat) : Option Image :=
  let base := slot * 2 ^ 25
  let h := spiBytes s base 256
  let nent := leNat (spiBytes s (base + hdrField h 40) 4)
  if !headerOk h nent then none
  else
    let code := spiBytes s (base + hdrField h 24) (hdrField h 32)
    let ceil := spiBytes s (base + hdrField h 40) (hdrField h 48)
    some { sver := BitVec.ofNat 64 (hdrField h 8), entry := hdrField h 16, msg := h ++ code ++ ceil
           sig := spiBytes s (base + hdrField h 56) 29792, ceil := ceil, code := code }

/-- An image that passes R41 and R42. -/
def goodImage (s : State) (slot : Nat) : Option Image :=
  match readImage s slot with
  | none => none
  | some x => if ceilOk x.ceil && Config.slhVerify Config.vendorKey x.msg x.sig && s.boot.floor ≤ x.sver then some x else none

/-- The slot tried first: the higher security version, slot 0 on a tie (R41). -/
def firstSlot (s : State) : Nat := if hdrField (spiBytes s 0 256) 8 < hdrField (spiBytes s (2 ^ 25) 256) 8 then 1 else 0

/-- MREGi takes a digest (R45). -/
def extendMreg (s : State) (i : Nat) (d : List Byte) : State :=
  { s with keys := { s.keys with mreg := s.keys.mreg.set i (shake256 (s.keys.mreg.getD i [] ++ d)) } }

/-- The eight Lodge cores leave reset at the image's entry. -/
def releaseLodge (s : State) (entry : Nat) : State :=
  (List.range 8).foldl (fun s c => s.setCore (640 + c) { phase := .start (BitVec.ofNat 64 entry) }) s

/-- Steps 4 to 7 of R40. -/
def bootImage (s : State) (slot : Nat) (alt : Bool) (x : Image) : State :=
  let s := extendMreg (extendMreg s 0 (shake256 x.msg)) 1 (shake256 x.ceil)
  let s := { s with
    ceil := ((ceilEntries x.ceil).map ceilEntry).foldl (fun t e => (ceilSlots e).foldl (fun t k => fset t k e.val) t) s.ceil
    mem := writeBytes s.mem (codeAddr 0) x.code, access := []
    boot := { s.boot with done := true, slot := slot, alt := alt, lock := true, romX := true, sver := x.sver } }
  releaseLodge s x.entry

/-- BOOT_SEQUENCE (R40, R41): the rails report good. -/
def stepBootSequence (s : State) : State :=
  if s.boot.done || s.boot.fail then s
  else
    let a := firstSlot s
    match goodImage s a with
    | some x => bootImage s a false x
    | none =>
      match goodImage s (1 - a) with
      | some x => bootImage s (1 - a) true x
      | none => { s with boot := { s.boot with fail := true } }

/-- POWER_CYCLE (R17, R41, R44): what stands without power is the SPI device's bytes and the fuses. What waits outside the station still
waits. -/
def stepPowerCycle (s : State) : State :=
  { State.reset with
    ns := s.ns, cyc := s.cyc, free := s.free, agenda := s.agenda, inputs := s.inputs
    mem := s.mem.filter (fun c => spiAddr 0 ≤ c.1), boot := { floor := s.boot.floor }, egress := s.egress }

end Sys2Proof.Machine
end

