-- ==== Sys2Proof/Machine/Keys.lean ====
section
/-! DEFINITION. The key unit (R45, R46, R64) and writes of access-table entries under the ceilings (R48, R49, R52). -/

namespace Sys2Proof.Machine

/-- EXTEND (R45, R46): the Lodge may extend MREG2 and MREG3; while a quote is being signed the extend waits for its end. -/
def stepExtend (s : State) : State :=
  match s.inputs.extends_ with
  | [] => s
  | (rom, i, d) :: rest =>
    let s := { s with inputs := { s.inputs with extends_ := rest } }
    if 3 < i || (!rom && i < 2) then { s with keys := { s.keys with refused := s.keys.refused + 1 } }
    else if s.keys.body.isSome then { s with keys := { s.keys with ext := s.keys.ext ++ [(i, d)] } }
    else extendMreg s i d

/-- The quote body (R46). -/
def quoteBody (s : State) (q : QuoteReq) : List Byte :=
  leBytes 0x51544F5551474147 8 ++ q.nonce ++ s.keys.mreg.flatten ++ leBytes pkgidWord 8 ++ leBytes (bootWord s.boot) 8 ++ q.fw

/-- The unit starts to sign the head of its queue. -/
def startQuote (s : State) : State :=
  match s.keys.body, s.keys.q with
  | none, q :: _ => { s with keys := { s.keys with body := some (quoteBody s q) } }
  | _, _ => s

/-- A request enters the queue of eight; `none` where it is full. DESIGN CHOICE, log 42: the request being signed is one of the eight. -/
def askQuote (s : State) (q : QuoteReq) : Option State :=
  if 8 ≤ s.keys.q.length then none else some (startQuote { s with keys := { s.keys with q := s.keys.q ++ [q] } })

/-- QUOTE_REQUEST (R46): a nonce of 32 bytes and firmware data of 64; a ninth request is refused. -/
def stepQuoteRequest (s : State) : State :=
  match s.inputs.quotes with
  | [] => s
  | q :: rest =>
    let s := { s with inputs := { s.inputs with quotes := rest } }
    let no := { s with keys := { s.keys with refused := s.keys.refused + 1 } }
    if q.nonce.length != 32 || q.fw.length != 64 then no else (askQuote s q).getD no

/-- QUOTE_DONE (R46, R64): the quote is signed; extends that waited take effect, and the next request starts. -/
def stepQuoteDone (s : State) : State :=
  match s.keys.body, s.keys.q with
  | some b, q :: rest =>
    let sig := (Config.slhSign b).toList
    let ext := s.keys.ext
    let s := { s with keys := { s.keys with body := none, q := rest, ext := [], quotes := s.keys.quotes ++ [(b, sig)] } }
    let s := ext.foldl (fun s e => extendMreg s e.1 e.2) s
    let s := if q.sid == 0 then s else complete s q.sid 2 .ok q.ctag (b ++ sig ++ Config.identityKey.toList)
    startQuote s
  | _, _ => s

/-- PUBLIC_KEY_READ (R45, R47). -/
def stepPublicKeyRead (s : State) : State :=
  match s.inputs.keyReads with
  | 0 => s
  | n + 1 => { s with inputs := { s.inputs with keyReads := n }, keys := { s.keys with reads := s.keys.reads ++ [Config.identityKey.toList] } }

/- Access-table entries (R48, R49). -/

/-- Every master the entry matches is matched by the ceiling entry, its window lies within, its rights are a subset (R48). -/
def underCeiling (c e : W64 × W64) : Bool :=
  entryValid c && (entryMask c &&& entryMask e) == entryMask c && (entryMid e &&& entryMask c) == (entryMid c &&& entryMask c) &&
  entryBase c ≤ entryBase e && entryLimit e ≤ entryLimit c && (entryRights e &&& entryRights c) == entryRights e

/-- An entry may be written at a target. -/
def entryAllowed (s : State) (target : Nat) (e : W64 × W64) : Bool :=
  !entryValid e ||
  (entryBase e ≤ entryLimit e && (List.range 32).any (fun i =>
    match fget s.ceil (target * 32 + i) with
    | some c => underCeiling c e
    | none => false))

/-- The Lodge writes an entry; a refused write sets CEILX. -/
def writeEntry (s : State) (target slot : Nat) (e : W64 × W64) : Bool × State :=
  let e := (e.1 &&& ~~~ 0xF00#64, e.2 &&& ~~~ 0xFFF#64)
  if entryAllowed s target e then (true, { s with access := fset s.access (target * 64 + slot) e })
  else (false, { s with ceilx := sinsert s.ceilx target })

/-- ACCESS_ENTRY_WRITE (R48, R52). -/
def stepAccessEntryWrite (s : State) : State :=
  match s.inputs.entries with
  | [] => s
  | (t, i, a, b) :: rest =>
    let s := { s with inputs := { s.inputs with entries := rest } }
    if 514 < t || 63 < i then s else (writeEntry s t i (a, b)).2

end Sys2Proof.Machine
end

