-- ==== Sys2Proof/Machine/Links.lean ====
section
/-! DEFINITION. The Ethernet ports' links and their MACs (R21, R22, R28), the flit links between dies (R34 to R36), the management unit on the
SMBus (R37). -/

namespace Sys2Proof.Machine

/- Ethernet. -/

/-- ETH_LINK_CHANGE (R21, R22): LNKA is the whole port's or half A's, LNKB half B's; a port that is not enabled has no link. -/
def stepEthLinkChange (s : State) : State :=
  match s.inputs.links with
  | [] => s
  | (p, half, up) :: rest =>
    let s := { s with inputs := { s.inputs with links := rest } }
    let x := s.portOf p
    if !x.en then s
    else if half == 0 then s.modPort p (fun x => { x with lnka := up })
    else if half == 1 && x.split then s.modPort p (fun x => { x with lnkb := up })
    else s

/-- MAC_OVERSIZE_DISCARD (R28): a frame longer than the port's MTU is discarded and counted. -/
def stepMacOversizeDiscard (s : State) : State :=
  match s.inputs.frames with
  | [] => s
  | (p, f) :: rest =>
    if s.portOn p && (s.portOf p).mtu < f.ethLen then countMalformed { s with inputs := { s.inputs with frames := rest } } p
    else s

/- Flit links (R34 to R36). A link's number is (bundle × 2 + direction) × 32 + index; bundles 0 to 3 join Cn to the I/O die, 4 to 7 join C0–C1,
C1–C2, C2–C3, C3–C0. -/

def linkBundle (n : Nat) : Nat := n / 64
def linkExists (n : Nat) : Bool := n % 32 < bundleSize (linkBundle n)

def State.link (s : State) (n : Nat) : Link := fgetD s.links n {}
def State.setLink (s : State) (n : Nat) (x : Link) : State := { s with links := fset s.links n x }

/-- Links of one direction of a bundle. -/
def bundleLinks (n : Nat) : List Nat := (List.range (bundleSize (linkBundle n))).map (fun i => n / 32 * 32 + i)

/-- A change of link state is reported to every open session, with the links in service, a retraining one among them (R36, R71). -/
def linkEvent (s : State) (n : Nat) : State :=
  let live := ((bundleLinks n).filter (fun m => !(s.link m).down)).length
  sendAll s 0x86 (leBytes (linkBundle n) 2 ++ leBytes live 2 ++ leBytes 0 4)

/-- Flits that a sender holds until they are acknowledged. -/
def replaySize : Nat := 384

/-- The sender of a link notes a flit it sends for the first time. -/
def noteSent (x : Link) (f : BitVec 112) (lsq : Nat) : Link :=
  if lsq == x.next && x.replay.length < replaySize then { x with next := (x.next + 1) % 1024, replay := x.replay ++ [(lsq, f)] } else x

/-- FLIT_RECEIVE (R34, R35): the flit in sequence with a good CRC is passed up, and its place in the replay buffer is free; one that is bad or
ahead draws a retry request; one that is behind is a duplicate. -/
def stepFlitReceive (s : State) : State :=
  match s.inputs.flits with
  | [] => s
  | (n, f, lsq, good) :: rest =>
    let s := { s with inputs := { s.inputs with flits := rest } }
    let x := noteSent (s.link n) f lsq
    if !linkExists n || x.down || x.training then s
    else
      let x := { x with resend := x.resend.filter (fun e => e.1 != lsq) }
      let d := (lsq + 1024 - x.expect) % 1024
      if good && d == 0 then
        s.setLink n { x with expect := (x.expect + 1) % 1024, passed := x.passed ++ [f], replay := x.replay.filter (fun e => e.1 != lsq) }
      else if good && 512 ≤ d then s.setLink n x
      else s.setLink n { x with asked := x.asked ++ [x.expect] }

/-- RETRY_REQUEST (R35, R36): the sender resends from the named LSQ in order, and counts the consecutive requests for it. -/
def stepRetryRequest (s : State) : State :=
  match s.inputs.retries with
  | [] => s
  | (n, lsq) :: rest =>
    let s := { s with inputs := { s.inputs with retries := rest } }
    let x := s.link n
    if !linkExists n || x.down then s
    else
      s.setLink n { x with
        resend := x.replay.filter (fun e => (e.1 + 1024 - lsq) % 1024 < 512), last := lsq
        count := if x.last == lsq then x.count + 1 else 1 }

/-- LINK_RETRAIN (R36): sixteen consecutive retry requests for one LSQ. -/
def stepLinkRetrain (link : Nat) (s : State) : State :=
  let x := s.link link
  if x.count < 16 || x.training || x.down then s else linkEvent (s.setLink link { x with training := true, count := 0 }) link

/-- Flits that a link takes over go ahead of any newer one, under LSQs of its own. DESIGN CHOICE, log 42: where the two buffers together hold
more than 384 flits, the link keeps them all, and sends nothing new until it has room. -/
def takeOver (x : Link) (fs : List (BitVec 112)) : Link :=
  fs.foldl (fun x f =>
    { x with next := (x.next + 1) % 1024, replay := x.replay ++ [(x.next, f)], resend := x.resend ++ [(x.next, f)] }) x

/-- The link leaves service, and another link of its bundle takes its replay buffer. -/
def leaveService (s : State) (n : Nat) : State :=
  let x := s.link n
  let s := s.setLink n { x with down := true, training := false, replay := [], resend := [] }
  match (bundleLinks n).find? (fun m => m != n && !(s.link m).down) with
  | some m => s.setLink m (takeOver (s.link m) (x.replay.map (·.2)))
  | none => s.setLink n { x with down := true, training := false }

/-- LINK_RETRAIN_DONE (R36): the link replays from the expected LSQ; after a failed retraining it retrains once more, and after four it leaves
service. -/
def stepLinkRetrainDone (link : Nat) (ok : Bool) (s : State) : State :=
  let x := s.link link
  if !x.training then s
  else if ok then
    linkEvent (s.setLink link { x with
      training := false, fails := 0, resend := x.replay.filter (fun e => (e.1 + 1024 - x.expect) % 1024 < 512) }) link
  else if x.fails < 3 then s.setLink link { x with fails := x.fails + 1 }
  else linkEvent (leaveService s link) link

/- The management unit (R37). -/

/-- ALERT_N is asserted: the clamp is not in NOM, or a link has left service. -/
def alertN (s : State) : Bool := s.clamp.st != 0 || s.links.any (fun x => x.2.down)

/-- The boot-status sensor. -/
def bootSensor (b : Boot) : Nat := if b.fail then 3 else if b.done then b.slot + 1 else 0

/-- The endpoint's 7-bit address. -/
def smbusAddr : Nat := 0x48 + Config.strap.toNat

/-- What the unit answers; the content of a control message and of sensors beyond those of the clamp is open. A clamp event is CLMPST as the
change left it, the oldest first, and 0 where none waits (log 41). -/
def mctpAnswer (s : State) : MctpReq → Option Nat
  | .control => some (Config.sensorFree s.free)
  | .sensorTemp n => some ((s.clamp.temps[n]?).getD (Config.sensorFree s.free))
  | .sensorPower => some s.clamp.pwr
  | .sensorReg 0x0100 => some pkgidWord
  | .sensorReg 0x0101 => some (clampWord s.clamp).toNat
  | .sensorReg 0x0120 => some (bootWord s.boot)
  | .sensorReg _ => none
  | .sensorBoot => some (bootSensor s.boot)
  | .clampEvent => some ((s.clampEvents.map (·.toNat)).headD 0)
  | .other _ => none

/-- MCTP_MESSAGE (R37): a message to another address is none of the station's. -/
def stepMctpMessage (s : State) : State :=
  match s.inputs.mctp with
  | [] => s
  | (to_, q) :: rest =>
    let t : State := { s with inputs := { s.inputs with mctp := rest } }
    if to_ != smbusAddr then t
    else
      ({ t with
        mctpOut := s.mctpOut ++ [{ req := q, val := mctpAnswer s q }]
        clampEvents := if q == .clampEvent then s.clampEvents.drop 1 else s.clampEvents } : State).tick

end Sys2Proof.Machine
end

