-- ==== Sys2Proof/Machine/Walker.lean ====
section
/-! DEFINITION. The TLK operator (R128 to R130, R244, R245), the walker and withheld translations (R126, R132 to R134), invalidations
(R135, R136). -/

namespace Sys2Proof.Machine

/-- The key of TLK t among the withheld translations and walks of its region. -/
def tlkKey (r t : Nat) : Nat := 2 * (r * 8 + t) + 1

def tlkKv (x : Site) : Bool := nbit (extBits x.act 51 51) 0

/-- The address a TLK forms for a position or an index (R128, R244). -/
def tlkAddr (l : List TagField) (x : Site) (tag : W64) (v : W32) : W64 :=
  let vb := extBits x.act 47 0
  let sc := extBits x.act 50 48
  let sq := if tlkKv x then getField l (extBits x.act 60 58) tag * 2 ^ extBits x.act 57 52 else 0
  BitVec.ofNat 64 (vb + sq + v.toNat * 2 ^ sc)

/-- The tag field that holds iter: the one after the field that holds seq (R242, R245). DESIGN CHOICE, log 16. -/
def iterField (x : Site) : Nat := extBits x.act 60 58 + 1

/-- The entry that maps a page. -/
def tlkFind (k : Tlk) (page : Nat) : Option (Nat × TlkEntry) := k.entries.find? (fun e => e.2.page == page && !e.2.dead)

/-- Where a new entry goes: the first free place, else the least recently used entry without pins (R129). -/
def tlkPlace (k : Tlk) : Option Nat :=
  if k.entries.length < 512 then (List.range 512).find? (fun i => (fget k.entries i).isNone)
  else
    (k.entries.foldl (fun (b : Option (Nat × Nat)) e =>
      if e.2.pins != 0 then b
      else match b with
        | some (_, u) => if e.2.used < u then some (e.1, e.2.used) else b
        | none => some (e.1, e.2.used)) none).map (·.1)

/-- Every entry is pinned: the TLK takes no input (R129). -/
def tlkPinnedFull (k : Tlk) : Bool := 512 ≤ k.entries.length && k.entries.all (fun e => e.2.pins != 0)

/-- Install a page that no entry maps yet. -/
def tlkInstall (k : Tlk) (page : Nat) (leaf : W64) (l1 : Bool) : Option Tlk :=
  if (tlkFind k page).isSome then some k
  else
    (tlkPlace k).map (fun i =>
      { k with uses := k.uses + 1, entries := fset k.entries i { page := page, leaf := leaf, l1 := l1, used := k.uses + 1 } })

/-- The kinds of access that the memory ports make whose address tokens come from TLK t (R411, R412). -/
def tlkKinds (s : State) (r t : Nat) : List AKind :=
  (List.range 32).filterMap (fun y =>
    let x := s.site r (y * 32 + 1)
    if !isMemPort x.act.fop || portApt x || portTlk x != t then none
    else
      match x.act.fop with
      | 0x40 => some .read
      | 0x41 => some .write
      | 0x42 => some .chRead
      | 0x43 => some .chWrite
      | 0x44 => some .cread
      | _ => none)

/-- Rights come before the extent (R126): a leaf that permits no access of the TLK's ports is refused for that. DESIGN CHOICE, log 45: other
refusals for rights are the port's. -/
def tlkNoRights (s : State) (r t : Nat) (leaf : W64) : Bool := !(tlkKinds s r t).isEmpty && (tlkKinds s r t).all (fun k => !leafRights leaf k)

/-- What a TLK finds for an address: refused at once, with its F_XLATE cause; the page of an address is not held; or the entry; the straddle test
of R138 on four bytes. -/
inductive TlkRes where
  | refuse (c : FCode) (cause : Nat)
  | miss (a : W64)
  | hit (i : Nat) (e : TlkEntry)

def tlkLook (s : State) (r t : Nat) (k : Tlk) (a : W64) : TlkRes :=
  if !canonical a 4 then .refuse .noncanon 0
  else if apertureBase ≤ a.toNat then .refuse .xlate 6
  else if !xrootEn (s.region r).xroot then .refuse .xlate 1
  else
    match tlkFind k (a.toNat / 65536) with
    | none => .miss a
    | some (i, e) =>
      let x := leafTgt e.leaf e.l1 a
      match extentBad s x 4 with
      | some (c, cause) => if tlkNoRights s r t e.leaf then .refuse .xlate 2 else .refuse c cause
      | none =>
        if a.toNat % 65536 + 4 ≤ 65536 then .hit i e
        else
          let m := 65536 - a.toNat % 65536
          let b := a + BitVec.ofNat 64 m
          if apertureBase ≤ b.toNat then .refuse .straddle 0
          else
            match tlkFind k (b.toNat / 65536) with
            | none => .miss b
            | some (_, e2) => if Tgt.follows x (leafTgt e2.leaf e2.l1 b) m then .hit i e else .refuse .straddle 0

/-- The fault token a refused translation gives (R129). It carries the F_XLATE cause beside its number (R126). -/
def faultTok (c : FCode) (cause : Nat) (tag : W64) : Token := { kind := .fault, v := BitVec.ofNat 32 c.num, tag := tag, cause := cause }

/-- The physical-address token of a hit; the entry is pinned once more. `none` at 255 pins (R129). -/
def tlkEmit (s : State) (r t : Nat) (x : Site) (i : Nat) (e : TlkEntry) (a tag : W64) (poi : Bool) : Option State :=
  if 255 ≤ e.pins then none
  else
    let k := s.tlk r t
    let k := { k with uses := k.uses + 1, entries := fset k.entries i { e with pins := e.pins + 1, used := k.uses + 1 } }
    some (putSite (s.setTlk r t k) r (tlkSite t)
      (emitEl x { kind := .data, v := BitVec.ofNat 32 (i * 2 ^ 23 + a.toNat % 65536), tag := tag, poi := poi }))

/-- An end to the walk and the withholding of an address's page for a key. -/
def endWalk (s : State) (r key : Nat) (a : W64) : State :=
  s.modRegion r (fun g => { g with
    walks := g.walks.filter (fun w => !(w.1 == key && w.2.toNat / 65536 == a.toNat / 65536)), withheld := g.withheld.filter (fun w => !w.is key a) })

/-- The walker works on an address's page for a key, or has walked it, with nothing installed. -/
def walking (g : Region) (key : Nat) (a : W64) : Bool :=
  g.walks.any (fun w => w.1 == key && w.2.toNat / 65536 == a.toNat / 65536) || (heldFor g key a).isSome

/-- What a walk of an address's page for a key has brought. -/
def heldRes (g : Region) (key : Nat) (a : W64) : Option WalkRes := (heldFor g key a).map (·.res)

/-- A miss sets out for the walker, which holds sixteen walks (R130). -/
def sendWalk (s : State) (r key : Nat) (a : W64) : State :=
  let g := s.region r
  if !freeWalk s r then s else s.setRegion r { g with walks := g.walks ++ [(key, a)], miss := (g.miss + 1) % 2 ^ 32 }

/-- A walk's end is kept for its page until its token's turn, and the page was withheld from the first such walk on (R132, R134). -/
def holdRes (s : State) (r key : Nat) (a : W64) (x : WalkRes) : State :=
  let old := heldFor (s.region r) key a
  let s := endWalk s r key a
  s.modRegion r (fun g => { g with
    withheld := g.withheld ++ [{ key := key, va := a, since := (old.map (·.since)).getD s.ns, last := s.ns, res := x }] })

/-- A mark at which a KV-mode TLK retries (R245). -/
def kvMark (x : Site) : Bool :=
  tlkKv x && (match qHead x 0 with
    | some t => t.kind == .mark && extBits x.act 63 61 ≤ t.lvl
    | none => false)

/-- The resume queue of a KV-mode TLK is full: it takes no input (R245). -/
def kvFull (x : Site) (k : Tlk) : Bool := tlkKv x && 64 ≤ k.resume.length

/-- What is withheld stands for the full resume queue of a KV-mode TLK, which withholds nothing else (R245). -/
def kvHolds (s : State) (r : Nat) (w : Withheld) : Bool :=
  w.key % 2 == 1 && w.key < 200000 && tlkKv (s.site r (tlkSite ((w.key - 1) / 2 % 8))) && w.res == .pending

/-- The addresses of a TLK's data tokens behind the oldest unresolved one whose pages it does not hold. -/
def missesBehind (s : State) (r t : Nat) (x : Site) (k : Tlk) : List W64 :=
  ((fgetD x.q 0 []).drop 1).filterMap (fun h =>
    if h.kind != .data then none
    else
      match tlkLook s r t k (tlkAddr (s.region r).layout x h.tag h.v) with
      | .miss a => some a
      | _ => none)

/-- Those among the first eight that nobody walks yet: the walker serves eight misses behind the oldest unresolved token (R130). -/
def laterMisses (s : State) (r t : Nat) (x : Site) (k : Tlk) : List W64 :=
  ((missesBehind s r t x k).take 8).filter (fun a => !walking (s.region r) (tlkKey r t) a)

/-- What a TLK works on: the entry that a retry takes up, or the head of q0; its tag, its V, its poison. -/
def tlkOldest (s : State) (r t : Nat) : Option (W64 × W32 × Bool) :=
  let k := s.tlk r t
  match k.walked, k.retry with
  | some _, (tag, v) :: _ => some (tag, v, false)
  | _, _ => match qHead (s.site r (tlkSite t)) 0 with
    | some h => if h.kind == .data then some (h.tag, h.v, h.poi) else none
    | none => none

/-- The oldest token leaves its place: the retry's, or the head of q0. -/
def tlkTake (s : State) (r t : Nat) : State :=
  let k := s.tlk r t
  let n := tlkSite t
  match k.walked, k.retry with
  | some _, _ :: rest => s.setTlk r t { k with retry := rest }
  | _, _ => s.setSite r n (popQ (s.site r n) 0)

/-- A position that meets an invalid entry in KV mode parks: it joins the resume queue, and one that comes from q0 is announced. A queue that is
full counts as a withheld translation (R245). -/
def kvPark (s : State) (r t : Nat) (a : W64) : State :=
  let n := tlkSite t
  match tlkOldest s r t with
  | none => s
  | some (tag, v, poi) =>
    let again := (s.tlk r t).walked.isSome
    let s := tlkTake s r t
    let k := s.tlk r t
    let s := s.setTlk r t { k with resume := k.resume ++ [(tag, v)] }
    let s := if again then s else putSite s r n (emitSec (s.site r n) { kind := .data, v := v, tag := tag, poi := poi })
    if kvFull (s.site r n) (s.tlk r t) then withhold s r (tlkKey r t) a else s

/-- The oldest token of a TLK cannot be translated: a fault token leaves in its place (R129). -/
def tlkFail (s : State) (r t : Nat) (c : FCode) (cause : Nat) : State :=
  let n := tlkSite t
  match tlkOldest s r t with
  | none => s
  | some (tag, _, _) =>
    let s := tlkTake s r t
    putSite s r n (emitEl (s.site r n) (faultTok c cause tag))

/-- The oldest token of a TLK, whose page the walker has walked without finding a leaf, takes what that brought (R126, R129, R132, R245): a fault
token leaves in its place; in KV mode a position whose entry is invalid parks, where the resume queue has room; a pending page keeps it. -/
def tlkSettle (s : State) (r t : Nat) : State :=
  let x := s.site r (tlkSite t)
  let key := tlkKey r t
  match tlkOldest s r t with
  | none => s
  | some (tag, v, _) =>
    let a := tlkAddr (s.region r).layout x tag v
    match tlkLook s r t (s.tlk r t) a with
    | .miss b =>
      (match heldRes (s.region r) key b with
       | some (.fault c) =>
         if !x.out.isEmpty then s
         else if tlkKv x && c == 1 then
           (if kvFull x (s.tlk r t) && (s.tlk r t).walked.isNone then s else kvPark (endWalk s r key b) r t b)
         else if b != a then tlkFail (endWalk s r key b) r t .straddle 0
         else tlkFail (endWalk s r key b) r t .xlate c
       | _ => s)
    | _ => s

/-- What a finished walk of TLK t for address a brings (R126, R130, R132, R245): a leaf is installed; anything else is kept for the token, which
takes it when it is the oldest. KV mode withholds nothing. -/
def tlkWalked (s : State) (r t : Nat) (a : W64) : State :=
  let key := tlkKey r t
  let kv := tlkKv (s.site r (tlkSite t))
  match doWalk s r a with
  | (s, .leaf e l1) =>
    (match tlkInstall (s.tlk r t) (a.toNat / 65536) e l1 with
     | some k => (endWalk s r key a).setTlk r t k
     | none => s)
  | (s, .wait) => s
  | (s, x) => tlkSettle (holdRes s r key a (if kv && x == .pending then .fault 1 else x)) r t

/-- The oldest token of a TLK misses the page of b: its walk sets out, or while that lasts the walk of a token behind it. -/
def tlkMiss (s : State) (r t : Nat) (b : W64) : State :=
  let x := s.site r (tlkSite t)
  if !walking (s.region r) (tlkKey r t) b then sendWalk s r (tlkKey r t) b
  else
    match laterMisses s r t x (s.tlk r t) with
    | c :: _ => sendWalk s r (tlkKey r t) c
    | [] => s

/-- TLK_TRANSLATE: the head of q0 in order (R130). -/
def stepTlkTranslate (r t : Nat) (s : State) : State :=
  let n := tlkSite t
  let x := s.site r n
  let k := s.tlk r t
  if 8 ≤ t || !tileReady s r n 0xF2 || kvMark x || kvFull x k || tlkPinnedFull k then s
  else
    match qHead x 0 with
    | none => s
    | some h =>
      if h.kind != .data then putSite s r n (emitEl (popQ x 0) h)
      else
        let a := tlkAddr (s.region r).layout x h.tag h.v
        match tlkLook s r t k a with
        | .refuse c cause => putSite (endWalk s r (tlkKey r t) a) r n (emitEl (popQ x 0) (faultTok c cause h.tag))
        | .hit i e => ((tlkEmit (endWalk s r (tlkKey r t) a) r t (popQ x 0) i e a h.tag h.poi)).getD s
        | .miss b =>
          match heldRes (s.region r) (tlkKey r t) b with
          | some (.fault _) => tlkSettle s r t
          | _ => tlkMiss s r t b

/-- WALK_COMPLETE (R126). -/
def stepWalkComplete (r k : Nat) (s : State) : State :=
  match (s.region r).walks[k]? with
  | some (key, a) => tlkWalked s r ((key - 1) / 2 % 8) a
  | none => s

/-- A walk of a core's or a unit's withheld translation has ended: what it brought is there for whoever waits, and a core tries again. -/
def noteRes (s : State) (r : Nat) (w : Withheld) (x : WalkRes) : State :=
  let s := s.modRegion r (fun g => { g with withheld := g.withheld.map (fun y => if y.is w.key w.va then { y with res := x } else y) })
  if w.key % 2 == 0 && x != .pending then
    s.modCore (w.key / 2) (fun c => { c with run := { c.run with slots := c.run.slots.map (fun x => { x with stall := false }) } })
  else s

/-- Walk a withheld translation once more (R132): of a TLK, of a block core, of a unit. -/
def retryWithheld (s : State) (r : Nat) (w : Withheld) : State :=
  if w.key % 2 == 1 && w.key < 200000 then tlkWalked s r ((w.key - 1) / 2 % 8) w.va
  else
    match doWalk s r w.va with
    | (s, .wait) => s
    | (s, x) => noteRes s r w x

/-- The walker notes when it walks a withheld translation. -/
def walkedNow (s : State) (r k : Nat) (w : Withheld) : State := s.modRegion r (fun g => { g with withheld := g.withheld.set k { w with last := s.ns } })

/-- WALKER_RETRY (R132): two microseconds after the translation was last walked, where the walker takes another walk. What a full resume queue
stands for is no page (R245). -/
def stepWalkerRetry (r k : Nat) (s : State) : State :=
  match (s.region r).withheld[k]? with
  | some w =>
    if s.ns < w.last + 2000 || w.res != .pending || !freeWalk s r || kvHolds s r w then s else retryWithheld (walkedNow s r k w) r w
  | none => s

/-- An invalidation reaches the walker: what a walk has brought is discarded, and every withheld translation is walked again (R132, R135). -/
def rewalk (s : State) (r : Nat) : State :=
  ((s.region r).withheld.filter (fun w => !kvHolds s r w)).foldl (fun s w => retryWithheld s r w) s

/-- The tag of the token whose page a TLK's withheld translation concerns. -/
def withheldTag (s : State) (r t : Nat) (w : Withheld) : W64 :=
  let x := s.site r (tlkSite t)
  let of := fun (h : Token) =>
    let a := (tlkAddr (s.region r).layout x h.tag h.v).toNat
    h.kind == .data && (a / 65536 == w.va.toNat / 65536 || (a + 3) / 65536 == w.va.toNat / 65536)
  let q := fgetD x.q 0 []
  (((q.find? of).orElse (fun _ => q.head?)).map (·.tag)).getD 0

/-- PGLIM_TIMEOUT (R134): a translation has been withheld for PGLIM; the gang drains and parks with the record, whose FLG bit 2 is
set. -/
def stepPglimTimeout (r : Nat) (s : State) : State :=
  let g := s.region r
  match g.gang, g.withheld.find? (fun w => w.res == .pending && w.since + g.pglim * 1000 ≤ s.ns) with
  | some n, some w =>
    let x := s.gang n
    if x.park.isSome then s
    else
      let mid := if w.key % 2 == 0 then coreMid (w.key / 2) else if w.key < 200000 then regionMid r 42 else regionMid r ((w.key - 1) / 2 % 64)
      let tag := if w.key % 2 == 1 && w.key < 200000 then withheldTag s r ((w.key - 1) / 2 % 8) w else 0
      let f := s.stamp r { code := FCode.pgtmo.num, mid := mid, flg := 5, tag := tag, opa := w.va }
      regionRecord (requestPre (s.setGang n { x with park := some f }) n) r f
  | _, _ => s

/-- Retry the next entry of a KV-mode TLK (R245): a miss sets out for the walker, whose end decides (tlkWalked). -/
def kvRetryOne (s : State) (r t : Nat) (x : Site) (k : Tlk) (tag : W64) (v : W32) (rest : List (W64 × W32)) : State :=
  let n := tlkSite t
  let a := tlkAddr (s.region r).layout x tag v
  match tlkLook s r t k a with
  | .refuse c cause => putSite (s.setTlk r t { k with retry := rest }) r n (emitEl x (faultTok c cause tag))
  | .hit i e => (tlkEmit (s.setTlk r t { k with retry := rest }) r t x i e a tag false).getD s
  | .miss b =>
    match heldRes (s.region r) (tlkKey r t) b with
    | some (.fault _) => tlkSettle s r t
    | _ => if walking (s.region r) (tlkKey r t) b then s else sendWalk s r (tlkKey r t) b

/-- KV_RETRY (R245): at a mark of level RL or above every entry then in the resume queue is taken up once, in order, its iter field
replaced by the mark's; then the mark passes. -/
def stepKvRetry (r t : Nat) (s : State) : State :=
  let n := tlkSite t
  let x := s.site r n
  let k := s.tlk r t
  if 8 ≤ t || !tileReady s r n 0xF2 || !kvMark x then s
  else
    let h := (qHead x 0).getD {}
    let l := (s.region r).layout
    let f := iterField x
    if k.walked.isNone then
      (if kvFull x k then s
       else s.setTlk r t { k with
        walked := some 0, resume := []
        retry := k.resume.map (fun e => (setField l f e.1 (getField l f h.tag), e.2)) })
    else
      match k.retry with
      | [] => putSite (s.setTlk r t { k with walked := none }) r n (emitEl (popQ x 0) h)
      | (tag, v) :: rest => kvRetryOne s r t x k tag v rest

/- Invalidation (R135, R136). -/

/-- A page overlaps the range lo to hi, both inclusive. -/
def pageOverlaps (page lo hi : Nat) : Bool := page * 65536 ≤ hi && lo ≤ page * 65536 + 65535

/-- Kill what TLK t holds of the range; the entries without pins are freed. Says whether a dead entry is pinned. -/
def killTlk (k : Tlk) (lo hi : Nat) : Tlk × Bool :=
  let es := k.entries.map (fun e => if pageOverlaps e.2.page lo hi then (e.1, { e.2 with dead := true }) else e)
  let es := es.filter (fun e => !e.2.dead || e.2.pins != 0)
  ({ k with entries := es }, es.any (fun e => e.2.dead))

/-- The range covers a kept copy of a block, which drops it (R321). -/
def coversBlock (b : Nat × List W64) (lo hi : Nat) : Bool := lo ≤ b.1 && b.1 + 8 * b.2.length ≤ hi + 1

/-- A line of a data cache overlaps the range. -/
def lineOverlaps (l : CLine) (lo hi : Nat) : Bool := l.va * 64 ≤ hi && lo ≤ l.va * 64 + 63

/-- A core's lines of the range are written back and dropped; the Bool says that none was left. -/
def dropLines (s : State) (k lo hi : Nat) : State × Bool := writeBack s k (fun l => lineOverlaps l lo hi) true

/-- A core drops its translations, block copies and cache lines of the range; what it has laid aside and not yet sent is translated afresh before
it leaves (R131, R136, R321). -/
def killCore (s : State) (k lo hi : Nat) : State :=
  if (fget s.cores k).isNone then s
  else
    (dropLines s k lo hi).1.modCore k (fun c => { c with
      tcache := c.tcache.filter (fun e => !pageOverlaps e.page lo hi), buffer := c.buffer.filter (fun b => !coversBlock b lo hi)
      outq := c.outq.map (fun o => if o.op.overlaps lo hi then { o with stale := true } else o)
      run := { c.run with slots := c.run.slots.map (fun x => if x.op.any (fun o => o.overlaps lo hi) then { x with stale := true } else x) } })

/-- A core still uses a translation of the range that is dead: an access on its way or held at its Turnstile, or a dirty line whose target makes
it wait (R136). -/
def coreUses (s : State) (k lo hi : Nat) : Bool :=
  let uses := fun (a : Access) => whoCore a.who == some k && a.va.toNat ≤ hi && lo < a.va.toNat + a.n
  (s.core k).cache.any (fun l => l.dirty != 0 && lineOverlaps l lo hi) || (heldAccesses s).any uses ||
  s.net.any (fun m => match m, onWay m with
    | .crel a, _ | _, some (a, _) => uses a
    | _, none => false)

/-- The cores among some that an invalidation has still to wait for, marked as (core, 8) in its list. -/
def coreDrains (s : State) (ks : List Nat) (lo hi : Nat) : List (Nat × Nat) := (ks.filter (fun k => coreUses s k lo hi)).map (fun k => (k, 8))

/-- An invalidation reaches a region: entries die, its walk cache is emptied, drain tokens follow the address tokens already emitted, withheld
translations are walked again (R132). The TLKs that hold pinned dead entries are listed, and the cores with accesses on their way. -/
def killRegion (s : State) (r lo hi : Nat) : State × List (Nat × Nat) :=
  let s := (regionCores r).foldl (fun s k => killCore s k lo hi) s
  let s := s.modRegion r (fun g => { g with
    store := g.store.filter (fun b => !coversBlock b lo hi), wcache := []
    ports := g.ports.map (fun p => (p.1, { p.2 with page := none })) })
  let cs := coreDrains s (regionCores r) lo hi
  let (s, ds) := (List.range 8).foldl (fun (p : State × List (Nat × Nat)) t =>
    match fget (p.1.region r).tlks t with
    | none => p
    | some k =>
      let (k', pinned) := killTlk k lo hi
      let s := p.1.setTlk r t k'
      if pinned then (s.setSite r (tlkSite t) (emitEl (s.site r (tlkSite t)) { kind := .ctl, lvl := 3 }), p.2 ++ [(r, t)]) else (s, p.2)) (s, cs)
  (rewalk s r, ds)

/-- INVALIDATION_START (R135). -/
def stepInvalidationStart (k : Nat) (s : State) : State :=
  match s.msg k with
  | some (.inval core lo hi rs false _) =>
    let lodge := if 640 ≤ core then (List.range 8).map (fun c => 640 + c) else []
    let s := lodge.foldl (fun s c => killCore s c lo hi) s
    let (s, ds) := rs.foldl (fun (p : State × List (Nat × Nat)) r => let (s, d) := killRegion p.1 r lo hi; (s, p.2 ++ d)) (s, coreDrains s lodge lo hi)
    s.putMsg k (.inval core lo hi rs true ds)
  | _ => s

/-- A drain token of region r is still on its way: in a buffer, a queue or an output of a site, or taken by a memory port behind accesses that are
not yet performed at the memory edge (R135). -/
def drainOnWay (s : State) (r : Nat) : Bool :=
  let isDrain := fun (t : Token) => t.kind == .ctl && t.lvl == 3
  (s.region r).sites.any (fun n =>
    n.2.bufs.any (fun b => b.2.any (fun t => isDrain t.tok)) || n.2.q.any (fun q => q.2.any isDrain) || n.2.out.any (fun e => isDrain e.tok) ||
      n.2.reqs.any (fun q => q.kind == .drain && !q.settled))

/-- An invalidation still waits: for a dead entry that is pinned, for a drain token, for a core's access (R135, R136). -/
def stillPinned (s : State) (lo hi : Nat) (d : Nat × Nat) : Bool :=
  if d.2 < 8 then (s.tlk d.1 d.2).entries.any (fun e => e.2.dead) || drainOnWay s d.1 else coreUses s d.1 lo hi

/-- INVALIDATION_COMPLETE (R135, R136). -/
def stepInvalidationComplete (k : Nat) (s : State) : State :=
  match s.msg k with
  | some (.inval core lo hi _ true ds) =>
    let regions := ((ds.filter (fun d => d.2 < 8)).map (·.1)).eraseDups
    let s := (List.range 32).foldl (fun s y => regions.foldl (fun s r =>
      if isMemPort (s.site r (y * 32 + 1)).act.fop then portSettle s r y else s) s) s
    let s := (ds.filter (fun d => 8 ≤ d.2)).foldl (fun s d => (dropLines s d.1 lo hi).1) s
    if ds.any (stillPinned s lo hi) then s else (s.drop k).modCore core (fun c => { c with invs := c.invs - 1 })
  | _ => s

end Sys2Proof.Machine
end

