-- ==== Sys2Proof/Machine/Maps.lean ====
section
/-! DEFINITION. How the Lodge places things (R65, R314): first-fit ranges of Commons, HBM and virtual addresses, page tables (R122, R123), the
access-table entries of a session's regions and of the SXT ingress (R49, R65, R81, R377). DESIGN CHOICE throughout, log 20. -/

namespace Sys2Proof.Machine

/- Ranges. -/

def alignUp (a n : Nat) : Nat := (a + n - 1) / n * n

/-- The range overlaps none of those given out. -/
def rangeFree (used : List (Nat × Nat)) (a n : Nat) : Bool := used.all (fun x => x.1 + x.2 ≤ a || a + n ≤ x.1)

/-- The lowest aligned place from `lo` on for n bytes below `hi`. -/
def firstFit (used : List (Nat × Nat)) (lo hi n al : Nat) : Option Nat :=
  let cs := (alignUp lo al :: used.map (fun x => alignUp (x.1 + x.2) al)).filter (fun a => lo ≤ a && a + n ≤ hi && rangeFree used a n)
  cs.foldl (fun b a => match b with
    | none => some a
    | some m => some (min m a)) none

/-- Bytes of a die's Commons, of an HBM stack. -/
def commonsSize : Nat := 768 * 2 ^ 20
def hbmSize : Nat := 36 * 2 ^ 30

def takeCommons (s : State) (die n al : Nat) : Option (Nat × State) :=
  let used := fgetD s.commons die []
  (firstFit used 0 commonsSize n al).map (fun a => (a, { s with commons := fset s.commons die ((a, n) :: used) }))

def giveCommons (s : State) (die a : Nat) : State :=
  { s with commons := fset s.commons die ((fgetD s.commons die []).filter (fun x => x.1 != a)) }

/-- n bytes of HBM on a stack, at a physical address (R121). -/
def takeHbm (s : State) (stack n al : Nat) : Option (Nat × State) :=
  let used := fgetD s.hbm stack []
  (firstFit used 0 hbmSize n al).map (fun a => (stack * 2 ^ 36 + a, { s with hbm := fset s.hbm stack ((a, n) :: used) }))

def giveHbm (s : State) (p : Nat) : State :=
  let stack := p / 2 ^ 36
  { s with hbm := fset s.hbm stack ((fgetD s.hbm stack []).filter (fun x => x.1 != p % 2 ^ 36)) }

/-- A virtual range of a session's lower half, aligned to 64 KiB. -/
def takeVa (x : Session) (n : Nat) : Option Nat := firstFit (x.segs.map (fun g => (g.va, alignUp g.len 65536))) 65536 (2 ^ 47) (alignUp n 65536) 65536

/-- Bytes made blank. -/
def zeroMem (s : State) (a n : Nat) : State :=
  { s with
    mem := s.mem.filter (fun c => c.1 < a || a + n ≤ c.1)
    poison := s.poison.filter (fun w => w < a / 4 || (a + n + 3) / 4 ≤ w) }

/- Access-table entries. -/

/-- What installing comes to. -/
inductive Install where
  | ok (s : State)
  | no (s : State) (sts : Sts)

/-- An entry for the masters that MID and MASK match, over n bytes at `base` of a target. -/
def entryFor (mid mask rights base n : Nat) : W64 × W64 :=
  (BitVec.ofNat 64 (1 + rights + base / 4096 * 2 ^ 12 + mid * 2 ^ 48), BitVec.ofNat 64 ((base + n - 1) / 4096 * 2 ^ 12 + mask * 2 ^ 48))

/-- The first slot of a target's table that holds no valid entry. -/
def freeEntry (s : State) (target : Nat) : Option Nat :=
  (List.range 64).find? (fun i => match fget s.access (target * 64 + i) with
    | some e => !entryValid e
    | none => true)

/-- Bank groups that hold n bytes at a (R98), HBM channels that hold n bytes at a physical address (R51). -/
def commonsTargets (die a n : Nat) : List Nat :=
  if 65536 ≤ n then (List.range 64).map (fun g => die * 64 + g)
  else ((List.range ((a + n - 1) / 1024 + 1 - a / 1024)).map (fun i => die * 64 + (a / 1024 + i) % 64)).eraseDups

def hbmTargets (p n : Nat) : List Nat :=
  let a := p % 2 ^ 36
  let base := 256 + p / 2 ^ 36 * 32
  if 131072 ≤ n then (List.range 32).map (fun c => base + c)
  else ((List.range ((a + n - 1) / 4096 + 1 - a / 4096)).map (fun i => base + (a / 4096 + i) % 32)).eraseDups

/-- Write an entry at each target, or nothing at all. -/
def addEntries (s0 : State) (e : W64 × W64) : List Nat → State → Install
  | [], s => .ok s
  | t :: ts, s =>
    match freeEntry s t with
    | none => .no { s0 with ceilx := s.ceilx } .nospace
    | some i =>
      match writeEntry s t i e with
      | (true, s) => addEntries s0 e ts s
      | (false, s) => .no { s0 with ceilx := s.ceilx } .ceiling

/-- Entries that a test names are made invalid. -/
def dropEntries (s : State) (gone : Nat → W64 × W64 → Bool) : State :=
  { s with access := s.access.filter (fun (x : Nat × (W64 × W64)) => !gone (x.1 / 64) x.2) }

/-- The masters of the SXT ingress; all units of a region (R73). -/
def ioMid : Nat := sxtMid
def ioMask : Nat := 0xFF00
def unitMask : Nat := 0xFF00

/-- A range of memory that a segment reaches: Commons or HBM, its base, its bytes. -/
structure SegRange where
  hbm : Bool
  die : Nat
  base : Nat
  len : Nat
  deriving DecidableEq, Repr

def SegRange.targets (x : SegRange) : List Nat := if x.hbm then hbmTargets x.base x.len else commonsTargets x.die x.base x.len
def SegRange.start (x : SegRange) : Nat := if x.hbm then x.base % 2 ^ 36 else x.base

/-- The bytes of a window's ring. -/
def ringBytes (x : Window) : Nat := x.depth * tileSize x

/-- What a segment reaches: its window's ring, mark ring and HBM backing, or its HBM bytes. -/
def segRanges (s : State) (g : Segment) : List SegRange :=
  if g.kind == 0 then
    let x := s.win (g.die * 4096 + g.win)
    [{ hbm := false, die := g.die, base := x.rbase * 1024, len := ringBytes x }] ++
    (if x.mkd then [{ hbm := false, die := g.die, base := x.mkbase * 1024, len := 2 ^ (x.mkl + 10) }] else []) ++
    (if x.kind == 1 then [{ hbm := true, die := 0, base := x.bbase, len := x.blen }] else [])
  else [{ hbm := true, die := 0, base := g.base, len := g.len }]

/-- The entries of a segment for the masters of MID and MASK. -/
def segEntries (s : State) (g : Segment) (mid mask rights : Nat) : Install :=
  (segRanges s g).foldl (fun r x => match r with
    | .ok s1 => (match addEntries s1 (entryFor mid mask rights x.start x.len) x.targets s1 with
        | .ok s2 => .ok s2
        | .no s2 st => .no { s with ceilx := s2.ceilx } st)
    | r => r) (.ok s)

/-- Regions of a session's running gangs. -/
def sessionRegions (s : State) (sid : Nat) : List Nat :=
  (List.range 64).filter (fun r => ((regionGang s r).map (fun g => g.2.sid == sid)).getD false)

/-- A set of regions as aligned blocks of 2^k regions from region b on, the widest there are. -/
def regionBlocks (rs : List Nat) : Nat → Nat → List (Nat × Nat)
  | 0, b => if rs.contains b then [(b, 0)] else []
  | k + 1, b =>
    if (List.range (2 ^ (k + 1))).all (fun i => rs.contains (b + i)) then [(b, k + 1)]
    else regionBlocks rs k b ++ regionBlocks rs k (b + 2 ^ k)

/-- MASK of a block of 2^k regions: the low bits of the region number, and above them of the die, take no part (R49, R50). -/
def blockMask (k : Nat) : Nat := unitMask - (2 ^ min k 4 - 1) * 2 ^ 8 - (2 ^ (k - 4) - 1) * 2 ^ 13

def sessionBlocks (s : State) (sid : Nat) : List (Nat × Nat) := regionBlocks (sessionRegions s sid) 6 0

/-- An entry that matches all units of a block of regions. -/
def isRegionEntry (e : W64 × W64) : Bool := entryMask e % 256 == 0 && entryMid e < 0x8000

/-- An entry of a segment for each block of regions. -/
def blockEntries (s : State) (g : Segment) : List (Nat × Nat) → State → Install
  | [], s1 => .ok s1
  | (b, k) :: l, s1 =>
    match segEntries s1 g (regionMid b 0) (blockMask k) g.rights with
    | .ok s2 => blockEntries s g l s2
    | .no s2 st => .no { s with ceilx := s2.ceilx } st

/-- The entries of a session's segments for its regions. Where a table is full the entry is not written, and accesses there find
F_ACCESS. -/
def sessionEntries (s : State) (sid : Nat) : State :=
  let bs := sessionBlocks s sid
  (s.session sid).segs.foldl (fun s g => bs.foldl (fun s b => match segEntries s g (regionMid b.1 0) (blockMask b.2) g.rights with
    | .ok s => s
    | .no s _ => s) s) s

/-- The entries of all regions, written anew when regions are assigned and when segments come and go (R65, R73, R81, R90). -/
def renewEntries (s : State) : State :=
  s.sessions.foldl (fun s x => sessionEntries s x.1) (dropEntries s (fun _ e => isRegionEntry e))

/-- The entries of a new segment: for the SXT ingress, and for the session's regions (R65). -/
def placeEntries (s : State) (sid : Nat) (g : Segment) (io : Nat) : Install :=
  match (if io == 0 then .ok s else segEntries s g ioMid ioMask io) with
  | .no s st => .no s st
  | .ok s1 => blockEntries s g (sessionBlocks s sid) s1

/-- The entries of a segment for the SXT ingress are gone. -/
def dropIoEntries (s : State) (g : Segment) : State :=
  let rs := segRanges s g
  dropEntries s (fun t e =>
    entryMid e == ioMid && entryMask e == ioMask &&
    rs.any (fun x => x.targets.contains t && entryBase e == x.start / 4096 && entryLimit e == (x.start + x.len - 1) / 4096))

/- Page tables (R122, R123), in HBM stack 0. -/

/-- The region walkers may read stack 0, by one entry of each of its channels: unit 42 of every region. -/
def walkerEntry : W64 × W64 := entryFor 42 0x00FF 2 0 hbmSize

def walkerMayRead (s : State) : Bool := permits s 256 0 8 .read (regionMid 0 42)

def letWalkersRead (s : State) : Install :=
  if walkerMayRead s then .ok s else addEntries s walkerEntry ((List.range 32).map (fun c => 256 + c)) s

/-- The session's L2 table. -/
def ensureRoot (s : State) (sid : Nat) : Install :=
  if (s.session sid).root != 0 then .ok s
  else
    match letWalkersRead s with
    | .no s st => .no s st
    | .ok s1 =>
      match takeHbm s1 0 65536 65536 with
      | none => .no s .nospace
      | some (a, s2) =>
        -- address 0 stands for no table, so the first 64 KiB of the stack are passed over
        if a == 0 then
          (match takeHbm s2 0 65536 65536 with
           | none => .no s .nospace
           | some (b, s3) => .ok ((zeroMem s3 (hbmAddr b) 65536).modSession sid (fun x => { x with root := b })))
        else .ok ((zeroMem s2 (hbmAddr a) 65536).modSession sid (fun x => { x with root := a }))

/-- The next table below an entry, made where there is none. -/
def nextTable (s : State) (at_ : Nat) : Option (Nat × State) :=
  let e := readWord s.mem (hbmAddr at_)
  if e.getLsbD 0 then some (nbits e.toNat 38 16 * 65536, s)
  else
    match takeHbm s 0 65536 65536 with
    | none => none
    | some (a, s) =>
      let s := zeroMem s (hbmAddr a) 65536
      some (a, { s with mem := writeLe s.mem (hbmAddr at_) 8 (a + 3) })

/-- Write a leaf for the page of va. -/
def putLeaf (s : State) (root va leaf : Nat) : Option State :=
  match nextTable s (root + 8 * nbits va 47 42) with
  | none => none
  | some (l1, s) =>
    match nextTable s (l1 + 8 * nbits va 41 29) with
    | none => none
    | some (l0, s) => some { s with mem := writeLe s.mem (hbmAddr (l0 + 8 * nbits va 28 16)) 8 leaf }

/-- The rights of an entry as those of a leaf: ATM has no place there. -/
def leafRightsOf (rights : Nat) : Nat := rights % 64 / 2 * 4 + rights / 128 % 2 * 128

/-- The leaf of page i of a segment. -/
def segLeaf (g : Segment) (i : Nat) : Nat :=
  1 + leafRightsOf g.rights +
  (if g.kind == 0 then g.die * 2 ^ 10 + g.win * 2 ^ 16 + i * 2 ^ 28
   else 2 ^ 8 + (g.base / 65536 + i) * 65536)

def segPages (g : Segment) : Nat := (g.len + 65535) / 65536

/-- Map a segment, page by page. -/
def mapSeg (root : Nat) (g : Segment) : Nat → State → Option State
  | 0, s => some s
  | i + 1, s => (mapSeg root g i s).bind (fun s => putLeaf s root (g.va + i * 65536) (segLeaf g i))

/-- Clear the leaves of a segment. -/
def unmapSeg (root : Nat) (g : Segment) (s : State) : State :=
  (List.range (segPages g)).foldl (fun s i => (putLeaf s root (g.va + i * 65536) 0).getD s) s

/-- The Lodge invalidates the translations of a range at station scope (R135). -/
def lodgeInval (s : State) (rs : List Nat) (lo n : Nat) : State :=
  if rs.isEmpty then s
  else (s.modCore 640 (fun c => { c with invs := c.invs + 1 })).send (.inval 640 lo (lo + n - 1) rs false [])

/-- Install a segment: its leaves, its entries, its place among the session's. -/
def installSeg (s : State) (sid : Nat) (g : Segment) (io : Nat) : Install :=
  match ensureRoot s sid with
  | .no s st => .no s st
  | .ok s1 =>
    match mapSeg (s1.session sid).root g (segPages g) s1 with
    | none => .no s .nospace
    | some s2 =>
      match placeEntries (renewEntries s2) sid g io with
      | .no s3 st => .no { s with ceilx := s3.ceilx } st
      | .ok s3 =>
        let made := (fgetD s3.hbm 0 []).take ((fgetD s3.hbm 0 []).length - (fgetD s.hbm 0 []).length)
        .ok (s3.modSession sid (fun x => { x with segs := x.segs ++ [g], tables := x.tables ++ made.map (·.1) }))

/-- Take a segment away. -/
def removeSeg (s : State) (sid : Nat) (g : Segment) : State :=
  let rs := sessionRegions s sid
  let s := dropIoEntries (unmapSeg (s.session sid).root g s) g
  lodgeInval (renewEntries (s.modSession sid (fun x => { x with segs := x.segs.filter (fun y => y.va != g.va) }))) rs g.va g.len

end Sys2Proof.Machine
end

