-- ==== Sys2Proof/Machine/Frames.lean ====
section
/-! DEFINITION. Frames that arrive over SXT: their header (R23), what is malformed (R25, R30), the ACK and CRD they bring (R26), resending
and the loss of a channel (R27). -/

namespace Sys2Proof.Machine

/-- Payload bytes the header names (R23). -/
def RawFrame.plen (x : RawFrame) : Nat := nbits x.h1.toNat 63 48

/-- The frame that a datagram carries (R23). -/
def frameOf (x : RawFrame) : Frame :=
  let a := x.h0.toNat
  let b := x.h1.toNat
  let d := x.h3.toNat
  { typ := nbits a 7 4, mkf := x.h0.getLsbD 8, last := x.h0.getLsbD 9, cls := x.h0.getLsbD 10, fsq := nbits a 47 32, ack := nbits a 63 48
    crd := nbits b 47 32, chn := nbits a 31 16, sid := nbits b 31 0, pos := x.h2, die := nbits d 13 12, win := nbits d 11 0
    nmk := nbits d 26 16, payload := x.payload.take (RawFrame.plen x) }

/-- The bytes before the mark entries (R30). -/
def Frame.data (f : Frame) : List Byte := f.payload.take (f.payload.length - 8 * f.nmk)

/-- Mark entries of a payload's end, as words (R30). -/
def Frame.markWords (f : Frame) : List Nat :=
  (List.range f.nmk).map (fun i => leNat ((f.payload.drop (f.payload.length - 8 * f.nmk + 8 * i)).take 8))

/-- EIX and LVL of a mark entry. -/
def markOf (w : Nat) : Nat × Nat := (nbits w 47 0, nbits w 50 48)

/-- Entries of a frame among themselves: EIX does not decrease, nor LVL where EIX is equal (R30). -/
def marksRise : List (Nat × Nat) → Bool
  | a :: b :: ms => (a.1 < b.1 || (a.1 == b.1 && a.2 ≤ b.2)) && marksRise (b :: ms)
  | _ => true

/-- What breaks the mark rule whatever the stream (R30). -/
def marksBad (f : Frame) : Bool :=
  f.payload.length < 8 * f.nmk || f.markWords.any (fun w => nbits w 63 51 != 0 || nbits w 50 48 == 0) ||
  !marksRise (f.markWords.map markOf)

/-- Malformed (R25), as far as the frame alone shows. -/
def frameMalformed (x : RawFrame) : Bool :=
  let f := frameOf x
  nbits x.h0.toNat 3 0 != 1 || 10 ≤ f.typ || nbits x.h0.toNat 15 11 != 0 || nbits x.h3.toNat 15 14 != 0 || nbits x.h3.toNat 63 27 != 0 ||
  8192 < RawFrame.plen x || x.payload.length < RawFrame.plen x || 512 < f.nmk || (f.nmk != 0 && !f.mkf) || marksBad f

/-- What the mark entries break against the stream (R30): EIX falls behind the last mark taken, or passes the data's end. The stream starts at
the binding. -/
def marksAstray (c : Chan) (f : Frame) : Bool :=
  let n := (c.pos.toNat + f.data.length) / max c.esz 1
  (f.markWords.map markOf).any (fun e => e.1 < c.eix || n < e.1)

/-- What a port passes on that never reaches the SXT engine (R21). -/
def undelivered (x : RawFrame) : Bool := !x.ipv6 || x.fragment || x.udpPort != 47240 || x.udpSum == 0

/-- An OPEN frame (R61, R63). -/
def isOpenFrame (f : Frame) : Bool := f.sid == 0 && f.chn == 0 && f.typ == 3 && f.fsq == 0 && f.last

/-- What the oldest frame that waits is to a row that takes the frames `mine`: another row's, or nothing; discarded; its own. -/
inductive Arrived where
  | none
  | gone (s : State)
  | got (s : State) (p : Nat) (x : RawFrame) (f : Frame)

/-- The oldest frame is taken. A port that is off receives nothing (R22); an oversized frame is the MAC's, which discards it before anything else
looks at it (R28). A frame that goes no further is discarded by whichever row finds it. -/
def arriveFrame (s : State) (mine : Frame → Bool) : Arrived :=
  match s.inputs.frames with
  | [] => .none
  | (p, x) :: rest =>
    let f := frameOf x
    let s1 : State := { s with inputs := { s.inputs with frames := rest } }
    if !s.portOn p then .gone s1
    else if (s.portOf p).mtu < x.ethLen then .none
    else if undelivered x then .gone s1
    else if frameMalformed x then .gone (countMalformed s1 p)
    else if isOpenFrame f || (fget s.chans (chanKey f.sid f.chn)).isSome then (if mine f then .got s1 p x f else .none)
    else .gone (countMalformed s1 p)

/- Acknowledgement and resending. -/

/-- `a` is b or earlier. -/
def fsqLe (a b : Nat) : Bool := (b + 65536 - a) % 65536 < 32768

/-- A channel's bindings of egress go on. -/
def resumeEgress (s : State) (k : Nat) : State :=
  let c := s.chan k
  if c.dir == 1 && !c.shut then pumpEgress s k ((s.win (c.die * 4096 + c.win)).head + 1 - c.sent) else s

/-- ACK and CRD of a frame (R26): what they acknowledge leaves the sender, a tile whose frames are all acknowledged is delivered (R31),
and more may be sent. -/
def takeAck (s : State) (k ack crd : Nat) : State :=
  let c := s.chan k
  if !fsqLe c.a ack then s
  else
    let done := c.unacked.filter (fun u => fsqLe u.frame.fsq ack)
    let left := c.unacked.filter (fun u => !fsqLe u.frame.fsq ack)
    let left := if done.isEmpty then left else left.map (fun u => { u with tries := 0 })
    let s := s.setChan k { c with a := ack, crd := crd, unacked := left }
    let s := done.foldl (fun s u => match u.frame.tile with
      | some n => if c.dir == 1 then deliverRead s (c.die * 4096 + c.win) n sxtMid else s
      | none => s) s
    resumeEgress (pump s k) k

/-- Frames sent again, in order, as far as the credit of the latest header reaches; their ACK and CRD are those of now (R27). -/
def resend (s : State) (k : Nat) (mine : Sent → Bool) (tries : Nat) : State :=
  let us := (s.chan k).unacked
  let s := s.modChan k (fun c => { c with
    unacked := us.map (fun u => if mine u then { u with at_ := s.ns, tries := u.tries + tries } else u) })
  (us.filter (fun u => mine u && inCredit (s.chan k) u.frame.fsq)).foldl (fun s u => putFrame s k u.frame) s

/-- The time after which a frame that has been resent so many times is resent once more, in ns (R27). -/
def resendAfter (tries : Nat) : Nat := min (20000 * 2 ^ tries) 1280000

end Sys2Proof.Machine
end

