-- ==== Sys2Proof/Machine/Sessions.lean ====
section
/-! DEFINITION. Sessions and their commands (R57 to R73): OPEN, ATTEST, MAPWIN, UNMAP, BIND, LAUNCH, CANCEL, READSNAP, READFAULT, CLOSE. -/

namespace Sys2Proof.Machine

/- The queue of commands (R57 to R60). -/

/-- The command that a message holds (R57): malformed where its header or its length is. -/
def cmdOf (msg : List Byte) : Cmd :=
  let opc := bytesAt msg 0 1
  let n := bytesAt msg 8 4
  { opc := opc, ctag := bytesAt msg 4 4, body := msg.drop 16
    bad := msg.length < 16 || n != msg.length - 16 || !bytesZero msg 1 3 || !bytesZero msg 12 4 || opc < 2 || 11 < opc ||
      (if opc == 6 then 64 * 2 ^ 20 else 4096) < n }

/-- Commands at the head that are refused outright are answered, in FSQ order (R57 to R59). -/
def refuseHeads (s : State) (sid : Nat) : Nat → State
  | 0 => s
  | fuel + 1 =>
    match (s.session sid).cmds with
    | [] => s
    | c :: cs =>
      let s1 := s.modSession sid (fun x => { x with cmds := cs })
      if c.busy then refuseHeads (sendEvent s1 sid c.opc Sts.busy.num c.ctag []) sid fuel
      else if c.bad then refuseHeads (complete s1 sid c.opc .malformed c.ctag []) sid fuel
      else s

def refuseAll (s : State) (sid : Nat) : State := refuseHeads s sid ((s.session sid).cmds.length + 1)

/-- The session's head command, for the row of an opcode. -/
def headCmd (s : State) (sid opc : Nat) : Option Cmd :=
  match (s.session sid).cmds with
  | c :: _ => if c.opc == opc && !c.bad && !c.busy then some c else none
  | [] => none

/-- The head command leaves the queue. -/
def popCmd (s : State) (sid : Nat) : State := s.modSession sid (fun x => { x with cmds := x.cmds.drop 1 })

/-- The head command completes, and what follows it is looked at (R58). -/
def finish (s : State) (sid : Nat) (c : Cmd) (sts : Sts) (body : List Byte) : State :=
  refuseAll (complete (popCmd s sid) sid c.opc sts c.ctag body) sid

/- OPEN (R61, R62). -/

/-- An answer under SID 0, which no session takes. -/
def answerOpen (s : State) (p : Nat) (f : Frame) (evc ctag : Nat) (sts : Sts) : State :=
  let a : Frame := { typ := 4, last := true, fsq := 0, ack := f.fsq, crd := 0, payload := eventBytes evc sts.num ctag [] }
  emit s p a

/-- The lowest unused session id. -/
def freeSid (s : State) : Option Nat :=
  if 1024 ≤ s.sessions.length || 16384 ≤ s.chans.length then none
  else ((List.range 1024).map (· + 1)).find? (fun n => (fget s.sessions n).isNone)

/-- The record of an OPEN: source address, source port, HN (R61). -/
def openRecord (s : State) (x : RawFrame) (hn : W64) : Option (Nat × List Byte) :=
  s.net.findSome? (fun m => match m with
    | .openRec src port nonce sid _ reply => if src == x.src && port == x.srcPort && nonce == hn then some (sid, reply) else none
    | _ => none)

/-- A new session, its command channel, and the reply (R61, R62). -/
def newSession (s : State) (p sid : Nat) (x : RawFrame) (f : Frame) (c : Cmd) : State :=
  let g := BitVec.ofNat 128 (bytesAt c.body 8 16) &&& Config.features &&& s.policy
  let reply := leBytes sid 4 ++ leBytes 0 4 ++ leBytes g.toNat 16 ++ leBytes pkgidWord 8
  let k := chanKey sid 0
  let s := s.setSession sid { g := g, src := x.src, srcPort := x.srcPort, port := p, keep := bytesAt c.body 24 4, heard := s.ns, open_ := 1 }
  let s := takeAck (s.setChan k { sid := sid, chn := 0, port := p, e := 1, crd := 0, clsRx := f.cls }) k f.ack f.crd
  (complete s sid 1 .ok c.ctag reply).send
    (.openRec x.src x.srcPort (BitVec.ofNat 64 (bytesAt c.body 0 8)) sid s.ns (eventBytes 1 0 c.ctag reply))

/-- OPEN_RECORD_EXPIRY (R61): 100 ms. -/
def stepOpenRecordExpiry (k : Nat) (s : State) : State :=
  match s.msg k with
  | some (.openRec _ _ _ _ since _) => if s.ns < since + 100000000 then s else s.drop k
  | _ => s

/- ATTEST (R64). -/

/-- The firmware data of a session's quote (R64). -/
def quoteData (sid : Nat) (x : Session) : List Byte :=
  shake256 (leBytes sid 4 ++ leBytes x.g.toNat 16 ++ (leBytes x.src.toNat 16).reverse ++ leBytes x.srcPort 2)

/-- ATTEST: the command completes when its quote is signed. -/
def stepAttest (sid : Nat) (s : State) : State :=
  match headCmd s sid 2 with
  | none => s
  | some c =>
    if c.body.length != 32 then finish s sid c .malformed []
    else
      match askQuote s { nonce := c.body, fw := quoteData sid (s.session sid), sid := sid, ctag := c.ctag } with
      | none => finish s sid c .busy []
      | some s => refuseAll (popCmd s sid) sid

/- Windows (R65). -/

/-- The body of MAPWIN. -/
structure MapReq where
  kind : Nat
  tsz : Nat
  die : Nat
  depth : Nat
  base : Nat
  len : Nat
  attr : Nat
  fill : Nat
  peer : Nat
  mkl : Nat
  deriving DecidableEq, Repr

def mapReq (bs : List Byte) : MapReq :=
  { kind := bytesAt bs 0 1, tsz := bytesAt bs 1 1, die := bytesAt bs 2 2, depth := bytesAt bs 4 4, base := bytesAt bs 8 8, len := bytesAt bs 16 8
    attr := bytesAt bs 24 4, fill := bytesAt bs 28 4, peer := bytesAt bs 32 2, mkl := bytesAt bs 34 1 }

def MapReq.prs (m : MapReq) : Bool := m.attr.testBit 1
def MapReq.mkd (m : MapReq) : Bool := m.attr.testBit 2

/-- An HBM physical range lies within one stack (R121). -/
def hbmRangeBad (p n : Nat) : Bool := 2 ^ 39 ≤ p || hbmSize < p % 2 ^ 36 + n

/-- What a body is malformed for (R65). -/
def mapMalformed (bs : List Byte) : Bool :=
  let m := mapReq bs
  bs.length != 48 || 2 < m.kind || 2 < m.tsz || 3 < m.die || m.depth == 0 || 65536 < m.depth || 7 < m.attr || !bytesZero bs 35 13 ||
  (if m.kind == 0 then m.base != 0 || m.len != 0 else m.len == 0) || (m.kind == 1 && hbmRangeBad m.base m.len) ||
  8 < m.mkl || (m.mkl != 0 && !m.mkd)

/-- Features a window needs (R62). -/
def mapFeature (g : BitVec 128) (m : MapReq) : Bool := (m.prs && !g.getLsbD 4) || (m.kind == 2 && !g.getLsbD 5)

/-- A window descriptor has a window mapped on it. -/
def mapped (s : State) (key : Nat) : Bool := s.sessions.any (fun x => x.2.segs.any (fun g => g.kind == 0 && g.die * 4096 + g.win == key))

/-- The lowest-numbered free descriptor of a die (R65). -/
def freeDesc (s : State) (die : Nat) : Option Nat :=
  (List.range 4096).find? (fun w => (s.win (die * 4096 + w)).st == .closed && !mapped s (die * 4096 + w))

/-- The window a body asks for. -/
def windowOf (sid : Nat) (m : MapReq) (rbase mkbase : Nat) : Window :=
  { kind := m.kind, tsz := m.tsz, prc := m.attr.testBit 0, prs := m.prs, mkd := m.mkd, depth := m.depth, fillv := BitVec.ofNat 32 m.fill
    rbase := rbase / 1024, mkbase := mkbase / 1024, mkl := m.mkl, bbase := m.base, blen := m.len, peer := m.peer, owner := sid }

/-- Rights of a window: at the leaf and for the session's regions R, W, X, CNT, CHN, and PRS where the window holds presence pages; ATM in
the entries (R377); for the SXT ingress R, W, CNT, ATM. -/
def winRights (prs : Bool) : Nat := 0x7E + (if prs then 0x80 else 0)
def sxtRights : Nat := 0x56

/-- What mapping a window comes to. -/
inductive MapRes where
  | ok (s : State) (va w : Nat)
  | no (s : State) (sts : Sts)

/-- Map a window for a session with rights for its regions and for the SXT ingress: a descriptor, its ring and mark ring, its leaves
and entries; nothing stays installed where it fails (R65). -/
def mapWindow (s : State) (sid : Nat) (m : MapReq) (rights io : Nat) : MapRes :=
  match freeDesc s m.die with
  | none => .no s .nospace
  | some w =>
    let key := m.die * 4096 + w
    let size := 1024 * 4 ^ m.tsz
    match takeCommons s m.die (alignUp (m.depth * size) 4096) (max 4096 size) with
    | none => .no s .nospace
    | some (rb, s1) =>
      match (if m.mkd then takeCommons s1 m.die (alignUp (2 ^ (m.mkl + 10)) 4096) 4096 else some (0, s1)) with
      | none => .no s .nospace
      | some (mb, s2) =>
        let x := windowOf sid m rb mb
        match takeVa (s2.session sid) (winExtent x) with
        | none => .no s .nospace
        | some va =>
          let g : Segment := { va := va, len := winExtent x, kind := 0, die := m.die, win := w, base := 0, rights := rights }
          match installSeg (openWindow (s2.setWin key { x with gen := (s2.win key).gen }) key) sid g io with
          | .no s3 sts => .no { s with ceilx := s3.ceilx } sts
          | .ok s3 => .ok s3 va w

/-- Parked launches of a session return to the heads of their queues (R134). -/
def unpark (s : State) (sid : Nat) : State :=
  let ls := (s.session sid).parked
  ls.foldr (fun l s =>
    let k := launchDie s l * 16 + l.q
    { s with queues := fset s.queues k (l :: fgetD s.queues k []) }) (s.modSession sid (fun x => { x with parked := [] }))

/-- The session's launches that have not ended, wherever they are (R68). -/
def liveLaunches (s : State) (sid : Nat) : List Launch :=
  let x := s.session sid
  x.held ++ x.parked ++ (s.queues.flatMap (fun q => q.2.filter (fun l => l.sid == sid))) ++
    ((s.gangs.filter (fun g => g.2.sid == sid)).map (fun g => g.2.launch))

/-- A channel that has closed in both directions (R66): its record lasts until what it sent is acknowledged. -/
def Chan.closed (c : Chan) : Bool := c.clsRx && c.clsTx

/-- A window is bound to a channel, or named by the plan of a launch that has not ended. -/
def winInUse (s : State) (sid key : Nat) : Bool :=
  s.chans.any (fun c => c.2.dir < 2 && !c.2.closed && c.2.die * 4096 + c.2.win == key) ||
  (liveLaunches s sid).any (fun l => (planOf s l).wins.contains key)

/-- A segment goes, and its ranges are free again. -/
def releaseSeg (s : State) (sid : Nat) (g : Segment) : State :=
  let s1 := removeSeg s sid g
  if g.kind == 0 then
    let x := s.win (g.die * 4096 + g.win)
    let s2 := giveCommons s1 g.die (x.rbase * 1024)
    if x.mkd then giveCommons s2 g.die (x.mkbase * 1024) else s2
  else giveHbm s1 g.base

/-- UNMAP (R65): the window retires; once it is CLOSED its leaves and entries go, and the command completes. -/
def stepUnmap (sid : Nat) (s : State) : State :=
  match headCmd s sid 4 with
  | none => s
  | some c =>
    let die := bytesAt c.body 0 2
    let w := bytesAt c.body 2 2
    let key := die * 4096 + w
    if c.body.length != 8 || !bytesZero c.body 4 4 || 3 < die || 4095 < w then finish s sid c .malformed []
    else
      match (s.session sid).segs.find? (fun g => g.kind == 0 && g.die == die && g.win == w) with
      | none => finish s sid c .nohandle []
      | some g =>
        if !c.begun && winInUse s sid key then finish s sid c .state []
        else if (s.win key).st == .closed then finish (releaseSeg s sid g) sid c .ok []
        else
          let s := if (s.win key).st == .opened then beginRetire s key (.lodge sid) else s
          s.modSession sid (fun x => { x with cmds := { c with begun := true } :: x.cmds.drop 1 })

/- BIND (R66). -/

def bindMalformed (bs : List Byte) : Bool :=
  let dir := bytesAt bs 2 1
  let esz := bytesAt bs 3 1
  bs.length != 24 || bytesAt bs 0 2 == 0 || 2 < dir || !(esz == 1 || esz == 2 || esz == 4) || !bytesZero bs 9 7 ||
  (dir < 2 && (3 < bytesAt bs 4 2 || 4095 < bytesAt bs 6 2)) || (dir == 0 && bytesAt bs 8 1 == 0)

/-- The channel a body opens: FSQ 0 is expected each way, and nothing may be sent before the other end has granted it (R27, R66). -/
def bindChan (sid port : Nat) (bs : List Byte) : Chan :=
  { sid := sid, chn := bytesAt bs 0 2, dir := bytesAt bs 2 1, esz := bytesAt bs 3 1, die := bytesAt bs 4 2, win := bytesAt bs 6 2
    rdc := bytesAt bs 8 1, peer := BitVec.ofNat 64 (bytesAt bs 16 8), port := port, crd := 0, granted := 0 }

/-- BIND (R29, R31, R66). -/
def stepBindChannel (sid : Nat) (s : State) : State :=
  match headCmd s sid 5 with
  | none => s
  | some c =>
    let x := s.session sid
    let n := bindChan sid x.port c.body
    let k := chanKey sid n.chn
    let key := n.die * 4096 + n.win
    if bindMalformed c.body then finish s sid c .malformed []
    else if n.dir == 2 && !x.g.getLsbD 5 then finish s sid c .feature []
    else if (fget s.chans k).any (fun y => !y.closed) then finish s sid c .state []
    else if 256 ≤ (s.chans.filter (fun y => y.2.sid == sid && !y.2.closed)).length ||
      16384 ≤ (s.chans.filter (fun y => !y.2.closed)).length then finish s sid c .nospace []
    else if n.dir == 2 then finish (putControl (s.setChan k n) k 1) sid c .ok []
    else if !x.segs.any (fun g => g.kind == 0 && g.die == n.die && g.win == n.win) then finish s sid c .nohandle []
    else if n.dir == 0 then
      match joinFill s key { by_ := .chan k, mid := sxtMid, cnt := n.rdc } with
      | none => finish s sid c .state []
      | some s => finish (putControl ((s.modWin key (fun w => { w with besz := n.esz })).setChan k n) k 1) sid c .ok []
    else if (s.win key).st != .opened then finish s sid c .state []
    else
      let w := s.win key
      finish (resumeEgress (putControl (s.setChan k { n with
        sent := tailOf w, marks := firstMark s key (tailOf w * tileSize w / n.esz) (ringLeft w w.mkt) w.mkt }) k 1) k) sid c .ok []

/- LAUNCH and CANCEL (R67, R68). -/

/-- LAUNCH: the command completes when the launch is queued or has joined its group. -/
def stepLaunch (sid : Nat) (s : State) : State :=
  match headCmd s sid 7 with
  | none => s
  | some c =>
    match launchStatus s sid c.body with
    | .ok =>
      let (s, lid) := acceptLaunch s sid c.body none
      finish s sid c .ok (leBytes lid.toNat 8)
    | sts => finish s sid c sts []

/-- END with outcome 2 for launches that are no more. -/
def cancelled (s : State) (ls : List Launch) : State :=
  ls.foldl (fun s l =>
    leaveWindows (sendEnd (giveUp s (((l.saved).getD []).flatMap readsSaved)) l.sid l.lid 2) (fun p => match p with
      | .away sid lid _ _ => sid == l.sid && lid == l.lid.toNat
      | _ => false)) s

/-- Queued launches that a test names leave their queues. -/
def unqueue (s : State) (gone : Launch → Bool) : State :=
  let ls := s.queues.flatMap (fun q => q.2.filter gone)
  let qs : FMap (List Launch) := s.queues.map (fun (q : Nat × List Launch) => (q.1, q.2.filter (fun l => !gone l)))
  cancelled { s with queues := qs } ls

/-- A session's launch is cancelled: held with its group, queued with its group, parked, or running (R67, R68, R134). `none` where none of these
holds it. -/
def cancelLaunch (s : State) (sid : Nat) (lid : W64) : Option State :=
  let x := s.session sid
  let mine := fun (l : Launch) => l.sid == sid && l.lid == lid
  match x.held.find? mine with
  | some l =>
    let gone := fun (h : Launch) => h.gkey == l.gkey
    some (cancelled (s.setSession sid { x with held := x.held.filter (fun h => !gone h) }) (x.held.filter gone))
  | none =>
    match (s.queues.flatMap (·.2)).find? mine with
    | some l => some (unqueue s (fun h => mine h || (l.group != 0 && h.group == l.group)))
    | none =>
      match x.parked.find? mine with
      | some l => some (cancelled (s.setSession sid { x with parked := x.parked.filter (fun h => !mine h) }) [l])
      | none => (s.gangs.find? (fun g => g.2.sid == sid && g.2.lid == lid)).map (fun g => endGang s g.1 2)

/-- CANCEL. -/
def stepCancel (sid : Nat) (s : State) : State :=
  match headCmd s sid 8 with
  | none => s
  | some c =>
    let lid := BitVec.ofNat 64 (bytesAt c.body 0 8)
    if c.body.length != 8 then finish s sid c .malformed []
    else
      match (s.session sid).live.find? (fun l => l.1 == lid) with
      | none => finish s sid c .nohandle []
      | some (_, 0) =>
        (match cancelLaunch s sid lid with
         | some s => finish s sid c .ok []
         | none => finish s sid c .ended [])
      | some _ => finish s sid c .ended []

/- Snapshots and faults (R69, R70). -/

/-- Regions assigned to a session: those its gangs run on, and those an ISO reservation of its holds. DESIGN CHOICE, log 42: a reservation whose
activation is idle still counts, whatever gang runs in its slack. -/
def assigned (s : State) (sid r : Nat) : Bool :=
  let own := fun (g : Option Nat) => match g with
    | some n => (s.gang n).sid == sid
    | none => false
  own (s.region r).gang || own (s.region r).resv

/-- The snapshot registers of a region. -/
def regionSnap (s : State) (r : Nat) : List Byte :=
  let g := s.region r
  Config.snapBytes g.crs.latRcnt g.crs.latRsum g.crs.dups g.latSkips g.crs.latBell

/-- READSNAP (R53, R69). DESIGN CHOICE, log 42: PKGID and CLMPST stand once, after all regions. -/
def stepReadsnap (sid : Nat) (s : State) : State :=
  match headCmd s sid 9 with
  | none => s
  | some c =>
    let ring := bytesAt c.body 0 1
    if c.body.length != 16 || 1 < ring || !bytesZero c.body 1 7 then finish s sid c .malformed []
    else
      let s := if ring == 1 then ringBell s else s
      let mask := bytesAt c.body 8 8
      let rs := (List.range 64).filter (fun r => mask.testBit r && assigned s sid r)
      finish s sid c .ok (leBytes s.bell 8 ++ leBytes (rs.map (fun r => 2 ^ r)).sum 8 ++ rs.flatMap (regionSnap s) ++ leBytes pkgidWord 8 ++
        leBytes (clampWord s.clamp).toNat 8)

/-- READFAULT (R70). -/
def stepReadfault (sid : Nat) (s : State) : State :=
  match headCmd s sid 10 with
  | none => s
  | some c =>
    if c.body.length != 8 || !bytesZero c.body 2 6 then finish s sid c .malformed []
    else
      let x := s.session sid
      let n := min (bytesAt c.body 0 2) x.ring.length
      let out := (x.ring.take n).flatMap (fun f => f.words.flatMap (fun w => leBytes w.toNat 8))
      finish (s.setSession sid { x with ring := x.ring.drop n, lost := 0 }) sid c .ok (leBytes x.lost 4 ++ leBytes n 4 ++ out)

/- CLOSE (R63, R72). -/

/-- Every launch of a session is cancelled. -/
def cancelAll (s : State) (sid : Nat) : State :=
  let x := s.session sid
  let s := cancelled (s.setSession sid { x with held := [], parked := [] }) (x.held ++ x.parked)
  let s := unqueue s (fun l => l.sid == sid)
  ((s.gangs.filter (fun g => g.2.sid == sid)).map (·.1)).foldl (fun s g => endGang s g 2) s

/-- The frame by which the station closes its direction of a channel (R23, R66). -/
def clsFrame : Frame := { typ := 0, cls := true }

/-- Channels other than 0 of a session that a test selects. -/
def otherChans (s : State) (sid : Nat) (sel : Chan → Bool) : List Nat :=
  (s.chans.filter (fun c => c.2.sid == sid && c.2.chn != 0 && sel c.2)).map (·.1)

/-- The station closes its direction of every channel other than 0: an ingress stream leaves its window, an egress window whose tiles still
hold counts retires (R66). -/
def closeChans (s : State) (sid : Nat) : State :=
  (otherChans s sid (fun _ => true)).foldl (fun s k =>
    let c := s.chan k
    let s := leaveIngress (sendFrames s k [clsFrame]) k
    if c.dir == 1 && ncnt (s.win (c.die * 4096 + c.win)) != 0 then retireBound s k else s) s

/-- Windows of a session that are OPEN begin to retire. -/
def retireAll (s : State) (sid : Nat) : State :=
  (s.session sid).segs.foldl (fun s g =>
    let key := g.die * 4096 + g.win
    if g.kind == 0 && (s.win key).st == .opened then beginRetire s key (.lodge sid) else s) s

/-- Step 1 of CLOSE, and step 2 begins; the session's other commands are answered with STATE. -/
def startClose (s : State) (sid : Nat) (c : Cmd) (others : List Cmd) : State :=
  let s := s.modSession sid (fun x => { x with closing := true, cmds := [{ c with begun := true }] })
  let s := others.foldl (fun s d => if d.busy then sendEvent s sid d.opc Sts.busy.num d.ctag [] else complete s sid d.opc .state d.ctag []) s
  closeChans (cancelAll s sid) sid

/-- The session is no more once its command channel has closed in both directions, or is lost (R63, R66). -/
def dropSession (s : State) (sid : Nat) : State :=
  let k := chanKey sid 0
  let c := s.chan k
  let x := s.session sid
  let shut := (fget s.chans k).isNone || (c.clsRx && c.clsTx)
  if !(x.closing && x.cmds.isEmpty && shut) then s
  else
    { s with
      sessions := ferase s.sessions sid, chans := s.chans.filter (fun y => y.2.sid != sid)
      keys := { s.keys with q := s.keys.q.map (fun q => if q.sid == sid then { q with sid := 0 } else q) } }

/-- Step 2 of CLOSE is done: every channel other than 0 has closed in both directions, or is lost (R66, R72). DESIGN CHOICE, log 42: a session
that the station closes by itself does not wait for the other end. -/
def chansClosed (s : State) (sid : Nat) (lone : Bool) : Bool := lone || (otherChans s sid (fun c => !c.closed)).isEmpty

/-- A quote of the session is still to be signed: its command comes before CLOSE, and its completion too (R58). -/
def quotePending (s : State) (sid : Nat) : Bool := s.keys.q.any (fun q => q.sid == sid)

/-- A launch of the session has stopped and its dirty lines are still to be written (R150). -/
def partingOf (s : State) (sid : Nat) : Bool := s.parting.any (fun p => p.end_.any (fun e => e.1 == sid))

/-- The windows of a session that are CLOSED go, and what they held is free again (R65). -/
def releaseClosed (s : State) (sid : Nat) : State :=
  ((s.session sid).segs.filter (fun g => g.kind == 0 && (s.win (g.die * 4096 + g.win)).st == .closed)).foldl (fun s g => releaseSeg s sid g) s

/-- Steps 3 to 5 of CLOSE: the windows retire, and once each is CLOSED the session's ranges, plans and tables go, the command completes, and
channel 0 closes. -/
def finishClose (s : State) (sid : Nat) : State :=
  match (s.session sid).cmds with
  | c :: _ =>
    if !c.begun || c.opc != 11 || !chansClosed s sid c.lone || quotePending s sid then s
    else
    let s := releaseClosed (retireAll s sid) sid
    if (s.session sid).segs.any (·.kind == 0) || partingOf s sid then s
    else
      let s := (s.session sid).segs.foldl (fun s g => releaseSeg s sid g) s
      let s := (s.session sid).tables.foldl giveHbm s
      let s := s.modSession sid (fun x => { x with plans := [], tables := [], root := 0, cmds := [] })
      let s := if c.quiet then s else complete s sid 11 .ok c.ctag []
      dropSession (sendFrames s (chanKey sid 0) [clsFrame]) sid
  | [] => s

/-- The station closes a session by itself (R63). DESIGN CHOICE, log 42: commands accepted and not yet performed are answered with STATE, as
those that follow CLOSE are. A CLOSE that waits for the other end waits for it no longer. -/
def quietClose (s : State) (sid : Nat) : State :=
  if (fget s.sessions sid).isNone then s
  else if (s.session sid).closing then finishClose (s.modSession sid (fun x => { x with cmds := x.cmds.map (fun c => { c with lone := true }) })) sid
  else finishClose (startClose s sid { opc := 11, ctag := 0, body := [], quiet := true, lone := true } (s.session sid).cmds) sid

/-- OPEN (R61, R62): a duplicate of a live record receives its reply again. DESIGN CHOICE, log 42: an OPEN whose header, length or body is
malformed is answered under SID 0, as R61 says of one that finds no room. One that carries CLS closes channel 0 at once (R23, R63). -/
def stepOpenSession (s : State) : State :=
  match arriveFrame s isOpenFrame with
  | .none => s
  | .gone s => s
  | .got s p x f =>
    let msg := f.data
    let c : Cmd := { opc := bytesAt msg 0 1, ctag := bytesAt msg 4 4, body := msg.drop 16 }
    let bad := msg.length < 16 || bytesAt msg 8 4 != msg.length - 16 || !bytesZero msg 1 3 || !bytesZero msg 12 4 || c.opc != 1 ||
      c.body.length != 32 || !bytesZero c.body 28 4 || 3600 < bytesAt c.body 24 4
    if bad then answerOpen s p f c.opc c.ctag .malformed
    else
      match openRecord s x (BitVec.ofNat 64 (bytesAt c.body 0 8)) with
      | some (sid, reply) =>
        let k := chanKey sid 0
        let a : Frame := { typ := 4, last := true, payload := reply }
        let a := if (fget s.chans k).isSome then stampFrame s (s.chan k) a else { a with sid := sid }
        emit s p a
      | none =>
        match freeSid s with
        | none => answerOpen s p f 1 c.ctag .nospace
        | some sid => if f.cls then quietClose (newSession s p sid x f c) sid else newSession s p sid x f c

/-- What windows that have closed held is free for every later MAPWIN and LOADPLAN (R65): an UNMAP that waits for its window, and a CLOSE that
waits for its windows, take note of it. -/
def reap (s : State) : State :=
  (s.sessions.map (·.1)).foldl (fun s sid =>
    if (headCmd s sid 4).any (·.begun) then stepUnmap sid s else if (s.session sid).closing then finishClose s sid else s) s

/-- MAPWIN (R65, R134). -/
def stepMapwin (sid : Nat) (s : State) : State :=
  let s := reap s
  match headCmd s sid 3 with
  | none => s
  | some c =>
    if mapMalformed c.body then finish s sid c .malformed []
    else
      let m := mapReq c.body
      if mapFeature (s.session sid).g m then finish s sid c .feature []
      else
        match mapWindow s sid m (winRights m.prs) sxtRights with
        | .no s sts => finish s sid c sts []
        | .ok s va w => finish (unpark s sid) sid c .ok (leBytes va 8 ++ leBytes m.die 2 ++ leBytes w 2 ++ leBytes 0 4)

/-- CLOSE. -/
def stepCloseSession (sid : Nat) (s : State) : State :=
  match headCmd s sid 11 with
  | none => s
  | some c =>
    if c.begun then finishClose s sid
    else if !c.body.isEmpty then finish s sid c .malformed []
    else finishClose (startClose s sid c ((s.session sid).cmds.drop 1)) sid

/-- KEEPALIVE_TIMEOUT (R63). -/
def stepKeepaliveTimeout (sid : Nat) (s : State) : State :=
  match fget s.sessions sid with
  | none => s
  | some x => if x.keep == 0 || s.ns < x.heard + x.keep * 1000000000 then s else quietClose s sid

end Sys2Proof.Machine
end

