-- ==== Sys2Proof/Machine/Sxt.lean ====
section
/-! DEFINITION. Frames received over SXT, and the timers of channels (R26 to R33, R57, R446). -/

namespace Sys2Proof.Machine

/- Acceptance (R26). -/

/-- E moves on; the acknowledgement is due within 2 µs, and at once when sixteen frames await it. -/
def acceptFrame (s : State) (k : Nat) : State :=
  let s := s.modChan k (fun c => { c with
    e := (c.e + 1) % 65536, granted := c.granted - 1, pend := c.pend + 1
    due := match c.due with
      | some t => some t
      | none => some (s.ns + 2000) })
  if 16 ≤ (s.chan k).pend then putControl s k 1 else s

/-- A NAK, at most one per value of E per 4 µs. -/
def sendNak (s : State) (k : Nat) : State :=
  let c := s.chan k
  let again := match c.nakE with
    | some (e, t) => e == c.e && s.ns < t + 4000
    | none => false
  if again then s else putControl (s.setChan k { c with nakE := some (c.e, s.ns) }) k 2

/-- A channel other than 0 that is closed in both directions is no more once what it sent is acknowledged (R66); a CLOSE that waits for it goes
on (R72). -/
def dropChan (s : State) (k : Nat) : State :=
  let c := s.chan k
  if c.chn == 0 then dropSession s c.sid
  else
    let s := if c.closed && c.unacked.isEmpty then { s with chans := ferase s.chans k } else s
    if (s.session c.sid).closing then finishClose s c.sid else s

/-- The other end closes its direction (R63, R66): the station closes its own at once (DESIGN CHOICE, log 42), an egress window whose tiles still
hold counts retires, and the closing of channel 0 closes the session. -/
def takeCls (s : State) (k : Nat) : State :=
  let c := s.chan k
  let s := s.setChan k { c with clsRx := true }
  if c.chn == 0 then quietClose s c.sid
  else
    let s := leaveIngress s k
    let s := if c.dir == 1 && ncnt (s.win (c.die * 4096 + c.win)) != 0 then retireBound s k else s
    sendFrames s k [clsFrame]

/-- What a frame of the stream is malformed for (R29, R30). -/
def streamBad (c : Chan) (f : Frame) : Bool := f.typ == 0 && c.dir == 0 && (f.pos != c.pos || marksAstray c f)

/-- A frame of a type that takes a flow sequence number (R26): `perform` answers none where there is no room. -/
def receiveFrame (s : State) (mine : Frame → Bool) (perform : State → Nat → Frame → Option State) : State :=
  match arriveFrame s mine with
  | .none => s
  | .gone s => s
  | .got s p _ f =>
    let k := chanKey f.sid f.chn
    let c := s.chan k
    let d := (f.fsq + 65536 - c.e) % 65536
    if d == 0 && streamBad c f then countMalformed s p
    else
      let s := if f.chn == 0 then s.modSession f.sid (fun x => { x with heard := s.ns }) else s
      let s := takeAck s k f.ack f.crd
      if (fget s.chans k).isNone then s
      else if d == 0 then
        if c.granted == 0 || c.clsRx then dropChan s k
        else
          match perform s k f with
          | none => dropChan s k
          | some s =>
            let s := acceptFrame s k
            dropChan (if f.cls then takeCls s k else s) k
      else if d < 32768 then dropChan (sendNak s k) k
      else dropChan (putControl s k 1) k

/- DATA (R29, R30). -/

/-- Write mark entries into the ring of a marked window, in order. -/
def putMarks (s : State) (key : Nat) (ms : List Nat) : State :=
  ms.foldl (fun s m =>
    let x := s.win key
    (s.storeMem (cmnAddr (key / 4096) (x.mkbase * 1024 + x.mkh % 2 ^ (x.mkl + 7) * 8)) (leBytes m 8) false).setWin key
      { x with mkh := (x.mkh + 1) % 2 ^ 32 }) s

/-- Slots of the n tiles from HEAD on are FREE. -/
def slotsFree (x : Window) (n : Nat) : Bool :=
  n ≤ x.depth && (List.range n).all (fun i => (slotTile x ((x.head + i) % x.depth)).isNone)

/-- Every tile that n bytes of the stream touch is free, and the mark ring takes m entries more (R29). DESIGN CHOICE, log 42: what is left of the
tile that the stream is filling counts as free, since a stream could not fill a tile with two frames otherwise; CRD counts free tiles alone. -/
def streamRoom (s : State) (k n m : Nat) : Bool :=
  let c := s.chan k
  let x := s.win (c.die * 4096 + c.win)
  match x.fills with
  | f :: _ =>
    x.st == .opened && f.by_ == .chan k && f.bad.isNone && slotsFree x ((n - fillLeft x + tileSize x - 1) / tileSize x) &&
    (!x.mkd || (x.mkh + 2 ^ 32 - x.mkt) % 2 ^ 32 + m ≤ 2 ^ (x.mkl + 7))
  | [] => false

/-- Bytes of a stream go to the window's head, across tile boundaries (R29); a refusal at a tile's home is the channel's fault. -/
def writeStream (s : State) (k key : Nat) : Nat → List Byte → State
  | 0, _ => s
  | fuel + 1, bs =>
    if bs.isEmpty then s
    else
      match (s.win key).fills with
      | [] => s
      | f :: _ =>
        let s := if f.seq.isNone then openTile s key f else s
        match (s.win key).fills.head?.bind (·.seq) with
        | none => partyFault s key (.chan k) FCode.access.num 0
        | some n =>
          let x := s.win key
          let m := min bs.length (fillLeft x)
          let s := fillBytes s key n (bs.take m) false
          let s := if m == fillLeft x then stepFillLastByte key s else s
          writeStream s k key fuel (bs.drop m)

/-- The place in the window where a stream began: its next byte's place, less what it has carried. -/
def streamStart (s : State) (k : Nat) : Nat :=
  let c := s.chan k
  let x := s.win (c.die * 4096 + c.win)
  (match x.fills.head?.bind (·.seq) with
   | some n => (n + 1) * tileSize x - fillLeft x
   | none => x.head * tileSize x) - c.pos.toNat

/-- A mark entry with its element counted from the window's tile 0, as its ring counts (R112). -/
def shiftMark (n w : Nat) : Nat := w / 2 ^ 48 * 2 ^ 48 + (w + n) % 2 ^ 48

/-- DATA at an ingress binding; on another channel there is no window that takes it. -/
def performData (s : State) (k : Nat) (f : Frame) : Option State :=
  let c := s.chan k
  let key := c.die * 4096 + c.win
  let bs := f.data
  if c.dir != 0 then some s
  else if !streamRoom s k bs.length f.nmk then none
  else
    let s := if (s.win key).mkd then putMarks s key (f.markWords.map (shiftMark (streamStart s k / max c.esz 1))) else s
    let s := s.setChan k { c with
      pos := c.pos + BitVec.ofNat 64 bs.length
      eix := match f.markWords.getLast? with
        | some w => (markOf w).1
        | none => c.eix }
    some (writeStream s k key (bs.length + 1) bs)

/-- DATA_FRAME_RX (R26, R29, R30). -/
def stepDataFrameRx (s : State) : State := receiveFrame s (fun f => f.typ == 0) performData

/- Frames without a flow sequence number (R26, R27). -/

/-- ACK and CRD are taken, and on a NAK every unacknowledged frame from ACK + 1 on is sent again. -/
def receiveControl (s : State) (typ : Nat) : State :=
  match arriveFrame s (fun f => f.typ == typ) with
  | .none => s
  | .gone s => s
  | .got s _ _ f =>
    let k := chanKey f.sid f.chn
    let s := if f.chn == 0 then s.modSession f.sid (fun x => { x with heard := s.ns }) else s
    let s := takeAck s k f.ack f.crd
    if (fget s.chans k).isNone then s
    else dropChan (if typ == 2 then resend s k (fun u => fsqLe ((f.ack + 1) % 65536) u.frame.fsq) 0 else s) k

/-- ACKF_RX. -/
def stepAckfRx (s : State) : State := receiveControl s 1
/-- NAK_RX. -/
def stepNakRx (s : State) : State := receiveControl s 2

/- CMD and EVT (R57, R58). -/

/-- A command joins its session's queue; the 65th whose completion has not been sent is one too many, and one that follows CLOSE is
answered with STATE. -/
def addCmd (s : State) (sid : Nat) (c : Cmd) : State :=
  let x := s.session sid
  if x.closing then sendEvent s sid c.opc Sts.state.num c.ctag []
  else if 64 ≤ openCmds s sid then refuseAll (s.setSession sid { x with cmds := x.cmds ++ [{ c with busy := true }] }) sid
  else refuseAll (s.setSession sid { x with cmds := x.cmds ++ [c], open_ := x.open_ + 1 }) sid

/-- A CMD frame on a command channel; a frame of this kind elsewhere, or an EVT frame, has no effect beyond its acceptance. -/
def performCmd (s : State) (k : Nat) (f : Frame) : Option State :=
  let c := s.chan k
  if f.typ != 3 || c.chn != 0 then some s
  else
    let msg := c.msg ++ f.data
    if f.last then some (addCmd (s.setChan k { c with msg := [] }) c.sid (cmdOf msg)) else some (s.setChan k { c with msg := msg })

/-- CMD_FRAME_RX (R57). -/
def stepCmdFrameRx (s : State) : State := receiveFrame s (fun f => (f.typ == 3 && !isOpenFrame f) || f.typ == 4) performCmd

/- Requests of another station (R32). -/

/-- A request's access, or its refusal: the window is one of the channel's session, the range lies within it, and its bytes fit in one
frame. -/
def peerAccess (s : State) (k : Nat) (f : Frame) (a : Access) (m : Access → NetMsg) : Option State :=
  let c := s.chan k
  let key := f.die * 4096 + f.win
  let a := { a with who := .peer k f.fsq, mid := sxtMid, tgt := .win f.die f.win f.pos.toNat, since := s.ns }
  if c.dir != 2 then some s
  else if pmax (s.portOf c.port) < a.n then some (refuse s a .straddle 0)
  else if !(s.session c.sid).segs.any (fun g => g.kind == 0 && g.die * 4096 + g.win == key) then some (refuse s a .access 0)
  else
    match extentBad s a.tgt a.n with
    | some (x, cause) => some (refuse s a x cause)
    | none => some (s.send (m (if a.kind == .atomic then a else peerPiece s a { at_ := a.tgt })))

def accessOfPeer (kind : AKind) : Access := { who := .none, kind := kind, mid := sxtMid, tgt := .cmn 0 0 }

/-- RRQ_RX (R23, R32). -/
def stepRrqRx (s : State) : State :=
  receiveFrame s (fun f => f.typ == 5) (fun s k f => peerAccess s k f { accessOfPeer .read with n := leNat (f.data.take 8) } .plain)

/-- RWR_RX (R23, R32). -/
def stepRwrRx (s : State) : State :=
  receiveFrame s (fun f => f.typ == 7) (fun s k f => peerAccess s k f { accessOfPeer .write with n := f.data.length, data := f.data } .plain)

/-- The type of a RAT frame's number. -/
def tyOfNum (n : Nat) : Ty := ([.i8, .i16, .i32, .i64, .n8, .n16, .n32, .n64, .f32, .bf16, .t8] : List Ty).getD n .n64

/-- RAT_RX (R23, R32). -/
def stepRatRx (s : State) : State :=
  receiveFrame s (fun f => f.typ == 8) (fun s k f =>
    let (fn, ty, b, c) := Config.ratFields f.data
    let t := tyOfNum ty
    let a := { accessOfPeer .atomic with n := tyBytes t, fn := fn, t := t, b := b, c := c }
    if f.pos.toNat % tyBytes t != 0 && (s.chan k).dir == 2 then some (refuse s { a with who := .peer k f.fsq } .align 0)
    else peerAccess s k f a .atomic)

/-- The request of a channel that an RRS answers. -/
def requestOf (s : State) (k fsq : Nat) : Option (Nat × Access) :=
  (s.net.zipIdx.find? (fun m => match m.1 with
    | .remote a _ q =>
      (match a.tgt with
       | .remote _ _ c _ => q == fsq && chanKey (accessSid s a) c == k
       | _ => false)
    | _ => false)).bind (fun m => match m.1 with
    | .remote a _ _ => some (m.2, a)
    | _ => none)

/-- RRS_RX (R32, R33): an answer that no request awaits any more is discarded. -/
def stepRrsRx (s : State) : State :=
  receiveFrame s (fun f => f.typ == 6) (fun s k f =>
    let (fsq, bs, fault) := Config.rrsFields f.data
    match requestOf s k fsq with
    | none => some s
    | some (i, a) =>
      match fault with
      | some (c, cause) => some (refuse (s.drop i) a (FCode.ofNum c) cause)
      | none => some (served s i a bs false))

/-- COLL_RX (R446): a contribution of another station; one for an instance that has closed is discarded (R251). -/
def stepCollRx (s : State) : State :=
  receiveFrame s (fun f => f.typ == 9) (fun s k f =>
    let c := s.chan k
    let msg := c.msg ++ f.data
    if !f.last then some (s.setChan k { c with msg := msg })
    else
      let (r, kind, npart, ty, nel, cid, idx, bs, bad) := Config.collFields msg
      let s := s.setChan k { c with msg := [] }
      if c.dir != 2 || cidClosed s r cid then some s else some (s.send (.contrib r kind npart ty nel cid idx bs bad s.ns)))

/- Timers (R26, R27, R33). -/

/-- ACK_TIMER (R26): an acknowledgement is due; or an ingress window has more room than its channel has been granted (R29). Frames that the
port's rate held back may go on (R47). -/
def stepAckTimer (k : Nat) (s : State) : State :=
  match fget s.chans k with
  | none => s
  | some c =>
    let due := match c.due with
      | some t => t ≤ s.ns
      | none => false
    let more := c.dir == 0 && c.granted < creditOf s c
    let s := if due || more then putControl s k 1 else s
    resumeEgress (pump s k) k

/-- SXT_RETRANSMIT_TIMEOUT (R27): frames whose time has come are sent again; the eighth expiry without progress loses the channel, and
with channel 0 the session (R63). -/
def stepSxtRetransmitTimeout (k : Nat) (s : State) : State :=
  match fget s.chans k with
  | none => s
  | some c =>
    let due := fun (u : Sent) => u.at_ + resendAfter u.tries ≤ s.ns
    if !c.unacked.any due then s
    else if c.unacked.any (fun u => due u && 7 ≤ u.tries) then
      if c.chn == 0 then dropSession (quietClose { s with chans := ferase s.chans k } c.sid) c.sid
      else finishClose (if c.closed then { s with chans := ferase s.chans k } else loseChan s k) c.sid
    else resend s k due 1

/-- REMOTE_TIMEOUT (R33): no RRS has come within the channel's limit. -/
def stepRemoteTimeout (k : Nat) (s : State) : State :=
  match s.msg k with
  | some (.remote a t _) => if s.ns < t then s else refuse (s.drop k) a .remtmo 0
  | _ => s

end Sys2Proof.Machine
end

