-- ==== Sys2Proof/Machine/LoadPlan.lean ====
section
/-! DEFINITION. LOADPLAN (R59, R74, R75, R300, R302 to R317, R333, R336, R337): the checks of an ETO object, its placement, relocation and launch
records. -/

namespace Sys2Proof.Machine

/- The object (R302 to R307). -/

/-- Why an object is not loaded: FEATURE, PLANREJ with CODE, AUX and OPA of its record, another status. -/
inductive LoadNo where
  | feature
  | rej (c : FCode) (aux off : Nat)
  | sts (x : Sts)

/-- PLANREJ at an entry of a section (R314). -/
def rejAt (c : FCode) (sec entry off : Nat) : LoadNo := .rej c (sec % 65536 * 65536 + entry % 65536) off

/-- A test that refuses. -/
def refuseIf (b : Bool) (x : LoadNo) : Option LoadNo := if b then some x else none

/-- The first refusal of a list of checks. -/
def firstNo (xs : List (Option LoadNo)) : Option LoadNo := xs.findSome? id

/-- A section: its header and its bytes (R303). -/
structure Sec where
  typ : Nat
  link : Nat
  off : Nat
  len : Nat
  align : Nat
  info : Nat
  bytes : List Byte
  deriving DecidableEq, Repr

/-- The object's header (R302). -/
def objectNo (bs : List Byte) : Option LoadNo :=
  let at_ (c : FCode) (o : Nat) := LoadNo.rej c 0 o
  let n := bytesAt bs 8 4
  let sh := bytesAt bs 16 8
  firstNo [
    refuseIf (bs.length < 64 || bytesAt bs 0 4 != 0x4F5445E7) (at_ .desc 0), refuseIf (bytesAt bs 4 2 != 1) (at_ .desc 4),
    refuseIf (bytesAt bs 6 1 != 1) (at_ .desc 6), refuseIf (!bytesZero bs 7 1) (at_ .rsvd 7), refuseIf (n == 0 || 4096 < n) (at_ .desc 8),
    refuseIf (!bytesZero bs 12 4) (at_ .rsvd 12), refuseIf (sh % 8 != 0 || sh < 64 || bs.length < sh + 32 * n) (at_ .desc 16),
    refuseIf (bytesAt bs 24 8 != bs.length) (at_ .desc 24), refuseIf (!bytesZero bs 32 32) (at_ .rsvd 32)]

def sectionsOf (bs : List Byte) : List Sec :=
  (List.range (bytesAt bs 8 4)).map (fun i =>
    let h := bs.drop (bytesAt bs 16 8 + 32 * i)
    { typ := bytesAt h 0 2, link := bytesAt h 4 4, off := bytesAt h 8 8, len := bytesAt h 16 8, align := bytesAt h 24 4, info := bytesAt h 28 4
      bytes := (bs.drop (bytesAt h 8 8)).take (bytesAt h 16 8) })

/-- INFO has what its type gives (R304). -/
def infoBad (x : Sec) : Bool :=
  match x.typ with
  | 6 => x.info &&& 0x103 != x.info
  | 9 => x.info &&& 0x73 != x.info
  | 10 | 12 => false
  | _ => x.info != 0

/-- Section i against its header, the object and the other sections (R303, R304). -/
def sectionNo (bs : List Byte) (xs : List Sec) (i : Nat) (x : Sec) : Option LoadNo :=
  let sh := bytesAt bs 16 8
  let clash (a n : Nat) := x.len != 0 && n != 0 && x.off < a + n && a < x.off + x.len
  firstNo [
    refuseIf (!bytesZero bs (sh + 32 * i + 2) 2) (rejAt .rsvd i 0 2), refuseIf (x.typ == 0 || 12 < x.typ || infoBad x) (rejAt .desc i 0 0),
    refuseIf (16 < x.align || x.off % 2 ^ x.align != 0 || bs.length < x.off + x.len) (rejAt .desc i 0 8),
    refuseIf (clash 0 64 || clash sh (32 * xs.length) || xs.zipIdx.any (fun y => y.2 < i && clash y.1.off y.1.len)) (rejAt .desc i 0 8),
    refuseIf (x.typ != 4 && x.typ != 9 && xs.zipIdx.any (fun y => y.2 < i && y.1.typ == x.typ && ((x.typ != 6 && x.typ != 12) || y.1.info == x.info)))
      (rejAt .desc i 0 0)]

/-- Sections of a type, with their numbers. -/
def secsOf (xs : List Sec) (t : Nat) : List (Nat × Sec) := (xs.zipIdx.filter (fun x => x.1.typ == t)).map (fun x => (x.2, x.1))
/-- The section of a type; with none, an empty one under a number that no section has. -/
def secOf (xs : List Sec) (t : Nat) : Nat × Sec := (secsOf xs t).headD (4096, { typ := t, link := 0, off := 0, len := 0, align := 0, info := 0, bytes := [] })

structure Sym where
  name : Nat
  kind : Nat
  bind : Nat
  sec : Nat
  value : Nat
  sz : Nat
  deriving DecidableEq, Repr

structure Reloc where
  off : Nat
  sym : Nat
  typ : Nat
  addend : Nat
  deriving DecidableEq, Repr

def symsOf (xs : List Sec) : List Sym :=
  let bs := (secOf xs 10).2.bytes
  (List.range (bs.length / 24)).map (fun i =>
    let b := bs.drop (24 * i)
    { name := bytesAt b 0 4, kind := bytesAt b 4 1, bind := bytesAt b 5 1, sec := bytesAt b 6 2, value := bytesAt b 8 8, sz := bytesAt b 16 8 })

def entriesOf (x : Sec) : List Reloc :=
  (List.range (x.bytes.length / 24)).map (fun i =>
    let b := x.bytes.drop (24 * i)
    { off := bytesAt b 0 8, sym := bytesAt b 8 4, typ := bytesAt b 12 2, addend := bytesAt b 16 8 })

/-- Relocations of section t. -/
def relocsOf (xs : List Sec) (t : Nat) : List Reloc := ((secsOf xs 12).filter (fun x => x.2.info == t)).flatMap (fun x => entriesOf x.2)

/-- The symbol that a VA64 entry at an offset of section t writes. -/
def symAt (xs : List Sec) (t off : Nat) : Option (Sym × Reloc) :=
  ((relocsOf xs t).find? (fun r => r.off == off && r.typ == 1)).bind (fun r => (symsOf xs)[r.sym]?.map (fun y => (y, r)))

/-- The word at an offset is the address of a block header in the block section (R318, R339). -/
def namesBlock (xs : List Sec) (t off : Nat) : Bool :=
  let bs := (secOf xs 2).2.bytes
  match symAt xs t off with
  | some (y, r) =>
    let o := (y.value + r.addend) % 2 ^ 64
    y.kind == 1 && o % 16 == 0 && o + 16 ≤ bs.length && bytesAt bs o 2 == 0xB10C
  | none => false

/-- The type of section a symbol's kind lives in (R306). -/
def homeType : Nat → Nat
  | 1 => 2 | 2 => 6 | 3 => 5 | 4 => 4 | 5 => 9 | 6 => 6 | _ => 0

def symNo (xs : List Sec) (i : Nat) (y : Sym) : Option LoadNo :=
  let (t, tab) := secOf xs 10
  let x := (xs[y.sec]?.getD { typ := 0, link := 0, off := 0, len := 0, align := 0, info := 0, bytes := [] })
  refuseIf (y.kind == 0 || 6 < y.kind || 1 < y.bind || (y.bind == 1) != (tab.info ≤ i) || (secOf xs 11).2.len ≤ y.name || x.typ != homeType y.kind ||
    (match y.kind with
     | 1 | 2 | 6 => x.len < y.value + y.sz || (y.kind == 1 && y.value % 16 != 0)
     | 3 => x.len / 48 ≤ y.value
     | 4 => bytesAt x.bytes 0 2 != y.value
     | _ => 32 ≤ y.value)) (rejAt .desc t i (24 * i))

def relocNo (xs : List Sec) (t : Nat) (x : Sec) (i : Nat) (r : Reloc) : Option LoadNo :=
  let b := x.bytes.drop (24 * i)
  let len := (xs[x.info]?.map (·.len)).getD 0
  let kind := ((symsOf xs)[r.sym]?.map (·.kind)).getD 0
  firstNo [
    refuseIf (!bytesZero b 14 2) (rejAt .rsvd t i (24 * i + 14)),
    refuseIf ((r.typ != 1 && r.typ != 3) || kind == 0 || len < r.off + (if r.typ == 1 then 8 else 2) ||
      (r.typ == 3 && (kind != 3 || r.addend != 0))) (rejAt .desc t i (24 * i))]

def relocsNo (xs : List Sec) (t : Nat) (x : Sec) : Option LoadNo :=
  firstNo (refuseIf (x.len % 24 != 0 || xs.length ≤ x.info || x.link != (secOf xs 10).1) (rejAt .desc t 0 0) ::
    (entriesOf x).zipIdx.map (fun r => relocNo xs t x r.2 r.1))

/-- The whole of the object's structure; the names of STRTAB end in NUL (R304). -/
def structureNo (bs : List Byte) (xs : List Sec) : Option LoadNo :=
  firstNo (
    (xs.zipIdx.map (fun x => sectionNo bs xs x.2 x.1)) ++
    ([1, 2, 3, 10, 11].map (fun t => refuseIf ((secsOf xs t).length != 1) (rejAt .desc 0 0 0))) ++
    [refuseIf (65536 < (secOf xs 2).2.len) (rejAt .desc (secOf xs 2).1 0 0),
     refuseIf ((secOf xs 11).2.bytes.getLast?.any (fun b => b != 0)) (rejAt .desc (secOf xs 11).1 0 0),
     refuseIf ((secOf xs 10).2.len % 24 != 0) (rejAt .desc (secOf xs 10).1 0 0)] ++
    ((symsOf xs).zipIdx.map (fun y => symNo xs y.2 y.1)) ++
    ((secsOf xs 12).map (fun x => relocsNo xs x.1 x.2)))

/- The manifest (R74, R75, R305). -/

def manifestOf (xs : List Sec) : Plan :=
  let b := (secOf xs 1).2.bytes
  { gang := bytesAt b 0 1, home := bytesAt b 1 1, wdg := bytesAt b 2 1, drain := bytesAt b 4 4, period := bytesAt b 8 4, budget := bytesAt b 12 4
    nact := bytesAt b 16 4, cbw := bytesAt b 20 2, feat := BitVec.ofNat 128 (bytesAt b 32 16) }

def manifestNo (xs : List Sec) (g : BitVec 128) : Option LoadNo :=
  let (t, x) := secOf xs 1
  let p := manifestOf xs
  let bad (b : Bool) (o : Nat) := refuseIf b (rejAt .desc t 0 o)
  firstNo [
    bad (x.len != 64) 0, refuseIf (!bytesZero x.bytes 3 1 || !bytesZero x.bytes 22 2 || !bytesZero x.bytes 54 10) (rejAt .rsvd t 0 0),
    bad (p.gang == 0 || 64 < p.gang) 0, bad (3 < p.home && p.home != 15) 1, bad (p.wdg < 10 || 30 < p.wdg) 2, bad (p.drain == 0) 4,
    bad (p.period != 0 && (p.period < 10000 || 1000000000 < p.period)) 8, bad (p.period != 0 && (p.budget == 0 || p.period < p.budget)) 12,
    bad (7400 < p.cbw) 20, bad (!namesBlock xs t 24) 24, refuseIf (p.feat &&& ~~~g != 0) .feature,
    bad (bytesAt x.bytes 48 2 != (secsOf xs 4).length) 48, bad (bytesAt x.bytes 50 2 * 48 != (secOf xs 5).2.len) 50,
    bad (bytesAt x.bytes 52 2 * 152 != (secOf xs 8).2.len || 64 < bytesAt x.bytes 52 2) 52]

/- The grammar (R210, R309, R336, R337, R339). -/

/-- A grammar from its section. -/
def gramOf (bs : List Byte) : Grammar :=
  let nnt := bytesAt bs 0 2
  let nprod := bytesAt bs 2 2
  { nnt := nnt, start := bytesAt bs 6 1, leadPt := bytesAt bs 7 1 % 32, leadTrk := bytesAt bs 7 1 / 32 % 2, rcv := bytesAt bs 8 1 % 2 == 1
    lvl := bytesAt bs 8 1 / 2 % 8, reset := bytesAt bs 9 1
    pois := (List.range (bytesAt bs 10 1)).map (fun i => bytesAt bs (12 + 2 * i) 2)
    cells := (List.range nnt).map (fun a => (List.range 8).map (fun t => bytesAt bs (32 + 16 * a + 2 * t) 2))
    prods := (List.range nprod).map (fun p =>
      let o := 32 + 16 * nnt + 32 * p
      (bytesAt bs o 1, (List.range (bytesAt bs (o + 1) 1 % 16)).map (fun i => bytesAt bs (o + 8 + 2 * i) 2)))
    acts := (List.range (bytesAt bs 4 2)).map (fun a => BitVec.ofNat 64 (bytesAt bs (32 + 16 * nnt + 32 * nprod + 8 * a) 8)) }

/-- A symbol's code is one of the grammar's (R210). -/
def symbolBad (nnt nact x : Nat) : Bool :=
  if x < 0x100 then nnt ≤ x else if x < 0x108 then false else if 0x400 ≤ x && x < 0x800 then nact ≤ x - 0x400 else true

/-- Row a of the parse table (R336, R339): what a cell with V = 0 holds in PROD is not looked at. -/
def rowBad (g : Grammar) (a : Nat) (row : List Nat) : Bool :=
  row.any (fun c => nbits c 13 10 != 0 || (nbit c 15 && (g.prods.getD (nbits c 9 0) (65536, [])).1 != a)) ||
  (row.any (fun c => nbit c 14) && !(nbit (row.headD 0) 15 && nbit (row.headD 0) 14 && (row.drop 1).all (fun c => c == 0)))

/-- Production p (R337, R339): the codes of all its twelve symbols are looked at. -/
def prodBad (bs : List Byte) (g : Grammar) (nact p : Nat) : Bool :=
  let o := 32 + 16 * g.nnt + 32 * p
  let n := bytesAt bs (o + 1) 1 % 16
  15 < bytesAt bs (o + 1) 1 || !bytesZero bs (o + 2) 6 || g.nnt ≤ bytesAt bs o 1 || 12 < n ||
  (List.range 12).any (fun i => symbolBad g.nnt nact (bytesAt bs (o + 8 + 2 * i) 2))

/-- A site that a recovery may poison. -/
def poisBad (n : Nat) : Bool := n % 32 == 0 || 26 < n % 32 || 1023 < n

/-- The checks of R339. -/
def gramNo (xs : List Sec) : Option LoadNo :=
  let (t, x) := secOf xs 3
  let bs := x.bytes
  let g := gramOf bs
  let nact := bytesAt bs 4 2
  let acts := 32 + 16 * g.nnt + 32 * bytesAt bs 2 2
  let at_ (b : Bool) (entry o : Nat) := refuseIf b (rejAt .rsvd t entry o)
  firstNo (
    [at_ (x.len < 32 || x.len != acts + 8 * nact) 0 0, at_ (63 < bytesAt bs 7 1) 0 7, at_ (15 < bytesAt bs 8 1) 0 8, at_ (!bytesZero bs 11 1) 0 11,
     at_ (!bytesZero bs 28 4) 0 28, at_ (g.nnt ≤ g.start) 0 6, at_ (g.rcv && (g.lvl == 0 || g.nnt ≤ g.reset)) 0 8,
     at_ (!g.rcv && (g.lvl != 0 || !bytesZero bs 9 2 || !bytesZero bs 12 16)) 0 8, at_ (8 < bytesAt bs 10 1) 0 10,
     at_ (g.pois.any poisBad) 0 12] ++
    (g.cells.zipIdx.map (fun r => at_ (rowBad g r.2 r.1) r.2 (32 + 16 * r.2))) ++
    ((List.range g.prods.length).map (fun p => at_ (prodBad bs g nact p) p (32 + 16 * g.nnt + 32 * p))) ++
    ((List.range nact).map (fun a => at_ (!namesBlock xs t (acts + 8 * a)) a (acts + 8 * a))))

/- Planes (R161 to R174, R178, R310). -/

/-- Entries of a tag layout. -/
def layoutWords (bs : List Byte) : List Nat := (List.range 8).map (fun i => bytesAt bs (16 + 2 * i) 2)

def layoutOf (ws : List Nat) : List TagField :=
  (ws.takeWhile (fun w => nbits w 6 0 != 0)).map (fun w => { width := nbits w 6 0, guarded := nbit w 7, colour := nbit w 8 })

/-- What a tag layout is refused for (R171). -/
def layoutNo (sec : Nat) (ws : List Nat) : Option LoadNo :=
  let l := layoutOf ws
  firstNo [
    refuseIf (ws.any (fun w => nbits w 15 9 != 0)) (rejAt .rsvd sec 0 16),
    refuseIf ((ws.drop l.length).any (fun w => w != 0) || l.any (fun f => 64 < f.width || (f.colour && f.width != 8)) ||
      64 < (l.map (·.width)).sum || 1 < (l.filter (·.colour)).length) (rejAt .cfgop sec 0 16)]

def planeOfSec (bs : List Byte) (va : Nat) : PlaneSec :=
  { pid := bytesAt bs 0 2, x0 := bytesAt bs 2 1, y0 := bytesAt bs 3 1, w := bytesAt bs 4 1, h := bytesAt bs 5 1, init := bytesAt bs 6 1 == 1
    va := BitVec.ofNat 64 va }

/-- Record i of a plane section: reserved bytes of R178, and what a load of it would refuse. -/
def recordNo (l : List TagField) (sec : Nat) (p : PlaneSec) (bs : List Byte) (i : Nat) : Option LoadNo :=
  let n := (p.y0 + i / p.w) * 32 + p.x0 + i % p.w
  (recordBad l n (recordOf ((bs.drop (32 + 128 * i)).take 128) p.pid)).map (fun c => rejAt c sec i (32 + 128 * i))

def planeNo (xs : List Sec) (first : List Nat) (t : Nat) (x : Sec) : Option LoadNo :=
  let p := planeOfSec x.bytes 0
  let r : Rect := { x0 := p.x0, y0 := p.y0, w := p.w, h := p.h }
  match firstNo [
      refuseIf (x.len < 32 || p.pid == 0 || 1 < bytesAt x.bytes 6 1 || p.w == 0 || p.h == 0 || !r.ok || x.len != 32 + 128 * (p.w * p.h)) (rejAt .desc t 0 0),
      refuseIf (!bytesZero x.bytes 7 9) (rejAt .rsvd t 0 7), layoutNo t (layoutWords x.bytes), refuseIf (layoutWords x.bytes != first) (rejAt .cfgop t 0 16),
      refuseIf ((secsOf xs 4).any (fun y => y.1 < t && (bytesAt y.2.bytes 0 2 == p.pid || (p.init && bytesAt y.2.bytes 6 1 == 1)))) (rejAt .desc t 0 0)] with
  | some n => some n
  | none => (List.range (p.w * p.h)).findSome? (recordNo (layoutOf first) t p x.bytes)

/-- The layout that every plane section carries (R296). -/
def planLayout (xs : List Sec) : List Nat := layoutWords (secOf xs 4).2.bytes

def planesNo (xs : List Sec) : Option LoadNo := firstNo ((secsOf xs 4).map (fun x => planeNo xs (planLayout xs) x.1 x.2))

/- Windows, mark rings, launches (R65, R298, R300, R311). -/

/-- A VA64 entry may write only the BASE of a window, and names an hbm record (R311). -/
def baseSym (xs : List Sec) (i : Nat) : Option (Sym × Reloc) := symAt xs (secOf xs 5).1 (48 * i + 8)

def winEntry (xs : List Sec) (i : Nat) : List Byte :=
  let b := ((secOf xs 5).2.bytes.drop (48 * i)).take 48
  if (baseSym xs i).isSome then b.take 8 ++ leBytes 0 8 ++ b.drop 16 else b

def isHbmSym (xs : List Sec) (y : Sym) : Bool := (y.kind == 2 || y.kind == 6) && (xs[y.sec]?.map (fun x => !nbit x.info 8)).getD false

def windowNo (xs : List Sec) (g : BitVec 128) (i : Nat) : Option LoadNo :=
  let (t, _) := secOf xs 5
  let b := winEntry xs i
  firstNo [
    refuseIf (!bytesZero b 35 13 || 7 < bytesAt b 24 4) (rejAt .rsvd t i (48 * i)), refuseIf (mapMalformed b) (rejAt .desc t i (48 * i)),
    refuseIf (match baseSym xs i with
      | some (y, _) => bytesAt b 0 1 != 1 || !isHbmSym xs y
      | none => false) (rejAt .desc t i (48 * i + 8)),
    refuseIf (mapFeature g (mapReq b)) .feature]

def nwin (xs : List Sec) : Nat := (secOf xs 5).2.len / 48

def windowsNo (xs : List Sec) (g : BitVec 128) : Option LoadNo :=
  let (t, _) := secOf xs 5
  firstNo ((List.range (nwin xs)).map (windowNo xs g) ++
    ((relocsOf xs t).map (fun r => refuseIf (r.typ != 1 || r.off % 48 != 8) (rejAt .desc t (r.off / 48) r.off))))

/-- Records of the mark-ring section: offset, entry of the window section, mark words; `fuel` bounds them by the section's bytes. -/
def marksOf (xs : List Sec) (bs : List Byte) (off : Nat) : Nat → List (Nat × Option Nat × List Nat)
  | 0 => []
  | fuel + 1 =>
    if bs.length ≤ off then []
    else
      let n := bytesAt bs (off + 4) 4
      let w := ((relocsOf xs (secOf xs 7).1).find? (fun r => r.off == off && r.typ == 3)).bind (fun r => (symsOf xs)[r.sym]?.map (·.value))
      (off, w, (List.range (min n ((bs.length - off) / 8))).map (fun i => bytesAt bs (off + 16 + 8 * i) 8)) ::
        marksOf xs bs (off + 16 + 8 * n) fuel

def markRecords (xs : List Sec) : List (Nat × Option Nat × List Nat) :=
  let bs := (secOf xs 7).2.bytes
  marksOf xs bs 0 (bs.length / 16 + 1)

def markNo (xs : List Sec) (i : Nat) (m : Nat × Option Nat × List Nat) : Option LoadNo :=
  let (t, x) := secOf xs 7
  let (off, w, ms) := m
  let all := ((markRecords xs).filter (fun y => y.2.1 == w && y.1 ≤ off)).flatMap (fun y => y.2.2)
  match w with
  | none => some (rejAt .desc t i off)
  | some w =>
    let r := mapReq (winEntry xs w)
    firstNo [
      refuseIf (!bytesZero x.bytes (off + 2) 2 || !bytesZero x.bytes (off + 8) 8) (rejAt .rsvd t i off),
      refuseIf (x.len < off + 16 + 8 * bytesAt x.bytes (off + 4) 4 || !r.mkd || 2 ^ (r.mkl + 7) < all.length) (rejAt .desc t i off),
      refuseIf (ms.any (fun m => nbits m 63 51 != 0 || nbits m 50 48 == 0) || !marksRise (all.map markOf)) (rejAt .desc t i (off + 16))]

def launchBody (xs : List Sec) (i : Nat) : List Byte := ((secOf xs 8).2.bytes.drop (152 * i)).take 152

def nlaunch (xs : List Sec) : Nat := (secOf xs 8).2.len / 152

def launchNo (xs : List Sec) (g : BitVec 128) (i : Nat) : Option LoadNo :=
  let (t, _) := secOf xs 8
  let l := launchOf 0 (launchBody xs i)
  let same := (List.range (nlaunch xs)).filter (fun j => (launchOf 0 (launchBody xs j)).gkey == l.gkey)
  firstNo [
    refuseIf (launchMalformed (launchBody xs i)) (rejAt .desc t i (152 * i)),
    (match queueStatus g (manifestOf xs) l.q with
     | .ok => none
     | .feature => some .feature
     | _ => some (rejAt .desc t i (152 * i))),
    refuseIf (l.gsz != 1 && (same.length != l.gsz || same.any (fun j => (launchOf 0 (launchBody xs j)).gsz != l.gsz))) (rejAt .desc t i (152 * i))]

/- Descriptors (R306, R314, R333, R334). -/

/-- The record's words, with what relocation writes read as zero. -/
def descOfSym (xs : List Sec) (y : Sym) : Desc :=
  let bs := (((xs[y.sec]?.map (·.bytes)).getD []).drop y.value).take y.sz
  let bs := (relocsOf xs y.sec).foldl (fun bs r =>
    if y.value ≤ r.off && r.off < y.value + y.sz then
      let n := if r.typ == 1 then 8 else 2
      bs.take (r.off - y.value) ++ List.replicate n 0 ++ bs.drop (r.off - y.value + n)
    else bs) bs
  { words := (items 8 bs (y.sz / 8)).map (BitVec.ofNat 64), addr := BitVec.ofNat 64 y.value }

/-- What the rules of a KIND refuse of a body's words alone. -/
def bodyBad (s : State) (xs : List Sec) (d : Desc) : Option FCode :=
  let k := d.kind
  let w := d.word 3
  let own (c : Option FCode) : Option FCode := c.filter (fun c => c == .rsvd || c == .desc || c == .cfgop)
  if k ≤ 4 then
    if boxReserved d then some .rsvd else if boxShapeBad d || boxListBad (layoutOf (planLayout xs)) d then some .desc else none
  else if k ≤ 0x0A then (if winDescBad d then some .rsvd else none)
  else if k ≤ 0x11 then
    if meReserved d then some .rsvd
    else if k == 0x10 then
      (if 3 < d.mfmt || d.np == 0 || 65536 < d.kb + d.np * fmtK d.mfmt || fmtK d.mfmt ≤ d.ks || (d.mfmt == 1 && nbits (d.word 4) 15 0 != 0)
       then some .desc else none)
    else if d.nrow == 0 || 64 < d.row0 + d.nrow || vceBad d.ove then some .desc else none
  else if k == 0x12 then
    if nbits w 63 16 != 0 || d.used 14 then some .rsvd
    else if 8 < d.ki || d.nin == 0 || 8 < d.nin || d.word 5 % 16 != 0 || d.used (6 + d.nin) then some .desc
    else d.inputs.findSome? inputWord
  else if k ≤ 0x19 then own (crsBad { s with wins := [] } d)
  else if k ≤ 0x22 then own (trlBad { s with wins := [] } d)
  else if k == 0x28 then trnBad d.trnU d
  else if k == 0x30 then
    if nbits w 63 38 != 0 || d.used 4 then some .rsvd
    else if !d.rect.ok || (d.pid != 0 && !(secsOf xs 4).any (fun x => bytesAt x.2.bytes 0 2 == d.pid)) then some .desc else none
  else if k ≤ 0x32 then own (cfgBad s d)
  else collBad d

/-- A descriptor record that a symbol of kind 6 marks. -/
def descNo (s : State) (xs : List Sec) (y : Sym) : Option LoadNo :=
  let entry := ((symsOf xs).filter (fun z => z.kind == 6 && z.sec == y.sec && z.value < y.value)).length
  let d := descOfSym xs y
  let at_ (c : FCode) := rejAt c y.sec entry y.value
  if y.kind != 6 then none
  else if y.value % 64 != 0 || (kindWords d.kind).map (· * 8) != some y.sz then some (at_ .desc)
  else
    match headerBad 0 (d.word 0) (d.word 1) with
    | some c => some (at_ c)
    | none => (bodyBad s xs d).map at_

/- Trellis sections (R256 to R258, R301, R312). -/

def trlEntries (x : Sec) : List (List Byte) := (List.range (x.len / 48)).map (fun i => (x.bytes.drop (48 * i)).take 48)

def trlNo (t : Nat) (x : Sec) (i : Nat) (b : List Byte) : Option LoadNo :=
  let lvl := bytesAt b 0 1
  let nin := bytesAt b 2 1
  firstNo [
    refuseIf (15 < lvl || 16 < nin) (rejAt .desc t i (48 * i)),
    refuseIf (6 < nin) (.rej .fanin (nbits x.info 6 4 * 65536 + lvl * 256 + bytesAt b 1 1) (48 * i)),
    refuseIf (!bytesZero b 3 5 || !bytesZero b (8 + 2 * nin) (32 - 2 * nin)) (rejAt .rsvd t i (48 * i)),
    (wiringBad lvl (bytesAt b 8 12)).map (fun c => rejAt c t i (48 * i + 8))]

def trellisNo (xs : List Sec) : Option LoadNo :=
  firstNo ((secsOf xs 9).map (fun x =>
    firstNo (refuseIf (x.2.len % 48 != 0) (rejAt .desc x.1 0 0) :: (trlEntries x.2).zipIdx.map (fun b => trlNo x.1 x.2 b.2 b.1))))

/-- Cells of a level: up to the highest that is named. -/
def levelCells (x : Sec) (lvl : Nat) : Nat :=
  ((trlEntries x).filter (fun b => bytesAt b 0 1 == lvl)).foldl (fun n b => max n (bytesAt b 1 1 + 1)) 0

def cellEntry (x : Sec) (lvl c : Nat) : Option (List Byte) := (trlEntries x).find? (fun b => bytesAt b 0 1 == lvl && bytesAt b 1 1 == c)

/-- The wiring image and the table image of a level (R257): inputs past NIN, and cells not named, take the constant 0. -/
def wiringImage (x : Sec) (lvl : Nat) : List Byte :=
  (List.range (levelCells x lvl)).flatMap (fun c =>
    let b := (cellEntry x lvl c).getD []
    ((List.range 6).flatMap (fun k => if k < bytesAt b 2 1 then leBytes (bytesAt b (8 + 2 * k) 2) 2 else leBytes 0x0800 2)) ++ leBytes 0 4)

def tableImage (x : Sec) (lvl : Nat) : List Byte :=
  (List.range (levelCells x lvl)).flatMap (fun c => leBytes (bytesAt ((cellEntry x lvl c).getD []) 40 8) 8)

/- The checks together (R314, step 1). -/

def planNo (s : State) (g : BitVec 128) (bs : List Byte) : Option LoadNo :=
  match objectNo bs with
  | some n => some n
  | none =>
    let xs := sectionsOf bs
    match structureNo bs xs with
    | some n => some n
    | none =>
      firstNo ([manifestNo xs g, gramNo xs, planesNo xs, windowsNo xs g] ++ (symsOf xs).map (descNo s xs) ++
        (markRecords xs).zipIdx.map (fun m => markNo xs m.2 m.1) ++ [trellisNo xs] ++ (List.range (nlaunch xs)).map (launchNo xs g))

/- Placement and relocation (R314, steps 2 and 3). -/

/-- Where a plan stands: for each die the virtual address and the memory address of its plan window, offsets of sections in it, offsets
of Trellis images by (section, level, table or wiring), DATA sections' virtual and memory addresses, declared windows' virtual
addresses and keys. -/
structure Placed where
  plan : List (Nat × Nat) := []
  offs : List (Nat × Nat) := []
  images : List (Nat × Nat × Bool × Nat) := []
  datas : List (Nat × Nat × Nat) := []
  wins : List (Nat × Nat) := []
  keys : List Nat := []
  deriving DecidableEq, Repr

/-- Blocks, grammar and planes one after another. -/
def commonOffs (xs : List Sec) : List (Nat × Nat) × Nat :=
  (secsOf xs 2 ++ secsOf xs 3 ++ secsOf xs 4).foldl (fun (p : List (Nat × Nat) × Nat) x => (p.1 ++ [(x.1, p.2)], alignUp (p.2 + x.2.len) 128)) ([], 0)

/-- Images of the Trellis sections of a die, after the common part. -/
def imageOffs (xs : List Sec) (die at_ : Nat) : List (Nat × Nat × Bool × Nat) × Nat :=
  ((secsOf xs 9).filter (fun x => nbits x.2.info 1 0 == die)).foldl (fun p x =>
    (List.range 16).foldl (fun (p : List (Nat × Nat × Bool × Nat) × Nat) l =>
      let n := levelCells x.2 l
      if n == 0 then p
      else (p.1 ++ [(x.1, l, false, p.2), (x.1, l, true, p.2 + 16 * n)], alignUp (p.2 + 24 * n) 128)) p) ([], at_)

/-- A scratch window of n bytes with 1 KiB tiles. -/
def scratchReq (die n : Nat) : MapReq :=
  { kind := 0, tsz := 0, die := die, depth := max 1 ((n + 1023) / 1024), base := 0, len := 0, attr := 0, fill := 0, peer := 0, mkl := 0 }

/-- What placing comes to. -/
inductive PlaceRes where
  | ok (s : State) (p : Placed)
  | no (s : State) (n : LoadNo)

def winMem (s : State) (key : Nat) : Nat := cmnAddr (key / 4096) ((s.win key).rbase * 1024)

/-- The plan window of a die: read and fetched. -/
def placePlan (xs : List Sec) (sid die : Nat) : PlaceRes → PlaceRes
  | .no s st => .no s st
  | .ok s p =>
    let (offs, n) := commonOffs xs
    let (imgs, n) := imageOffs xs die n
    match mapWindow s sid (scratchReq die n) 0x0A 0 with
    | .no s st => .no s (.sts st)
    | .ok s va w =>
      let key := die * 4096 + w
      .ok s { p with plan := p.plan ++ [(va, winMem s key)], offs := offs, images := p.images ++ imgs, keys := p.keys ++ [key] }

/-- Rights of data: R, W and ATM (R377). -/
def dataRights : Nat := 0x46

/-- A DATA section: a scratch window of its die, or HBM of one of the die's stacks. -/
def placeData (sid : Nat) (r : PlaceRes) (x : Nat × Sec) : PlaceRes :=
  match r with
  | .no s st => .no s st
  | .ok s p =>
    let die := nbits x.2.info 1 0
    if nbit x.2.info 8 then
      match mapWindow s sid (scratchReq die x.2.len) dataRights 0 with
      | .no s st => .no s (.sts st)
      | .ok s va w => .ok s { p with datas := p.datas ++ [(x.1, va, winMem s (die * 4096 + w))], keys := p.keys ++ [die * 4096 + w] }
    else
      let n := alignUp (max 1 x.2.len) 65536
      match (match takeHbm s (2 * die) n 65536 with
             | some y => some y
             | none => takeHbm s (2 * die + 1) n 65536) with
      | none => .no s (.sts .nospace)
      | some (a, s1) =>
        match takeVa (s1.session sid) n with
        | none => .no s (.sts .nospace)
        | some va =>
          match installSeg s1 sid { va := va, len := n, kind := 1, die := 0, win := 0, base := a, rights := dataRights } 0 with
          | .no s2 st => .no s2 (.sts st)
          | .ok s2 => .ok s2 { p with datas := p.datas ++ [(x.1, va, hbmAddr a)] }

/-- A declared window: BASE becomes the HBM address of its record (R311), and the range is looked at again as MAPWIN would (R65, R314). -/
def placeWindow (xs : List Sec) (sid : Nat) (r : PlaceRes) (i : Nat) : PlaceRes :=
  match r with
  | .no s st => .no s st
  | .ok s p =>
    let m := mapReq (winEntry xs i)
    let m := match baseSym xs i with
      | some (y, r) => { m with base := (((p.datas.find? (fun d => d.1 == y.sec)).map (fun d => d.2.2 - 2 ^ 40)).getD 0 + y.value + r.addend) % 2 ^ 64 }
      | none => m
    if m.kind == 1 && hbmRangeBad m.base m.len then .no s (rejAt .desc (secOf xs 5).1 i (48 * i + 8))
    else
    match mapWindow s sid m (winRights m.prs) sxtRights with
    | .no s st => .no s (.sts st)
    | .ok s va w => .ok s { p with wins := p.wins ++ [(va, m.die * 4096 + w)], keys := p.keys ++ [m.die * 4096 + w] }

def placeAll (s : State) (sid : Nat) (xs : List Sec) : PlaceRes :=
  let r := (List.range 4).foldl (fun r die => placePlan xs sid die r) (.ok s {})
  let r := (secsOf xs 6).foldl (placeData sid) r
  (List.range (nwin xs)).foldl (placeWindow xs sid) r

/-- The virtual address of a symbol; blocks and planes are named in the plan window of die `home`. -/
def symAddr (xs : List Sec) (p : Placed) (home : Nat) (y : Sym) : Nat :=
  let off (t : Nat) : Nat := ((p.offs.find? (fun x => x.1 == t)).map (·.2)).getD 0
  match y.kind with
  | 1 => (p.plan.getD home (0, 0)).1 + off y.sec + y.value
  | 4 => (p.plan.getD home (0, 0)).1 + off y.sec
  | 3 => (p.wins.getD y.value (0, 0)).1
  | 5 =>
    let die := nbits ((xs[y.sec]?.map (·.info)).getD 0) 1 0
    (p.plan.getD die (0, 0)).1 +
      ((p.images.find? (fun x => x.1 == y.sec && x.2.1 == y.value % 16 && x.2.2.1 == nbit y.value 4)).map (fun x => x.2.2.2)).getD 0
  | _ => ((p.datas.find? (fun x => x.1 == y.sec)).map (fun x => x.2.1)).getD 0 + y.value

/-- A section's bytes relocated (R307). -/
def relocate (xs : List Sec) (p : Placed) (home t : Nat) (bs : List Byte) : List Byte :=
  (relocsOf xs t).foldl (fun bs r =>
    match (symsOf xs)[r.sym]? with
    | none => bs
    | some y =>
      if r.typ == 1 then bs.take r.off ++ leBytes ((symAddr xs p home y + r.addend) % 2 ^ 64) 8 ++ bs.drop (r.off + 8)
      else bs.take r.off ++ leBytes (p.wins.getD y.value (0, 0)).2 2 ++ bs.drop (r.off + 2)) bs

def secBytes (xs : List Sec) (p : Placed) (home t : Nat) : List Byte := relocate xs p home t ((xs[t]?.map (·.bytes)).getD [])

/-- The plan's bytes are written. -/
def writePlan (s : State) (xs : List Sec) (p : Placed) (home : Nat) : State :=
  let s := (List.range 4).foldl (fun s die =>
    let ma := (p.plan.getD die (0, 0)).2
    let s := p.offs.foldl (fun s x => s.storeMem (ma + x.2) (secBytes xs p home x.1) false) s
    (p.images.filter (fun x => nbits ((xs[x.1]?.map (·.info)).getD 0) 1 0 == die)).foldl (fun s x =>
      match xs[x.1]? with
      | some y => s.storeMem (ma + x.2.2.2) (if x.2.2.1 then tableImage y x.2.1 else wiringImage y x.2.1) false
      | none => s) s) s
  let s := p.datas.foldl (fun s x => s.storeMem x.2.2 (secBytes xs p home x.1) false) s
  (markRecords xs).foldl (fun s m => match m.2.1 with
    | some w => putMarks s (p.wins.getD w (0, 0)).2 m.2.2
    | none => s) s

/-- The plan as it is loaded. -/
def planOfObject (xs : List Sec) (p : Placed) (home : Nat) : Plan :=
  { manifestOf xs with
    trap := BitVec.ofNat 64 (bytesAt (secBytes xs p home (secOf xs 1).1) 24 8)
    gram := gramOf (secBytes xs p home (secOf xs 3).1)
    planes := (secsOf xs 4).map (fun x =>
      planeOfSec x.2.bytes ((p.plan.getD home (0, 0)).1 + ((p.offs.find? (fun y => y.1 == x.1)).map (·.2)).getD 0))
    layout := layoutOf (planLayout xs), wins := p.keys }

/- Launch records (R314, R315). -/

/-- The launch of record i. -/
def recordLaunch (xs : List Sec) (p : Placed) (home sid ph i : Nat) : Launch :=
  let bs := ((secBytes xs p home (secOf xs 8).1).drop (152 * i)).take 152
  { launchOf sid bs with lid := BitVec.ofNat 64 (2 ^ 63 + ph * 2 ^ 16 + i), ph := ph, die := none }

/-- Queue the records in order; a group is handed over with its last member. -/
def queueRecords (s : State) (sid : Nat) : List Launch → List Launch → State
  | _, [] => s
  | held, l :: ls =>
    let s := s.modSession sid (fun x => { x with live := x.live ++ [(l.lid, 0)] })
    if l.gsz == 1 then queueRecords (queueLaunch s l) sid held ls
    else
      let same := held.filter (fun h => h.gkey == l.gkey) ++ [l]
      if l.gsz ≤ same.length then queueRecords (queueGroup s same) sid (held.filter (fun h => h.gkey != l.gkey)) ls
      else queueRecords s sid (held ++ [l]) ls

/-- An object that is not loaded leaves nothing; PLANREJ has a record in the session's ring (R314). -/
def notLoaded (s : State) (sid : Nat) (c : Cmd) : LoadNo → State
  | .feature => finish s sid c .feature []
  | .sts st => finish s sid c st []
  | .rej code aux off =>
    let f : FaultRec := { code := code.num, mid := coreMid 640, flg := 1, opa := BitVec.ofNat 64 off, time := BitVec.ofNat 64 s.ns, aux := BitVec.ofNat 32 aux }
    finish (sessionFault s sid f) sid c .planrej []

/-- LOADPLAN with a body that is an object. -/
def loadObject (s : State) (sid : Nat) (c : Cmd) : State :=
  let x := s.session sid
  match planNo s x.g c.body with
  | some n => notLoaded s sid c n
  | none =>
    let xs := sectionsOf c.body
    if 256 ≤ x.plans.length then finish s sid c .nospace []
    else
      match placeAll s sid xs with
      | .no s1 n => notLoaded { s with ceilx := s1.ceilx } sid c n
      | .ok s1 p =>
        let home := if (manifestOf xs).home < 4 then (manifestOf xs).home else 0
        let ph := x.nextPh
        let s2 := (writePlan s1 xs p home).modSession sid (fun y => { y with
          plans := fset y.plans ph (planOfObject xs p home), nextPh := ph + 1 })
        let s3 := queueRecords s2 sid [] ((List.range (nlaunch xs)).map (recordLaunch xs p home sid ph))
        finish s3 sid c .ok (leBytes ph 4 ++ leBytes 0 4)

/-- LOADPLAN (R314). -/
def stepLoadplan (sid : Nat) (s : State) : State :=
  match headCmd s sid 6 with
  | none => s
  | some c => loadObject (reap s) sid c

end Sys2Proof.Machine
end

