-- ==== Sys2Proof/Machine/Lodge.lean ====
section
/-! DEFINITION. What Thiben does of its own, outside the commands of hosts (R33, R38, R53, R62), taken by REGISTER_WRITE where no register write waits;
and the errors of stored data that ECC finds (R55). -/

namespace Sys2Proof.Machine

/- Acts of the firmware. -/

/-- Bytes of an SPI image slot, and where slot i starts (R38). -/
def slotBytesSpi : Nat := 2 ^ 25
def slotStart (i : Nat) : Nat := i * slotBytesSpi

/-- The Lodge writes bytes of the slot it did not boot from (R38); a write that leaves the slot changes nothing. -/
def writeSpi (s : State) (off : Nat) (bs : List Byte) : State :=
  if s.boot.done && off + bs.length ≤ slotBytesSpi then
    { s with mem := writeBytes s.mem (spiAddr (slotStart (1 - s.boot.slot) + off)) bs }
  else s

/-- One act of Thiben. -/
def lodgeAct (s : State) : LodgeAct → State
  | .policy l => { s with policy := l }
  | .limit k us => if (fget s.chans k).isSome then s.modChan k (fun c => { c with limit := us }) else s
  | .addr p a => s.modPort p (fun x => { x with addr := a })
  | .spi off bs => writeSpi s off bs
  | .bell => ringBell s

/-- REGISTER_WRITE: the oldest register write that waits (R7), or the oldest act of Thiben. -/
def stepRegisterRow (s : State) : State :=
  match s.inputs.regs, s.inputs.lodge with
  | [], a :: rest => lodgeAct { s with inputs := { s.inputs with lodge := rest } } a
  | _, _ => stepRegisterWrite s

/- Errors of stored data (R55). -/

/-- The block whose counter counts an error: an access-table target, a scratchpad, the code store, a core, an engine, a Trellis, a site,
a gang's Carousel. -/
def errBlock : ErrSite → Nat
  | .mem a =>
    match tableOf a with
    | some (t, _) => t
    | none => if a < codeAddr 0 then 0x1000 + (a - scrAddr 0 0) / 2 ^ 23 else 0x1100
  | .reg k _ | .line k _ _ => 0x2000 + k
  | .bank r j _ | .row r j _ => 0x3000 + r * 8 + j
  | .table r _ | .wiring r _ | .plane r _ => 0x4000 + r
  | .queue r n _ | .entry r n _ _ => 0x10000 + r * 1024 + n
  | .buffer r n _ _ => 0x10000 + r * 1024 + nodeSite n
  | .train g _ => 0x20000 + g

/-- A correctable error is counted. -/
def countError (s : State) (e : ErrSite) : State :=
  { s with eccCounts := fset s.eccCounts (errBlock e) (fgetD s.eccCounts (errBlock e) 0 + 1) }

/-- Sessions one of whose segments reaches a byte of memory. -/
def holders (s : State) (a : Nat) : List Nat :=
  (s.sessions.filter (fun x => x.2.segs.any (fun g => (segRanges s g).any (fun m =>
    let lo := if m.hbm then hbmAddr m.base else cmnAddr m.die m.base
    lo ≤ a && a < lo + m.len)))).map (·.1)

/-- F_ECCU of a word of memory: in the trap block of the scratchpad's region; for Commons and HBM, in the rings of the sessions that hold the
byte; for a byte that no session holds, and for the code store, in the Lodge's record. DESIGN CHOICE, log 43. -/
def memError (s : State) (a : Nat) : State :=
  let f : FaultRec := { code := FCode.eccu.num, mid := coreMid 640, opa := BitVec.ofNat 64 a, flg := 1 }
  if scrAddr 0 0 ≤ a && a < scrAddr 64 0 then raiseUnit s ((a - scrAddr 0 0) / 2 ^ 23) .unit FCode.eccu.num 40 0
  else if (holders s a).isEmpty then { s with lodgeFaults := s.lodgeFaults ++ [{ f with time := BitVec.ofNat 64 s.ns }] }
  else (holders s a).foldl (fun s sid => sessionFault s sid f) s

/-- An uncorrectable error in a bank freezes it (R225). An operation in progress on it stops: the engine's site freezes until `tret`, and the stop
completion follows, as where a slice fails. -/
def bankError (s : State) (r j b : Nat) : State :=
  let e := s.eng r j
  let x := e.bank b
  let running := (e.run b).any (fun m => m.d.kind == 0x10)
  let stops := running && e.frozen.isNone
  let e := e.setBank b { x with broken := true, frz := true }
  let e := if running then e.setRun b ((e.run b).map (fun m => { m with stop := true })) else e
  let e := if stops then { e with frozen := some { code := FCode.eccu.num, aux := 2 ^ 31 } } else e
  raiseUnit (s.setEng r j e) r (if stops then .engine j else .unit) FCode.eccu.num (32 + j) (2 ^ 31)

/-- The tokens of a list whose place among its data tokens a test names are poisoned. -/
def poisonData (f : Nat → Bool) : Nat → List Token → List Token
  | _, [] => []
  | i, t :: ts => if t.kind == .data then (if f i then { t with poi := true } else t) :: poisonData f (i + 1) ts else t :: poisonData f i ts

/-- Both 4-byte words of an ECC word are poisoned (R55). -/
def poisonPair (s : State) (a : Nat) : State := { s with poison := sinsert (sinsert s.poison (a / 8 * 2)) (a / 8 * 2 + 1) }

/-- An uncorrectable error of a core's own memory: in the trap block of its region, or in the Lodge's record. -/
def coreError (s : State) (k : Nat) : State :=
  match keyRegion k with
  | some r => raiseRegion s r .unit { code := FCode.eccu.num, mid := coreMid k }
  | none => { s with lodgeFaults := s.lodgeFaults ++ [{ code := FCode.eccu.num, mid := coreMid k, time := BitVec.ofNat 64 s.ns }] }

/-- An uncorrectable error of a site's memory. -/
def siteError (s : State) (r n : Nat) : State :=
  raiseRegion s r .unit { code := FCode.eccu.num, mid := siteMid r n false, x := n % 32, y := n / 32 }

/-- An uncorrectable error: the data is poisoned, or its bank or record broken, and F_ECCU is raised at the holding site (R55, R225, R270); that of
a train is found where the train arrives (R232). -/
def hardError (s : State) : ErrSite → State
  | .mem a => memError (poisonPair s a) a
  | .reg k n => coreError (s.modCore k (fun c => { c with g := fset c.g n { fgetD c.g n {} with poi := true } })) k
  | .line k i w =>
    coreError (s.modCore k (fun c => { c with cache := c.cache.modify i (fun l => { l with poi := l.poi ||| BitVec.ofNat 16 (3 * 4 ^ (w % 8)) }) })) k
  | .buffer r n i w =>
    let s := poisonPair s (scrAddr r (nodeStart s r n i + 8 * w))
    let x := s.node r n
    let b := x.buf i
    siteError (s.setNode r n { x with bufs := fset x.bufs i { b with toks := poisonData (fun j => j / 2 == w) 0 b.toks } }) r (nodeSite n)
  | .row r j i =>
    raiseUnit (s.modEng r j (fun e => { e with slots := fmodify e.slots i (fun x => { x with poi := true }) })) r .unit FCode.eccu.num (32 + j) 0
  | .entry r n i q =>
    let x := s.site r n
    siteError (s.setSite r n { x with
      store := x.store.modify i (fun e => { e with slots := e.slots.modify q (fun t => t.map (fun t => { t with poi := true })) }) }) r n
  | .bank r j b => bankError s r j b
  | .table r k => s.modTrl r (fun t => { t with cells := fset t.cells k { fgetD t.cells k {} with tabEcc := true } })
  | .wiring r k => s.modTrl r (fun t => { t with cells := fset t.cells k { fgetD t.cells k {} with selEcc := true } })
  | .queue r n q =>
    let x := s.site r n
    siteError (s.setSite r n { x with q := fmodify x.q q (fun ts => match ts with
        | t :: ts => { t with poi := true } :: ts
        | [] => []) }) r n
  | .train g i => s.modGang g (fun x => { x with lap := x.lap.map (fun l => { l with trains := l.trains.modify i (fun t => { t with poi := true }) }) })
  | .plane r n =>
    let s := s.modRegion r (fun g => { g with trl := { g.trl with store := fset g.trl.store n ((fgetD g.trl.store n (0, false)).1, true) } })
    if (s.region r).trl.frozen.isSome then raiseUnit s r .unit FCode.eccu.num 41 0
    else
      raiseUnit (s.modRegion r (fun g => { g with trl := { g.trl with frozen := some { code := FCode.eccu.num } } })) r .trellis FCode.eccu.num 41 0

/-- An error shows. -/
def strike (s : State) (e : EccErr) : State := if e.hard then hardError s e.site else countError s e.site

/-- The errors that have come since the last step. -/
def takeErrors (s : State) : State :=
  match s.inputs.errors with
  | [] => s
  | es => es.foldl strike { s with inputs := { s.inputs with errors := [] } }

end Sys2Proof.Machine
end

