-- ==== Sys2Proof/Machine/Save.lean ====
section
/-! DEFINITION. What a pre-emption or a park saves of a gang, and how it comes back, possibly on other regions (R85 to R90, R131, R134, R188,
R241). -/

namespace Sys2Proof.Machine

/- New names for what belongs to a region. -/

def homeCore (r k : Nat) : Nat := if k < 640 then r * 10 + k % 10 else k

def homeIssuer (r : Nat) (i : Issuer) : Issuer := { i with core := homeCore r i.core }
def homeDesc (r : Nat) (d : Desc) : Desc := { d with by_ := homeIssuer r d.by_ }

/-- A chain of box streams in region r; streams that a pre-emption closed reopen at their position, and read its element again. -/
def homeChain (r : Nat) (c : BoxChain) : BoxChain :=
  { c with box := { c.box with d := homeDesc r c.box.d, closed := false, asked := false, got := none } }
def homePort (r : Nat) (p : PortTile) : PortTile := { p with chains := p.chains.map (homeChain r), asked := false, want := none, resp := none, parts := [], page := none }
def homePorts (r : Nat) (ps : FMap PortTile) : FMap PortTile := ps.map (fun p => (p.1, homePort r p.2))

def homeRun (r : Nat) (m : MeRun) : MeRun := { m with d := homeDesc r m.d }
def homeEngine (r : Nat) (e : Engine) : Engine :=
  { e with
    q := e.q.map (fun x => (x.1, homeDesc r x.2)), nexts := e.nexts.map (fun x => (x.1, x.2.1, homeIssuer r x.2.2))
    run0 := e.run0.map (homeRun r), run1 := e.run1.map (homeRun r) }
def homeEngines (r : Nat) (es : FMap Engine) : FMap Engine := es.map (fun e => (e.1, homeEngine r e.2))

def homeCrs (r : Nat) (c : Carousel) : Carousel := { c with q := c.q.map (homeDesc r), lapReady := c.lapReady.map (homeDesc r) }
def homeTrl (r : Nat) (t : Trellis) : Trellis :=
  { t with
    q := t.q.map (fun c => { c with d := homeDesc r c.d }), nexts := t.nexts.map (fun x => (x.1, x.2.1, homeIssuer r x.2.2))
    outs := t.outs.map (fun o => { o with d := homeDesc r o.d }) }
/-- Configuration commands: a load is repeated whole (R188). -/
def homeCfg (r : Nat) (c : CfgUnit) : CfgUnit :=
  { c with q := c.q.map (fun x => { x with d := homeDesc r x.d, done := if x.d.kind == 0x30 then 0 else x.done }) }

/-- Translations that nothing pins are looked up afresh; a retry of KV mode goes on (R245). -/
def homeTlk (t : Tlk) : Tlk := { t with entries := t.entries.filter (fun e => e.2.pins != 0) }

/-- The full resume queue of a KV-mode TLK still counts as a withheld translation (R245). -/
def homeWithheld (s : State) (r : Nat) (y : Region) : List Withheld :=
  y.withheld.filterMap (fun w =>
    let t := (w.key - 1) / 2 % 8
    if w.key % 2 == 1 && w.key < 200000 && w.res == .pending && 64 ≤ (fgetD y.tlks t {}).resume.length then
      some { w with key := 2 * (r * 8 + t) + 1, since := s.ns, last := s.ns }
    else none)
def homeKiosk (s : State) (r : Nat) (k : Kiosk) : Kiosk :=
  { k with q := k.q.map (homeDesc r), run := k.run.map (fun x => (x.1, s.cyc)) }
def homeReplay (r : Nat) (u : Replay) : Replay := { u with q := u.q.map (homeDesc r) }

/-- An access of a held entry: its issuer stands in the region that takes the old one's place. -/
def homeWho (to_ : Nat → Nat) (w : Who) : Who :=
  let core := fun (k : Nat) => if k < 640 then homeCore (to_ (k / 10)) k else k
  match w with
  | .slot c i => .slot (core c) i
  | .reg c g i a => .reg (core c) g i a
  | .op c i a => .op (core c) i a
  | .wb c => .wb (core c)
  | .port r y id => .port (to_ r) y id
  | .unit r u => .unit (to_ r) u
  | w => w

def homeAccess (s : State) (to_ : Nat → Nat) (g : Nat) (a : Access) : Access :=
  { a with
    who := homeWho to_ a.who, mid := regionMid (to_ (a.mid / 8192 * 16 + a.mid / 256 % 16)) (a.mid % 256), gang := g, since := s.ns
    tgt := match a.tgt with
      | .scratch r o => .scratch (to_ r) o
      | t => t }

/- Fill streams and window commands while their plan is away. -/

/-- A party as a unit of its region. -/
def partyUnit : Party → Nat
  | .port _ y => y
  | .core k => 32 + k % 10
  | .engine _ j => 48 + j
  | .mst _ m => 64 + m
  | _ => 96

def partyAt (r u : Nat) : Party :=
  if u < 32 then .port r u
  else if u < 48 then .core (r * 10 + (u - 32))
  else if u < 64 then .engine r (u - 48)
  else if u < 96 then .mst r (u - 64)
  else .carousel r

/-- The fill streams of region r, the launch's region i, wait for its return. -/
def parkFills (s : State) (l : Launch) (i r : Nat) : State :=
  let away := fun (p : Party) => if partyIn r p then Party.away l.sid l.lid.toNat i (partyUnit p) else p
  let wins : FMap Window := s.wins.map (fun (w : Nat × Window) =>
    (w.1, { w.2 with closer := away w.2.closer, fills := w.2.fills.map (fun f => { f with by_ := away f.by_, paused := f.paused || partyIn r f.by_ }) }))
  { s with wins := wins }

/-- They go on in the region the launch has now. -/
def backFills (s : State) (l : Launch) (i r : Nat) : State :=
  let mine := fun (p : Party) => match p with
    | .away sid lid j u => if sid == l.sid && lid == l.lid.toNat && j == i then some u else none
    | _ => none
  let party := fun (p : Party) => match mine p with
    | some u => partyAt r u
    | none => p
  let fill := fun (f : FillStream) => match mine f.by_ with
    | some u =>
      { f with
        by_ := partyAt r u, mid := regionMid r (f.mid % 256), paused := false
        tok := f.tok.map (fun t => (r, t.2.1, t.2.2.1, t.2.2.2)) }
    | none => f
  let wins : FMap Window := s.wins.map (fun (w : Nat × Window) => (w.1, { w.2 with closer := party w.2.closer, fills := w.2.fills.map fill }))
  { s with wins := wins }

/- The scratchpad. -/

def scrBytes : Nat := 0x600000
def inScr (r a : Nat) : Bool := scrAddr r 0 ≤ a && a < scrAddr r 0 + scrBytes
def inRanges (rs : List (Nat × Nat)) (o : Nat) : Bool := rs.any (fun x => x.1 ≤ o && o < x.1 + x.2)

/-- Cells of the ranges of region r's scratchpad, by offset, and the poisoned words. -/
def saveCells (s : State) (r : Nat) (rs : List (Nat × Nat)) : Memory :=
  (s.mem.filter (fun c => inScr r c.1 && inRanges rs (c.1 - scrAddr r 0))).map (fun c => (c.1 - scrAddr r 0, c.2))
def savePoison (s : State) (r : Nat) (rs : List (Nat × Nat)) : List Nat :=
  (s.poison.filter (fun w => inScr r (w * 4) && inRanges rs (w * 4 - scrAddr r 0))).map (fun w => w - scrAddr r 0 / 4)

/-- Free value i from number b on. -/
def loose (b i : Nat) : Nat := (Config.freeWord (b + i)).toNat

/-- Bytes that are undefined on return, as cells from address a on. -/
def looseCells (b a n : Nat) : Memory :=
  (List.range n).filterMap (fun i =>
    let v := BitVec.ofNat 8 (loose b i)
    if v == Memory.blank then none else some (a + i, v))

/-- The scratchpad of region r takes saved cells in their ranges; every other byte is undefined (R86). -/
def restoreScratch (s : State) (b r : Nat) (sv : Saved) : State :=
  let a := scrAddr r 0
  let free := (looseCells b a scrBytes).filter (fun c => !inRanges sv.ranges (c.1 - a))
  let mem := s.mem.filter (fun c => c.1 < a) ++ free ++ s.mem.filter (fun c => a + scrBytes ≤ c.1)
  let mem := sv.cells.foldl (fun m c => writeByte m (a + c.1) c.2) mem
  let poison := sv.poi.foldl (fun p w => sinsert p (a / 4 + w)) (s.poison.filter (fun w => !inScr r (w * 4)))
  { s with mem := mem, poison := poison }

/- The save (R85, step 8; R134). -/

/-- A block core that a park drains within a block re-executes that block from its start (R131). -/
def drainedPhase (c : Core) : Phase :=
  match c.phase with
  | .running => .start c.run.spec.baddr
  | p => p

/-- What is saved of region r, the launch's region i. -/
def saveRegion (s : State) (g i r : Nat) : Saved :=
  let x := s.gang g
  let y := s.region r
  let c := s.core (r * 10)
  let parks := x.park.isSome
  let rec_ := y.live.getD { gmask := 0, ranges := [] }
  let ranges := if parks then [(0, scrBytes)] else rec_.ranges
  let kiosks := (List.range 9).map (fun j => (j, s.core (r * 10 + 1 + j)))
  let mine := fun (d : Desc) => d.by_.core / 10 == r && d.by_.core < 640
  { from_ := r, parser := y.parser, resume := y.stopped.getD .idle, ports := y.ports, leadPos := y.leadPos, engs := y.engs, crs := y.crs
    allocs := y.allocs, cmt := y.cmt, chains := if i == 0 then s.chains.filter (fun c => c.1 / 256 == g) else []
    reqs := (y.sites.filter (fun n => !n.2.reqs.isEmpty)).map (fun n => (n.1, n.2.reqs))
    g := if parks then c.g else c.g.filter (fun v => rec_.gmask.getLsbD v.1)
    ranges := ranges, cells := saveCells s r ranges, poi := savePoison s r ranges
    pids := (y.sites.filter (fun n => n.2.act.pid != 0 || n.2.sha.pid != 0)).map (fun n => (n.1, n.2.act.pid, n.2.sha.pid))
    cfg := y.cfg, cmds := y.cmds, ended := y.ended
    wq := (s.wq.map (fun (q : Nat × List Desc) => (q.1, q.2.filter mine))).filter (fun q => !q.2.isEmpty)
    whole := if parks then some y else none
    kg := if parks then kiosks.map (fun k => (k.1, k.2.g)) else []
    kph := if parks then kiosks.map (fun k => (k.1, drainedPhase k.2)) else []
    outqs := if parks then ((List.range 10).map (fun j => (j, (s.core (r * 10 + j)).outq))).filter (fun q => !q.2.isEmpty) else [] }

/- The start of a region for a gang (R81). -/

/-- A region as the launch path makes it: XROOT, tag layout, stack, idle planes, everything empty; its registers and counters stay. -/
def freshRegion (s : State) (g r : Nat) : Region :=
  let old := s.region r
  let p := gangPlan s g
  let root := (s.session (s.gang g).sid).root
  { gang := some g, resv := old.resv, xroot := BitVec.ofNat 64 (if root == 0 then 0 else root + 1), pglim := old.pglim, miss := old.miss
    skips := old.skips, latSkips := old.latSkips, layout := p.layout, lead := (p.gram.leadPt, p.gram.leadTrk)
    parser := { st := .parse, stack := [p.gram.start] }, wedge := s.cyc
    engs := old.engs.map (fun e => (e.1, { ksl := e.2.ksl }))
    crs := { old.crs with ring := none, q := [], lapReady := none, lap := false, rmes := 0, frozen := none }
    trl := { actx := old.trl.actx, runs := old.trl.runs, pzr := old.trl.pzr }
    cfg := { old.cfg with q := [] } }

/-- The INIT plane loads into the shadow plane in parallel with the launch path (R81, R310). -/
def initLoad (r : Nat) (p : Plan) : List CfgCmd :=
  match p.planes.find? (·.init) with
  | none => []
  | some x => [{ d := { words := [0x30, 0, 0, BitVec.ofNat 64 (x.pid + x.x0 * 2 ^ 16 + x.y0 * 2 ^ 21 + x.w * 2 ^ 26 + x.h * 2 ^ 32)], by_ := { core := r * 10 } } }]

/-- Every core of the region is fresh, its g-file zero but for the launch arguments in g1 to g16 of the Pergola (R13, R340). -/
def freshCores (s : State) (r : Nat) (args : List W64) : State :=
  let s := (regionCores r).foldl (fun s k => s.setCore k {}) s
  s.setCore (r * 10) { g := (List.range args.length).map (fun i => (i + 1, { val := args.getD i 0 })) }

/-- The launch path in one region (R81). -/
def launchRegion (s : State) (g r : Nat) : State :=
  let x := s.gang g
  let loads := initLoad r (gangPlan s g)
  let y := freshRegion s g r
  let s := s.setRegion r { y with cfg := { y.cfg with q := loads }, cmds := loads.length }
  freshCores s r x.launch.args

def launchPaths (s : State) (g : Nat) : State := renewEntries ((s.gang g).regions.foldl (fun s r => launchRegion s g r) s)

/- The return (R90). -/

/- Numbers of free values within a region's share: scratchpad bytes, then these. -/
def looseG : Nat := 2 ^ 23
def looseCell : Nat := 2 ^ 23 + 2 ^ 12
def loosePlane : Nat := 2 ^ 23 + 2 ^ 20
def looseSite : Nat := 2 ^ 23 + 2 ^ 21
def looseNode : Nat := 2 ^ 23 + 2 ^ 21 + 2 ^ 18
def looseCount : Nat := 2 ^ 23 + 2 ^ 22
def looseAll : Nat := 2 ^ 24

/-- A g-file with what was saved; the other registers are undefined (R86). -/
def looseFile (b k : Nat) (saved : FMap GReg) : FMap GReg :=
  (List.range 64).map (fun n => (n, (fget saved n).getD { val := BitVec.ofNat 64 (loose b (looseG + k * 64 + n)) }))

/-- A Trellis whose contexts, tables and planes are undefined (R271). -/
def looseTrl (b : Nat) (t : Trellis) : Trellis :=
  { t with
    cells := (List.range 32768).map (fun k =>
      let v := fun (i : Nat) => loose b (looseCell + k * 8 + i)
      (k, { sel := (List.range 6).map (fun i => BitVec.ofNat 16 (v i)), tab := BitVec.ofNat 64 (v 6) }))
    store := (List.range 1024).map (fun k =>
      (k, (BitVec.ofNat 128 (loose b (loosePlane + 2 * k) + loose b (loosePlane + 2 * k + 1) * 2 ^ 64),
        loose b (loosePlane + 2048 + k) % 2 == 1))) }

/-- A site whose accumulator, counts and registers are undefined. -/
def looseOf (b n : Nat) (p : PlaneRec) : Site :=
  let v := fun (i : Nat) => loose b (looseSite + n * 64 + i)
  { acc := (List.range (accResetLanes p).length).map (fun i => v i % 2 ^ 32), cnt := v 32 % 2 ^ 16, marks := v 33 % 2 ^ 40, run := v 34 % 2 ^ 16
    last := v 35 % 4, regs := [(0, v 36 % 2 ^ 32), (1, v 37 % 2 ^ 32)] }

/-- A memory node whose buffers are undefined. -/
def looseBufs (b n : Nat) : MemNode :=
  let v := fun (i : Nat) => loose b (looseNode + n * 64 + i)
  { bufs := (List.range 12).map (fun i => (i, { count := v i % 16, tag := if v (12 + i) % 2 == 0 then none else some (BitVec.ofNat 64 (v (24 + i))) })) }

/-- The snapshot registers of a region keep what the last ring left in them (R54), whatever plan comes to it. -/
def keepLatched (old c : Carousel) : Carousel :=
  { c with dups := old.dups, latRcnt := old.latRcnt, latRsum := old.latRsum, latBell := old.latBell }

/-- Routing counters are not saved (R241). -/
def looseCrs (b : Nat) (c : Carousel) : Carousel :=
  let n := (c.ring.map (·.nexp)).getD 0
  let v := fun (k : Nat) => (List.range n).map (fun i => (i, loose b (looseCount + k * 256 + i) % 2 ^ 32))
  { c with rcnt := v 0, rsum := v 1, dupsup := loose b (looseCount + 512) % 2 ^ 32 }

/-- The region of a resumed plan, but for its planes. -/
def resumedRegion (s : State) (b g r : Nat) (sv : Saved) : Region :=
  let f := freshRegion s g r
  match sv.whole with
  | some w =>
    { w with
      gang := f.gang, resv := f.resv, xroot := f.xroot, pglim := f.pglim, miss := f.miss, skips := f.skips, latSkips := f.latSkips
      withheld := homeWithheld s r w, walks := [], wcache := [], ports := homePorts r w.ports, engs := homeEngines r w.engs, crs := keepLatched f.crs (homeCrs r w.crs), trl := homeTrl r w.trl
      kiosks := w.kiosks.map (fun k => (k.1, homeKiosk s r k.2)), tlks := w.tlks.map (fun t => (t.1, homeTlk t.2))
      reps := w.reps.map (fun u => (u.1, homeReplay r u.2)), cfg := homeCfg r w.cfg
      moved := some s.cyc, wedge := s.cyc, stopped := none, live := none, closed := false, quiet := false, store := [] }
  | none =>
    { f with
      parser := sv.parser, ports := homePorts r sv.ports, leadPos := sv.leadPos, engs := homeEngines r sv.engs, crs := keepLatched f.crs (looseCrs b (homeCrs r sv.crs))
      allocs := sv.allocs, cmt := sv.cmt, cfg := homeCfg r sv.cfg, cmds := sv.cmds, ended := sv.ended
      trl := looseTrl b f.trl, nodes := (List.range 128).map (fun n => (n, looseBufs b n)) }

/-- What core j of a region has laid aside: it is translated afresh before it leaves. -/
def homeOuts (sv : Saved) (j : Nat) : List Out := (fgetD sv.outqs j []).map (fun o => { o with stale := true })

/-- The cores of a resumed region. -/
def resumedCores (s : State) (b r : Nat) (sv : Saved) : State :=
  let s := s.setCore (r * 10)
    { g := looseFile b 0 (if sv.whole.isSome then (List.range 64).map (fun n => (n, fgetD sv.g n {})) else sv.g), phase := sv.resume, outq := homeOuts sv 0 }
  (List.range 9).foldl (fun s j =>
    s.setCore (r * 10 + 1 + j)
      (if sv.whole.isSome then { g := fgetD sv.kg j [], phase := fgetD sv.kph j .idle, outq := homeOuts sv (1 + j) } else { g := looseFile b (1 + j) [] })) s

/-- Everything of region i of a launch, but for its planes. -/
def resumeRegion (s : State) (b g : Nat) (l : Launch) (i r : Nat) (sv : Saved) : State :=
  let s := s.setRegion r (resumedRegion s b g r sv)
  let s := restoreScratch (resumedCores s b r sv) b r sv
  let wq : FMap (List Desc) := sv.wq.foldl (fun m q => fset m q.1 (fgetD m q.1 [] ++ q.2.map (homeDesc r))) s.wq
  backFills { s with wq := wq } l i r

/-- The chains of the gang come back, their timers from zero (R88). -/
def resumeChains (s : State) (g : Nat) (to_ : Nat → Nat) (cs : FMap ChainSt) : State :=
  cs.foldl (fun s c =>
    let x := { c.2 with held := c.2.held.map (homeAccess s to_ g), waitFault := c.2.waitFault.map (homeAccess s to_ g) }
    { s with chains := fset s.chains (g * 256 + c.1 % 256) x }) s

/-- The record of one site is loaded again: `none` while its plane section cannot be read. -/
def reloadOne (s : State) (r n pid : Nat) : Option (State × PlaneRec) :=
  match loadRecord s r n pid with
  | .inl (s, p) => some (s, p)
  | .inr (.fault s code cause) =>
    some (raiseRegion s r .cfgload
      { code := code, mid := regionMid r 40, x := n % 32, y := n / 32, aux := BitVec.ofNat 32 cause }, { pid := pid })
  | .inr _ => none

/-- Both planes of a site are loaded again (R188); under a park the rest of the site comes back as it was. -/
def reloadSite (s : State) (b r : Nat) (sv : Saved) (n : Nat) : Option State :=
  let (pa, ps) := fgetD sv.pids n (0, 0)
  match reloadOne s r n pa with
  | none => none
  | some (s, a) =>
    match reloadOne s r n ps with
    | none => none
    | some (s, p) =>
      let x := if sv.whole.isSome then s.site r n else looseOf b n a
      some (s.setSite r n { x with act := a, sha := p, reqs := (fget sv.reqs n).getD x.reqs })

def reloadSites (s : State) (b r : Nat) (sv : Saved) : List Nat → Option State
  | [] => some s
  | n :: ns =>
    match reloadSite s b r sv n with
    | none => none
    | some s => reloadSites s b r sv ns

/-- The saved regions with their places in the gang and the regions they come to. -/
def placed (rs : List Nat) (svs : List Saved) : List (Nat × Nat × Saved) := (List.range rs.length).zip (rs.zip svs)

def reloadAll (s : State) (b : Nat) : List (Nat × Nat × Saved) → Option State
  | [] => some s
  | (i, r, sv) :: l =>
    match reloadSites s (b + i * looseAll) r sv (List.range 1024) with
    | none => none
    | some s => reloadAll s b l

/-- A pre-empted plan resumes as gang g (R90): `none` while a plane section cannot be read. -/
def resumeGang (s : State) (g : Nat) (l : Launch) (svs : List Saved) : Option State :=
  let rs := (s.gang g).regions
  let b := s.free
  let ps := placed rs svs
  let to_ := fun (r : Nat) => ((ps.find? (fun p => p.2.2.from_ == r)).map (fun p => p.2.1)).getD r
  let s := ps.foldl (fun s p => resumeRegion s (b + p.1 * looseAll) g l p.1 p.2.1 p.2.2) { s with free := b + 64 * looseAll }
  reloadAll (resumeChains (renewEntries s) g to_ (((svs.head?).map (·.chains)).getD [])) b ps

end Sys2Proof.Machine
end

