-- ==== Sys2Proof/Machine/Sched.lean ====
section
/-! DEFINITION. The dispatchers and the region allocator: offers, grants, ISO reservations, pre-emption from its request to the save, the
end of regions and plans (R74 to R81, R85, R88 to R91, R134, R200). -/

namespace Sys2Proof.Machine

/-- The first action of a grammar whose start symbol has one production that begins with an action symbol (R81). -/
def firstAction (g : Grammar) : Option W64 :=
  let c := (g.cells.getD g.start []).getD 0 0
  if nbit c 15 && nbit c 14 then
    (match (g.prods.getD (nbits c 9 0) (0, [])).2 with
     | x :: _ => if 0x400 ≤ x then some (g.acts.getD (x - 0x400) 0) else none
     | [] => none)
  else none

/-- The launch path fetches the first action block into the Pergola's buffer (R81, R199). A fetch that cannot be served at once, or that is
refused, is left to the block's start, which meets it again. -/
def fetchFirst (s : State) (r : Nat) : State :=
  match firstAction (grammarOf s r) with
  | none => s
  | some a =>
    match getBlock s (r * 10) a with
    | .ok s _ _ => s
    | .wait _ => s
    | .fault _ _ _ => s

/-- The launch path of every region of gang g, and its first action block (R81, R199). -/
def launchGang (s : State) (g : Nat) : State := (s.gang g).regions.foldl fetchFirst (launchPaths s g)

/- Offers (R76 to R79). -/

/-- The class of a queue: 0 ISO, 1 INT, 2 BAT, 3 BKG. -/
def Launch.cls (l : Launch) : Nat := l.q / 4

/-- The class a launch is offered in. -/
def Launch.offered (l : Launch) : Nat := if l.cls == 2 && l.promoted then 1 else l.cls

/-- By LID, which within a session is the FSQ order of the LAUNCH commands. -/
def byLid (x : Nat × Launch) : List (Nat × Launch) → List (Nat × Launch)
  | [] => [x]
  | y :: l => if x.2.lid.toNat < y.2.lid.toNat then x :: y :: l else y :: byLid x l

/-- The queued members of a launch's co-schedule group, with their queues; a launch without a group is its own. -/
def members (s : State) (key : Nat) (l : Launch) : List (Nat × Launch) :=
  if l.group == 0 then [(key, l)]
  else (s.queues.flatMap (fun k => (k.2.filter (fun m => m.group == l.group)).map (fun m => (k.1, m)))).foldr byLid []

/-- Nothing but members of the group stands before a member in its queue. -/
def atHead (s : State) (m : Nat × Launch) : Bool :=
  ((fgetD s.queues m.1 []).takeWhile (fun l => l.sid != m.2.sid || l.lid != m.2.lid)).all (fun l => l.group != 0 && l.group == m.2.group)

/-- The slack of an idle reservation fits a DRAIN (R80). -/
def slackFits (s : State) (g drain : Nat) : Bool :=
  match (s.gang g).iso with
  | some i => !i.running && s.ns + drain ≤ i.next
  | none => false

/-- A region's dirty lines are still to be written before it is released (R150). -/
def partingHas (s : State) (r : Nat) : Bool := s.parting.any (fun p => p.regions.contains r)

/-- A region is eligible for a launch (R77); `soon` counts regions whose gang has been asked to leave. A region of another session's idle ISO
reservation is held by no session meanwhile (R73, R80): DESIGN CHOICE, log 42. -/
def eligibleFor (s : State) (soon : Bool) (l : Launch) (r : Nat) : Bool :=
  let x := s.region r
  (match x.gang with
   | none => true
   | some g => soon && (s.gang g).pre.isSome) && (soon || !partingHas s r) &&
  (match x.resv with
   | none => true
   | some g => 2 ≤ l.cls && slackFits s g (planOf s l).drain)

/-- The regions a launch of n regions takes, from die h on (R77): `none` while there are too few. -/
def pickRegions (n h : Nat) (ok : Nat → Bool) : Option (List Nat) :=
  let die := fun (i : Nat) => ((List.range 16).map (fun j => (h + i) % 4 * 16 + j)).filter ok
  if n ≤ 16 then (((List.range 4).map die).find? (fun rs => n ≤ rs.length)).map (·.take n)
  else
    let rs := (List.range 4).flatMap die
    if n ≤ rs.length then some (rs.take n) else none

/-- Regions by ascending number (R228). -/
def ascending (rs : List Nat) : List Nat := (List.range 64).filter (fun r => rs.contains r)

/-- A launch with the regions it takes, and its queue. -/
structure Granted where
  key : Nat
  l : Launch
  regions : List Nat
  deriving DecidableEq, Repr

/-- Regions for every member, one after another, or `none`. -/
def takeAll (s : State) (soon : Bool) : List (Nat × Launch) → List Granted → Option (List Granted)
  | [], ts => some ts
  | (key, l) :: ms, ts =>
    let taken := ts.flatMap (·.regions)
    match pickRegions (planOf s l).gang (key / 16) (fun r => !taken.contains r && eligibleFor s soon l r) with
    | none => none
    | some rs => takeAll s soon ms (ts ++ [{ key := key, l := l, regions := ascending rs }])

def onDie (d : Nat) (rs : List Nat) : Nat := (rs.filter (fun r => r / 16 == d)).length

/-- Commons bandwidth that ISO reservations hold on a die, in GB/s. -/
def reserved (s : State) (d : Nat) : Nat :=
  (s.gangs.map (fun g => match g.2.iso with
    | some i => i.cbw * onDie d g.2.regions
    | none => 0)).sum

/-- The reservations asked for are admitted (R80). -/
def admitted (s : State) (ts : List Granted) : Bool :=
  let iso := ts.filter (fun t => t.l.cls == 0)
  (List.range 4).all (fun d =>
    let more := (iso.map (fun t => (planOf s t.l).cbw * onDie d t.regions)).sum
    more == 0 || reserved s d + more ≤ 94000)

/-- What the head of a queue comes to: there is none, or its group is not at the heads of its queues; it waits for regions; it waits for
bandwidth; or it can be granted. -/
inductive Offer where
  | none
  | waits
  | held
  | ok (ts : List Granted)
  deriving DecidableEq, Repr

def headOf (s : State) (key : Nat) : Option Launch := (fgetD s.queues key []).head?

def offerAt (s : State) (soon : Bool) (key : Nat) : Offer :=
  match headOf s key with
  | none => .none
  | some l =>
    let ms := members s key l
    if !ms.all (atHead s) then .none
    else
      match takeAll s soon ms [] with
      | none => .waits
      | some ts => if admitted s ts then .ok ts else .held

/-- The class a head is offered in: that of its group's highest member (R79). -/
def offerClass (s : State) (key : Nat) : Nat :=
  match headOf s key with
  | none => 4
  | some l => (members s key l).foldl (fun c m => min c m.2.offered) 3

def Offer.grantable : Offer → Bool
  | .ok _ => true
  | _ => false

/-- A head that can be granted, or that waits for regions. -/
def Offer.stands : Offer → Bool
  | .ok _ | .waits => true
  | _ => false

/-- The queues of a die in the round-robin order of a class. -/
def turnOrder (s : State) (die c : Nat) : List Nat :=
  let next := fgetD s.rrq (die * 4 + c) 0
  (List.range 16).map (fun i => die * 16 + (next + i) % 16)

/-- The head a die offers in a class: the first in turn that can be granted. -/
def dieOffer (s : State) (die c : Nat) : Option Nat :=
  (turnOrder s die c).find? (fun k => offerClass s k == c && (offerAt s false k).grantable)

/-- A head's turn has come: no head of a higher class stands, it is its die's offer in its class, and no other die's has arrived
earlier (R76, R78). -/
def turnHasCome (s : State) (key : Nat) : Bool :=
  let c := offerClass s key
  let since := fun (k : Nat) => ((headOf s k).map (·.since)).getD 0
  !(List.range 64).any (fun k => offerClass s k < c && (offerAt s false k).stands) &&
  dieOffer s (key / 16) c == some key &&
  (List.range 4).all (fun d => match dieOffer s d c with
    | some k => since key ≤ since k
    | none => true)

/-- BAT_PROMOTE (R76): a BAT head that has waited 1 ms is offered as if it were INT. -/
def stepBatPromote (die q : Nat) (s : State) : State :=
  let key := die * 16 + q
  match fgetD s.queues key [] with
  | l :: ls =>
    if l.cls != 2 || l.promoted || s.ns < l.since + 1000000 then s
    else { s with queues := fset s.queues key ({ l with promoted := true } :: ls) }
  | [] => s

/- The grant (R77, R79, R81, R90). -/

/-- The gang of a granted launch: an ISO plan's is its standing reservation, whose first activation starts with the grant; activation k starts
at T0 + k × PERIOD, T0 being the first grant, of a plan that was parked too (R80). -/
def gangOf (s : State) (t : Granted) : Gang :=
  let p := planOf s t.l
  let t0 := t.l.t0.getD s.ns
  { regions := t.regions, lid := t.l.lid, sid := t.l.sid, trap := p.trap, launch := { t.l with saved := none, lap := none }, die := t.key / 16
    started := s.ns, drain := p.drain, wdg := p.wdg, lap := t.l.lap
    iso := if t.l.cls == 0 then
        some { t0 := t0, next := t0 + (t.l.acts + 1) * p.period, period := p.period, budget := p.budget, nact := p.nact, started := t.l.acts + 1, running := true, cbw := p.cbw }
      else none }

/-- A granted launch leaves its queue and starts, or resumes: `none` while what it resumes cannot be read. -/
def grantOne (s : State) (t : Granted) : Option State :=
  let g := s.nextGang
  let x := gangOf s t
  let c := t.l.offered
  let s := { s with
    gangs := fset s.gangs g x, nextGang := g + 1
    queues := fset s.queues t.key ((fgetD s.queues t.key []).filter (fun l => l.sid != t.l.sid || l.lid != t.l.lid))
    rrq := fset s.rrq (t.key / 16 * 4 + c) (t.key % 16 + 1) }
  let s := if x.iso.isSome then t.regions.foldl (fun s r => s.modRegion r (fun y => { y with resv := some g })) s else s
  match t.l.saved with
  | none => some (launchGang s g)
  | some svs => resumeGang s g t.l svs

def grantAll (s : State) : List Granted → Option State
  | [] => some s
  | t :: ts =>
    match grantOne s t with
    | none => none
    | some s => grantAll s ts

/-- GANG_GRANT (R77 to R81, R90): a grant is whole or nothing. -/
def stepGangGrant (die q : Nat) (s : State) : State :=
  let key := die * 16 + q
  match offerAt s false key with
  | .ok ts => if turnHasCome s key then (grantAll s ts).getD s else s
  | _ => s

/- ISO reservations (R80). -/

/-- ISO_ACTIVATION: the next activation starts on its instant, its regions being idle. -/
def stepIsoActivation (gang : Nat) (s : State) : State :=
  let x := s.gang gang
  match x.iso with
  | none => s
  | some i =>
    if i.running || s.ns < i.next || !x.regions.all (fun r => (s.region r).gang.isNone && !partingHas s r) then s
    else
      let y := { x with started := s.ns, pre := none, iso := some { i with next := i.next + i.period, started := i.started + 1, running := true } }
      launchGang (s.setGang gang y) gang

/-- The last activation of a reservation has started (R80): 0 stands for no last one. -/
def lastActivation (i : Iso) : Bool := i.nact != 0 && i.nact ≤ i.started

/-- An activation is over: the reservation stands idle, or has ended. -/
def endActivation (s : State) (gang : Nat) (i : Iso) : State := if lastActivation i then endGang s gang 0 else releaseGang (dropReads s gang) gang none

/-- A record of the gang's first region's controller goes to the session's ring. -/
def gangRecord (s : State) (gang : Nat) (c : FCode) : State :=
  let r := (s.gang gang).regions.headD 0
  regionRecord s r (s.stamp r { code := c.num, mid := regionMid r 40 })

/-- BUDGET_EXPIRY: an activation still running BUDGET after its start is stopped, its END not sent. -/
def stepBudgetExpiry (gang : Nat) (s : State) : State :=
  let x := s.gang gang
  match x.iso with
  | none => s
  | some i => if !i.running || s.ns < x.started + i.budget then s else endActivation (gangRecord s gang .budget) gang i

/-- The instant of the first activation of a reservation in whose slack the gang runs. -/
def slackEnd (s : State) (gang : Nat) : Option Nat :=
  (s.gang gang).regions.foldl (fun t r =>
    match (s.region r).resv with
    | none => t
    | some h =>
      if h == gang then t
      else
        match (s.gang h).iso, t with
        | some i, some t => some (min i.next t)
        | some i, none => some i.next
        | none, t => t) none

/-- SLACK_PREEMPT_TIMER: DRAIN before the activation the gang in its slack is asked to leave. -/
def stepSlackPreemptTimer (gang : Nat) (s : State) : State :=
  let x := s.gang gang
  match slackEnd s gang with
  | none => s
  | some t => if x.pre.isSome || s.ns + x.drain < t then s else requestPre s gang

/- Pre-emption (R78, R85 to R91). -/

/-- Some ISO or INT head waits for regions, even with those of the gangs already asked to leave (R78). A BAT head does not pre-empt, promoted
or not (R76). -/
def needsRegions (s : State) : Bool :=
  (List.range 64).any (fun k => match headOf s k with
    | some l => (members s k l).any (fun m => m.2.cls ≤ 1) && offerAt s true k == .waits
    | none => false)

/-- Gang a is taken before gang b: a lower class first, then the most recently started. -/
def takenBefore (a b : Nat × Gang) : Bool :=
  b.2.launch.cls < a.2.launch.cls || (a.2.launch.cls == b.2.launch.cls && (b.2.started < a.2.started || (a.2.started == b.2.started && b.1 < a.1)))

/-- The next gang to be pre-empted. -/
def victim (s : State) : Option Nat :=
  let vs := s.gangs.filter (fun g => 2 ≤ g.2.launch.cls && g.2.pre.isNone)
  (vs.find? (fun v => vs.all (fun w => w.1 == v.1 || takenBefore v w))).map (·.1)

/-- PREEMPT_REQUEST (R78, R85, R91). -/
def stepPreemptRequest (gang : Nat) (s : State) : State := if needsRegions s && victim s == some gang then requestPre s gang else s

/-- The gang of region r has been asked to leave. -/
def leaving (s : State) (r : Nat) : Option Gang :=
  match regionGang s r with
  | some (_, x) => if x.pre.isSome then some x else none
  | none => none

/-- A running block with a withheld translation, which a park drains within the block (R131). -/
def stalledBlock (c : Core) : Bool := c.phase == .running && c.run.slots.any (·.stall) && c.outq.isEmpty

/-- The first of what core k's committed block has laid aside needs a translation that is withheld: a park saves it with its block's branch
(R134). DEDUCED, log 45. -/
def heldBack (s : State) (k : Nat) : Bool :=
  !(s.core k).outq.isEmpty &&
  (s.region (k / 10)).withheld.any (fun w => w.res == .pending && (w.key == 2 * k || w.key == unitKey (k / 10) (coreMid k % 256)))

/-- Under a park a Pergola that stands between blocks, or in a block that a withheld translation stalls, stops there (R131, R134). -/
def parkPergola (s : State) (r : Nat) : State :=
  let c := s.core (r * 10)
  let stop := fun (p : Phase) => (s.modRegion r (fun y => { y with stopped := some p })).modCore (r * 10) (fun c => { c with phase := .idle })
  if c.inTrap || (s.region r).stopped.isSome then s
  else
    match c.phase with
    | .idle => stop .idle
    | .start a => stop (.start a)
    | .running => if stalledBlock c then stop (.start c.run.spec.baddr) else s
    | .ending b => if heldBack s (r * 10) then stop (.ending b) else s
    | _ => s

/-- Box streams whose source is memory close at the element they have reached (R85, step 3). -/
def closeBoxes (which : Box → Bool) (ps : FMap PortTile) : FMap PortTile :=
  ps.map (fun p => (p.1, { p.2 with chains := p.2.chains.map (fun c => if which c.box then { c with box := { c.box with closed := true } } else c) }))

/-- Prefetches and win.fill streams of a region's cores close at their next tile boundary. -/
def pauseFills (s : State) (r : Nat) : State :=
  let mine := fun (p : Party) => match p with
    | .core k => k / 10 == r && k < 640
    | _ => false
  let wins : FMap Window := s.wins.map (fun (w : Nat × Window) =>
    (w.1, { w.2 with fills := w.2.fills.map (fun f => if mine f.by_ then { f with paused := true } else f) }))
  { s with wins := wins }

/-- STREAM_CLOSE (R85, step 3; R87, R134, R241). -/
def stepStreamClose (r : Nat) (s : State) : State :=
  match leaving s r with
  | none => s
  | some x =>
    let s := if x.park.isSome then parkPergola s r else s
    let y := s.region r
    if y.closed || y.ended || y.stopped.isNone then s
    else pauseFills (s.modRegion r (fun y => { y with closed := true, ports := closeBoxes (fun b => b.d.sm != 2) y.ports })) r

/-- Tokens at the places of a site. -/
def siteTokens (x : Site) : Nat :=
  (x.bufs.map (fun b => b.2.length)).sum + (x.q.map (fun q => q.2.length)).sum + ((x.store ++ x.issue).map (fun e => (e.slots.filterMap id).length)).sum +
    x.out.length + x.coll.length + x.s0.toList.length + x.s1.toList.length

def regionTokens (y : Region) : Nat := (y.sites.map (fun n => siteTokens n.2)).sum + (y.trl.inq.map (fun q => q.2.length)).sum

/-- Nothing that is not saved is left in a region: no token, no colour, no command or task that waits in a unit (R85, R271). -/
def regionDrained (y : Region) : Bool :=
  regionTokens y == 0 && y.colours.isEmpty && y.trl.q.isEmpty && y.trl.nexts.isEmpty && y.trl.outs.isEmpty &&
    y.trl.inq.all (fun t => t.2.isEmpty) && y.tlks.all (fun t => t.2.resume.isEmpty && t.2.retry.isEmpty) &&
    y.engs.all (fun e => e.2.q.isEmpty && e.2.nexts.isEmpty && e.2.run0.isNone && e.2.run1.isNone && e.2.out.isEmpty) &&
    y.kiosks.all (fun k => k.2.slots.isEmpty && k.2.q.isEmpty) && y.cfg.q.all (fun c => c.d.kind == 0x30)

/-- A kiosk whose block has not started, its fetch being withheld (R131, R134). -/
def stalledFetch (s : State) (k : Nat) : Bool :=
  (match (s.core k).phase with
   | .start _ => true
   | _ => false) && ((s.region (k / 10)).withheld.any (fun w => w.key == 2 * k))

/-- A core has nothing on its way: between blocks, or stalled or held back by a withheld translation under a park. -/
def coreDrained (s : State) (parks : Bool) (k : Nat) : Bool :=
  let c := s.core k
  let ends := match c.phase with
    | .ending _ => true
    | _ => false
  (c.phase == .idle || (parks && (stalledBlock c || stalledFetch s k || (ends && heldBack s k)))) &&
    (c.outq.isEmpty || (parks && heldBack s k)) && c.post.isEmpty && !c.g.any (fun g => g.2.pend) && coreQuiet s k

/-- A message of region r is on its way. A held chain entry is none (R88). -/
def regionMsg (r : Nat) (m : NetMsg) : Bool :=
  match m with
  | .tact x _ _ | .removal x _ _ _ _ | .arc x _ _ => x == r
  | .reply c _ _ _ | .fault c _ _ => c / 10 == r && c < 640
  | .counted a _ => whoIn r a.who
  | m => match onWay m with
    | some (a, _) => whoIn r a.who
    | none => false

/-- Streams of region r fill a window's tile, or wait at another station. -/
def midTile (s : State) (r : Nat) : Bool :=
  s.wins.any (fun w => w.2.fills.any (fun f => f.seq.isSome && match f.by_ with
    | .core k => k / 10 == r && k < 640
    | .carousel q => q == r
    | _ => false)) || (s.region r).ports.any (fun p => p.2.asked)

/-- The drain of region r has come to its end (R85, steps 4 to 7); a swap that waited has been performed or refused (R188). -/
def drainEnds (s : State) (x : Gang) (r : Nat) : Bool :=
  let y := s.region r
  let parks := x.park.isSome
  y.closed && !y.quiet && y.moved.isNone && noFault s r && !midTile s r &&
    x.regions.all (fun q => (s.region q).engs.all (fun e => e.2.drain == 0)) &&
    (((x.lap.map (·.trains)).getD []).isEmpty) && !s.net.any (regionMsg r) && !s.colls.any (fun c => c.2.r == r) &&
    (regionCores r).all (coreDrained s parks) && y.cfg.q.all (fun c => c.d.kind != 0x31) && (parks || regionDrained y)

/-- BELVEDERE_QUIESCENCE (R85, step 7): the region is quiet, and its receiving streams close at the element they have reached. -/
def stepBelvedereQuiescence (r : Nat) (s : State) : State :=
  match leaving s r with
  | none => s
  | some x => if drainEnds s x r then s.modRegion r (fun y => { y with quiet := true, ports := closeBoxes (fun _ => true) y.ports }) else s

/-- The plan is stopped with F_DRAINOVR, nothing saved (R80). -/
def drainOver (s : State) (gang : Nat) : State := endGang (gangRecord s gang .drainovr) gang 3

/-- The launch that a save makes of a gang: it goes back to the head of its queue, on its own. -/
def savedLaunch (s : State) (gang : Nat) : Launch :=
  let x := s.gang gang
  let svs := (List.range x.regions.length).map (fun i => saveRegion s gang i (x.regions.getD i 0))
  { x.launch with
    saved := some svs, lap := x.lap, group := 0, promoted := false, since := s.ns, die := some x.die
    acts := ((x.iso.map (·.started)).getD 1) - 1, t0 := x.iso.map (·.t0) }

/-- The regions are released: dirty lines go to their homes, fill streams and window commands wait for the return (R85, steps 8 and 9). -/
def releaseSaved (s : State) (gang : Nat) (l : Launch) : State :=
  let x := s.gang gang
  let s := (List.range x.regions.length).foldl (fun s i => parkFills s l i (x.regions.getD i 0)) s
  let s := releaseGang s gang none
  if x.iso.isSome then dropResv s gang else s

/-- The launch waits: for the host with a PARK event (R71, R134), or at the head of its queue (R78). -/
def requeue (s : State) (x : Gang) (l : Launch) : State :=
  match x.park with
  | some f =>
    let f := { f with flg := f.flg ||| 4 }
    let s := s.modSession l.sid (fun y => { y with parked := y.parked ++ [l] })
    sendEvent s l.sid 0x83 0 0 (leBytes l.lid.toNat 8 ++ f.words.flatMap (fun w => leBytes w.toNat 8))
  | none =>
    let key := x.die * 16 + l.q
    { s with queues := fset s.queues key (l :: fgetD s.queues key []) }

/-- SAVE_COMPLETE (R85, steps 8 and 9; R86, R134): every dirty line stands written first (R150). -/
def stepSaveComplete (gang : Nat) (s : State) : State :=
  let x := s.gang gang
  match x.pre with
  | none => s
  | some t =>
    let done := fun (r : Nat) => (s.region r).quiet || (s.region r).ended
    if x.regions.isEmpty || !x.regions.all done || x.regions.all (fun r => (s.region r).ended) || t + x.drain < s.ns then s
    else if x.park.isSome && x.regions.any (fun r => 4096 < regionTokens (s.region r)) then drainOver s gang
    else
      match flushWhole s x.regions with
      | (s, false) => s
      | (s, true) =>
        let l := savedLaunch s gang
        requeue (releaseSaved s gang l) x l

/-- DRAIN_TIMEOUT (R80, R91). -/
def stepDrainTimeout (gang : Nat) (s : State) : State :=
  let x := s.gang gang
  match x.pre with
  | none => s
  | some t => if x.regions.isEmpty || s.ns < t + x.drain then s else drainOver s gang

/- The end of a region and of a plan (R200). -/

def wholeGrid : Rect := { x0 := 0, y0 := 0, w := 32, h := 32 }

/-- A region may end: its parse is complete with nothing left in the mark queue, its commands are done, no task runs, and it is still and
empty. -/
def mayEnd (s : State) (r : Nat) : Bool :=
  let y := s.region r
  y.gang.isSome && !y.ended && y.stopped.isNone && y.parser.st == .done && y.parser.mq.isEmpty && y.cmds == 0 &&
    y.kiosks.all (fun k => k.2.run.isNone) && y.moved.isNone && (rectStrays s r wholeGrid).isEmpty && noFault s r &&
    (regionCores r).all (fun k => (s.core k).phase == .idle && (s.core k).outq.isEmpty && coreQuiet s k)

/-- The dirty lines that a stopped plan left stand written: its regions are released (R150). -/
def partingEnds (s : State) (p : Parting) : State :=
  if regionsWb s p.regions then s else finishParting { s with parting := s.parting.erase p } p

/-- REGION_END (R200, R68, R91): the region's dirty lines stand written first (R150). -/
def stepRegionEnd (r : Nat) (s : State) : State :=
  match regionGang s r with
  | none => ((s.parting.find? (fun p => p.regions.contains r)).map (partingEnds s)).getD s
  | some (gang, x) =>
    if !mayEnd s r then s
    else
      match flushWhole s [r] with
      | (s, false) => s
      | (s, true) =>
      let s := s.modRegion r (fun y => { y with ended := true })
      if !x.regions.all (fun q => (s.region q).ended) then s
      else
        match x.iso with
        | some i => endActivation s gang i
        | none => endGang s gang 0

end Sys2Proof.Machine
end

