-- ==== Sys2Proof/Machine/Meanings.lean ====
section
/-! DEFINITION. The meaning of every instruction, one definition for each arm of exec. Each is a guarded action of the station: it makes the
step of its row, or leaves the state as it is where the row's condition does not hold (the row waits). No meaning faults or refuses: a fault
of R96 is a state of the machine. -/

namespace Sys2Proof.Machine

/-- ACK_TIMER: stepAckTimer (Sxt). -/
def execAckTimer (chan : Nat) (s : State) : Host.Outcome State Fault Refusal := .next (stepAckTimer chan s)

/-- SXT_RETRANSMIT_TIMEOUT: stepSxtRetransmitTimeout (Sxt). -/
def execSxtRetransmitTimeout (chan : Nat) (s : State) : Host.Outcome State Fault Refusal := .next (stepSxtRetransmitTimeout chan s)

/-- REMOTE_TIMEOUT: stepRemoteTimeout (Sxt). -/
def execRemoteTimeout (k : Nat) (s : State) : Host.Outcome State Fault Refusal := .next (stepRemoteTimeout k s)

/-- LINK_RETRAIN: stepLinkRetrain (Links). -/
def execLinkRetrain (link : Nat) (s : State) : Host.Outcome State Fault Refusal := .next (stepLinkRetrain link s)

/-- LINK_RETRAIN_DONE: stepLinkRetrainDone (Links). -/
def execLinkRetrainDone (link : Nat) (ok : Bool) (s : State) : Host.Outcome State Fault Refusal := .next (stepLinkRetrainDone link ok s)

/-- OPEN_RECORD_EXPIRY: stepOpenRecordExpiry (Sessions). -/
def execOpenRecordExpiry (k : Nat) (s : State) : Host.Outcome State Fault Refusal := .next (stepOpenRecordExpiry k s)

/-- ATTEST: stepAttest (Sessions). -/
def execAttest (sid : Nat) (s : State) : Host.Outcome State Fault Refusal := .next (stepAttest sid s)

/-- MAPWIN: stepMapwin (Sessions). -/
def execMapwin (sid : Nat) (s : State) : Host.Outcome State Fault Refusal := .next (stepMapwin sid s)

/-- UNMAP: stepUnmap (Sessions). -/
def execUnmap (sid : Nat) (s : State) : Host.Outcome State Fault Refusal := .next (stepUnmap sid s)

/-- BIND: stepBindChannel (Sessions). -/
def execBindChannel (sid : Nat) (s : State) : Host.Outcome State Fault Refusal := .next (stepBindChannel sid s)

/-- LOADPLAN: stepLoadplan (LoadPlan). -/
def execLoadplan (sid : Nat) (s : State) : Host.Outcome State Fault Refusal := .next (stepLoadplan sid s)

/-- LAUNCH: stepLaunch (Sessions). -/
def execLaunch (sid : Nat) (s : State) : Host.Outcome State Fault Refusal := .next (stepLaunch sid s)

/-- CANCEL: stepCancel (Sessions). -/
def execCancel (sid : Nat) (s : State) : Host.Outcome State Fault Refusal := .next (stepCancel sid s)

/-- READSNAP: stepReadsnap (Sessions). -/
def execReadsnap (sid : Nat) (s : State) : Host.Outcome State Fault Refusal := .next (stepReadsnap sid s)

/-- READFAULT: stepReadfault (Sessions). -/
def execReadfault (sid : Nat) (s : State) : Host.Outcome State Fault Refusal := .next (stepReadfault sid s)

/-- CLOSE: stepCloseSession (Sessions). -/
def execCloseSession (sid : Nat) (s : State) : Host.Outcome State Fault Refusal := .next (stepCloseSession sid s)

/-- KEEPALIVE_TIMEOUT: stepKeepaliveTimeout (Sessions). -/
def execKeepaliveTimeout (sid : Nat) (s : State) : Host.Outcome State Fault Refusal := .next (stepKeepaliveTimeout sid s)

/-- GANG_GRANT: stepGangGrant (Sched). -/
def execGangGrant (die : Nat) (q : Nat) (s : State) : Host.Outcome State Fault Refusal := .next (stepGangGrant die q s)

/-- BAT_PROMOTE: stepBatPromote (Sched). -/
def execBatPromote (die : Nat) (q : Nat) (s : State) : Host.Outcome State Fault Refusal := .next (stepBatPromote die q s)

/-- ISO_ACTIVATION: stepIsoActivation (Sched). -/
def execIsoActivation (gang : Nat) (s : State) : Host.Outcome State Fault Refusal := .next (stepIsoActivation gang s)

/-- BUDGET_EXPIRY: stepBudgetExpiry (Sched). -/
def execBudgetExpiry (gang : Nat) (s : State) : Host.Outcome State Fault Refusal := .next (stepBudgetExpiry gang s)

/-- SLACK_PREEMPT_TIMER: stepSlackPreemptTimer (Sched). -/
def execSlackPreemptTimer (gang : Nat) (s : State) : Host.Outcome State Fault Refusal := .next (stepSlackPreemptTimer gang s)

/-- PREEMPT_REQUEST: stepPreemptRequest (Sched). -/
def execPreemptRequest (gang : Nat) (s : State) : Host.Outcome State Fault Refusal := .next (stepPreemptRequest gang s)

/-- STREAM_CLOSE: stepStreamClose (Sched). -/
def execStreamClose (r : Nat) (s : State) : Host.Outcome State Fault Refusal := .next (stepStreamClose r s)

/-- BELVEDERE_QUIESCENCE: stepBelvedereQuiescence (Sched). -/
def execBelvedereQuiescence (r : Nat) (s : State) : Host.Outcome State Fault Refusal := .next (stepBelvedereQuiescence r s)

/-- SAVE_COMPLETE: stepSaveComplete (Sched). -/
def execSaveComplete (gang : Nat) (s : State) : Host.Outcome State Fault Refusal := .next (stepSaveComplete gang s)

/-- DRAIN_TIMEOUT: stepDrainTimeout (Sched). -/
def execDrainTimeout (gang : Nat) (s : State) : Host.Outcome State Fault Refusal := .next (stepDrainTimeout gang s)

/-- REGION_END: stepRegionEnd (Sched). -/
def execRegionEnd (r : Nat) (s : State) : Host.Outcome State Fault Refusal := .next (stepRegionEnd r s)

/-- FAULT_TRAP: stepFaultTrap (Traps). -/
def execFaultTrap (r : Nat) (s : State) : Host.Outcome State Fault Refusal := .next (stepFaultTrap r s)

/-- WEDGE_TIMEOUT: stepWedgeTimeout (Traps). -/
def execWedgeTimeout (r : Nat) (s : State) : Host.Outcome State Fault Refusal := .next (stepWedgeTimeout r s)

/-- TASK_LONG_TIMEOUT: stepTaskLongTimeout (Traps). -/
def execTaskLongTimeout (r : Nat) (kiosk : Nat) (s : State) : Host.Outcome State Fault Refusal := .next (stepTaskLongTimeout r kiosk s)

/-- FILL_START: stepFillStart (Windows). -/
def execFillStart (w : Nat) (s : State) : Host.Outcome State Fault Refusal := .next (stepFillStart w s)

/-- FILL_LAST_BYTE: stepFillLastByte (Windows). -/
def execFillLastByte (w : Nat) (s : State) : Host.Outcome State Fault Refusal := .next (stepFillLastByte w s)

/-- COUNTED_READ_DELIVER: stepCountedReadDeliver (Windows). -/
def execCountedReadDeliver (k : Nat) (s : State) : Host.Outcome State Fault Refusal := .next (stepCountedReadDeliver k s)

/-- TILE_PLAIN_ACCESS: stepTilePlainAccess (Windows). -/
def execTilePlainAccess (k : Nat) (s : State) : Host.Outcome State Fault Refusal := .next (stepTilePlainAccess k s)

/-- FREED_SLOT_NOTICE: stepFreedSlotNotice (Windows). -/
def execFreedSlotNotice (k : Nat) (s : State) : Host.Outcome State Fault Refusal := .next (stepFreedSlotNotice k s)

/-- WRITEBACK_COMPLETE: stepWritebackComplete (Windows). -/
def execWritebackComplete (w : Nat) (seq : Nat) (s : State) : Host.Outcome State Fault Refusal := .next (stepWritebackComplete w seq s)

/-- WINDOW_RETIRE: stepWindowRetire (Windows). -/
def execWindowRetire (w : Nat) (s : State) : Host.Outcome State Fault Refusal := .next (stepWindowRetire w s)

/-- WINDOW_CLOSED: stepWindowClosed (Windows). -/
def execWindowClosed (w : Nat) (s : State) : Host.Outcome State Fault Refusal := .next (stepWindowClosed w s)

/-- BUFFER_WRITE: stepBufferWrite (Nodes). -/
def execBufferWrite (r : Nat) (node : Nat) (s : State) : Host.Outcome State Fault Refusal := .next (stepBufferWrite r node s)

/-- BUFFER_READ: stepBufferRead (Engines). -/
def execBufferRead (r : Nat) (j : Nat) (s : State) : Host.Outcome State Fault Refusal := .next (stepBufferRead r j s)

/-- PREFETCH_DONE: stepPrefetchDone (Windows). -/
def execPrefetchDone (w : Nat) (s : State) : Host.Outcome State Fault Refusal := .next (stepPrefetchDone w s)

/-- PRESENCE_WRITE: stepPresenceWrite (Homes). -/
def execPresenceWrite (k : Nat) (s : State) : Host.Outcome State Fault Refusal := .next (stepPresenceWrite k s)

/-- PRESENCE_READ: stepPresenceRead (Homes). -/
def execPresenceRead (k : Nat) (s : State) : Host.Outcome State Fault Refusal := .next (stepPresenceRead k s)

/-- PRESENCE_DEFERRAL_END: stepPresenceDeferralEnd (Homes). -/
def execPresenceDeferralEnd (k : Nat) (s : State) : Host.Outcome State Fault Refusal := .next (stepPresenceDeferralEnd k s)

/-- RELEASE_AT_HOME: stepReleaseAtHome (Homes). -/
def execReleaseAtHome (k : Nat) (s : State) : Host.Outcome State Fault Refusal := .next (stepReleaseAtHome k s)

/-- ACQUIRE_AT_HOME: stepAcquireAtHome (Homes). -/
def execAcquireAtHome (k : Nat) (s : State) : Host.Outcome State Fault Refusal := .next (stepAcquireAtHome k s)

/-- LINE_REQUEST: stepLineRequest (Homes). -/
def execLineRequest (k : Nat) (s : State) : Host.Outcome State Fault Refusal := .next (stepLineRequest k s)

/-- ATOMIC_AT_HOME: stepAtomicAtHome (Homes). -/
def execAtomicAtHome (k : Nat) (s : State) : Host.Outcome State Fault Refusal := .next (stepAtomicAtHome k s)

/-- CHAIN_ARRIVAL: stepChainArrival (Homes). -/
def execChainArrival (k : Nat) (s : State) : Host.Outcome State Fault Refusal := .next (stepChainArrival k s)

/-- CHAIN_PERFORMED: stepChainPerformed (Homes). -/
def execChainPerformed (k : Nat) (s : State) : Host.Outcome State Fault Refusal := .next (stepChainPerformed k s)

/-- GAP_TIMEOUT: stepGapTimeout (Homes). -/
def execGapTimeout (chain : Nat) (s : State) : Host.Outcome State Fault Refusal := .next (stepGapTimeout chain s)

/-- TLK_TRANSLATE: stepTlkTranslate (Walker). -/
def execTlkTranslate (r : Nat) (t : Nat) (s : State) : Host.Outcome State Fault Refusal := .next (stepTlkTranslate r t s)

/-- WALK_COMPLETE: stepWalkComplete (Walker). -/
def execWalkComplete (r : Nat) (k : Nat) (s : State) : Host.Outcome State Fault Refusal := .next (stepWalkComplete r k s)

/-- WALKER_RETRY: stepWalkerRetry (Walker). -/
def execWalkerRetry (r : Nat) (k : Nat) (s : State) : Host.Outcome State Fault Refusal := .next (stepWalkerRetry r k s)

/-- PGLIM_TIMEOUT: stepPglimTimeout (Walker). -/
def execPglimTimeout (r : Nat) (s : State) : Host.Outcome State Fault Refusal := .next (stepPglimTimeout r s)

/-- KV_RETRY: stepKvRetry (Walker). -/
def execKvRetry (r : Nat) (t : Nat) (s : State) : Host.Outcome State Fault Refusal := .next (stepKvRetry r t s)

/-- INVALIDATION_START: stepInvalidationStart (Walker). -/
def execInvalidationStart (k : Nat) (s : State) : Host.Outcome State Fault Refusal := .next (stepInvalidationStart k s)

/-- INVALIDATION_COMPLETE: stepInvalidationComplete (Walker). -/
def execInvalidationComplete (k : Nat) (s : State) : Host.Outcome State Fault Refusal := .next (stepInvalidationComplete k s)

/-- TOKEN_HOP: stepTokenHop (Fabric). -/
def execTokenHop (r : Nat) (site : Nat) (trk : Nat) (s : State) : Host.Outcome State Fault Refusal := .next (stepTokenHop r site trk s)

/-- ELEMENT_FIRE_ORDERED: stepElementFireOrdered (Elements). -/
def execElementFireOrdered (r : Nat) (site : Nat) (s : State) : Host.Outcome State Fault Refusal := .next (stepElementFireOrdered r site s)

/-- MATCHED_STORE_TAKE: stepMatchedStoreTake (Elements). -/
def execMatchedStoreTake (r : Nat) (site : Nat) (s : State) : Host.Outcome State Fault Refusal := .next (stepMatchedStoreTake r site s)

/-- MATCHED_ISSUE: stepMatchedIssue (Elements). -/
def execMatchedIssue (r : Nat) (site : Nat) (s : State) : Host.Outcome State Fault Refusal := .next (stepMatchedIssue r site s)

/-- ARC_COMPLETION: stepArcCompletion (MemPorts). -/
def execArcCompletion (k : Nat) (s : State) : Host.Outcome State Fault Refusal := .next (stepArcCompletion k s)

/-- SPAWN_CALL: stepSpawnCall (Tiles). -/
def execSpawnCall (r : Nat) (site : Nat) (s : State) : Host.Outcome State Fault Refusal := .next (stepSpawnCall r site s)

/-- SPAWN_RETURN: stepSpawnReturn (Tiles). -/
def execSpawnReturn (r : Nat) (site : Nat) (s : State) : Host.Outcome State Fault Refusal := .next (stepSpawnReturn r site s)

/-- COMMIT_RETIRE: stepCommitRetire (Tiles). -/
def execCommitRetire (r : Nat) (site : Nat) (s : State) : Host.Outcome State Fault Refusal := .next (stepCommitRetire r site s)

/-- MST_ORDERED_RELEASE: stepMstOrderedRelease (Tiles). -/
def execMstOrderedRelease (r : Nat) (site : Nat) (s : State) : Host.Outcome State Fault Refusal := .next (stepMstOrderedRelease r site s)

/-- RSV_PAIR: stepRsvPair (Tiles). -/
def execRsvPair (r : Nat) (site : Nat) (s : State) : Host.Outcome State Fault Refusal := .next (stepRsvPair r site s)

/-- RSV_MARK: stepRsvMark (Tiles). -/
def execRsvMark (r : Nat) (site : Nat) (s : State) : Host.Outcome State Fault Refusal := .next (stepRsvMark r site s)

/-- XPS_T2P: stepXpsT2p (Tiles). -/
def execXpsT2p (r : Nat) (site : Nat) (s : State) : Host.Outcome State Fault Refusal := .next (stepXpsT2p r site s)

/-- XPS_P2T: stepXpsP2t (Tiles). -/
def execXpsP2t (r : Nat) (site : Nat) (s : State) : Host.Outcome State Fault Refusal := .next (stepXpsP2t r site s)

/-- BELVEDERE_STILL: stepBelvedereStill (Planes). -/
def execBelvedereStill (r : Nat) (s : State) : Host.Outcome State Fault Refusal := .next (stepBelvedereStill r s)

/-- SWAP_PERFORM: stepSwapPerform (Planes). -/
def execSwapPerform (r : Nat) (s : State) : Host.Outcome State Fault Refusal := .next (stepSwapPerform r s)

/-- BARRIER_ARRIVE: stepBarrierArrive (Planes). -/
def execBarrierArrive (r : Nat) (s : State) : Host.Outcome State Fault Refusal := .next (stepBarrierArrive r s)

/-- BARRIER_COMPLETE: stepBarrierComplete (Planes). -/
def execBarrierComplete (gang : Nat) (s : State) : Host.Outcome State Fault Refusal := .next (stepBarrierComplete gang s)

/-- MARK_ENQUEUE: stepMarkEnqueue (Pergola). -/
def execMarkEnqueue (r : Nat) (s : State) : Host.Outcome State Fault Refusal := .next (stepMarkEnqueue r s)

/-- PARSE_STEP: stepParseStep (Pergola). -/
def execParseStep (r : Nat) (s : State) : Host.Outcome State Fault Refusal := .next (stepParseStep r s)

/-- MISMATCH_DISCARD: stepMismatchDiscard (Pergola). -/
def execMismatchDiscard (r : Nat) (s : State) : Host.Outcome State Fault Refusal := .next (stepMismatchDiscard r s)

/-- RECOVERY_RESET: stepRecoveryReset (Pergola). -/
def execRecoveryReset (r : Nat) (s : State) : Host.Outcome State Fault Refusal := .next (stepRecoveryReset r s)

/-- DONE_TERMINAL: stepDoneTerminal (Pergola). -/
def execDoneTerminal (r : Nat) (s : State) : Host.Outcome State Fault Refusal := .next (stepDoneTerminal r s)

/-- ACTION_ENTRY_ARRIVE: stepActionEntryArrive (Elements). -/
def execActionEntryArrive (k : Nat) (s : State) : Host.Outcome State Fault Refusal := .next (stepActionEntryArrive k s)

/-- MARK_SYNC_APPLY: stepMarkSyncApply (Elements). -/
def execMarkSyncApply (r : Nat) (site : Nat) (s : State) : Host.Outcome State Fault Refusal := .next (stepMarkSyncApply r site s)

/-- SETTLED_RAISE: stepSettledRaise (Pergola). -/
def execSettledRaise (r : Nat) (s : State) : Host.Outcome State Fault Refusal := .next (stepSettledRaise r s)

/-- BLOCK_START: stepBlockStart (Blocks). -/
def execBlockStart (core : CoreId) (s : State) : Host.Outcome State Fault Refusal := .next (stepBlockStart core s)

/-- BLOCK_COMMIT: stepBlockCommit (Blocks). -/
def execBlockCommit (core : CoreId) (s : State) : Host.Outcome State Fault Refusal := .next (stepBlockCommit core s)

/-- AFTER_COMMIT_REPLY: stepAfterCommitReply (Blocks). -/
def execAfterCommitReply (k : Nat) (s : State) : Host.Outcome State Fault Refusal := .next (stepAfterCommitReply k s)

/-- POST_COMMIT_FAULT: stepPostCommitFault (Traps). -/
def execPostCommitFault (k : Nat) (s : State) : Host.Outcome State Fault Refusal := .next (stepPostCommitFault k s)

/-- TASK_READY_START: stepTaskReadyStart (Nodes). -/
def execTaskReadyStart (r : Nat) (kiosk : Nat) (s : State) : Host.Outcome State Fault Refusal := .next (stepTaskReadyStart r kiosk s)

/-- ME_OP_COMPLETE: stepMeOpComplete (Engines). -/
def execMeOpComplete (r : Nat) (j : Nat) (s : State) : Host.Outcome State Fault Refusal := .next (stepMeOpComplete r j s)

/-- ROUTE_DELIVERY: stepRouteDelivery (Engines). -/
def execRouteDelivery (r : Nat) (pt : Nat) (s : State) : Host.Outcome State Fault Refusal := .next (stepRouteDelivery r pt s)

/-- ROW_DELIVERY: stepRowDelivery (Engines). -/
def execRowDelivery (r : Nat) (pt : Nat) (s : State) : Host.Outcome State Fault Refusal := .next (stepRowDelivery r pt s)

/-- LAP_START: stepLapStart (Carousel). -/
def execLapStart (gang : Nat) (s : State) : Host.Outcome State Fault Refusal := .next (stepLapStart gang s)

/-- TRAIN_AT_ENGINE: stepTrainAtEngine (Carousel). -/
def execTrainAtEngine (r : Nat) (j : Nat) (s : State) : Host.Outcome State Fault Refusal := .next (stepTrainAtEngine r j s)

/-- SLOT_COMPLETE: stepSlotComplete (Engines). -/
def execSlotComplete (r : Nat) (j : Nat) (s : State) : Host.Outcome State Fault Refusal := .next (stepSlotComplete r j s)

/-- LAP_COMPLETE: stepLapComplete (Carousel). -/
def execLapComplete (gang : Nat) (s : State) : Host.Outcome State Fault Refusal := .next (stepLapComplete gang s)

/-- TRELLIS_RUN_ENTER: stepTrellisRunEnter (Trellis). -/
def execTrellisRunEnter (r : Nat) (s : State) : Host.Outcome State Fault Refusal := .next (stepTrellisRunEnter r s)

/-- REPLAY_REMOVAL: stepReplayRemoval (Replay). -/
def execReplayRemoval (k : Nat) (s : State) : Host.Outcome State Fault Refusal := .next (stepReplayRemoval k s)

/-- COLL_DEADLINE: stepCollDeadline (Collectives). -/
def execCollDeadline (die : Nat) (k : Nat) (s : State) : Host.Outcome State Fault Refusal := .next (stepCollDeadline die k s)

/-- COLL_RESULT: stepCollResult (Collectives). -/
def execCollResult (die : Nat) (k : Nat) (s : State) : Host.Outcome State Fault Refusal := .next (stepCollResult die k s)

/-- ELEMENT_ARITH: stepElementArith (Elements). -/
def execElementArith (r : Nat) (site : Nat) (s : State) : Host.Outcome State Fault Refusal := .next (stepElementArith r site s)

/-- ELEMENT_FMA_SCL: stepElementFmaScl (Elements). -/
def execElementFmaScl (r : Nat) (site : Nat) (s : State) : Host.Outcome State Fault Refusal := .next (stepElementFmaScl r site s)

/-- ELEMENT_COMPARE_SELECT: stepElementCompareSelect (Elements). -/
def execElementCompareSelect (r : Nat) (site : Nat) (s : State) : Host.Outcome State Fault Refusal := .next (stepElementCompareSelect r site s)

/-- ELEMENT_CONVERT: stepElementConvert (Elements). -/
def execElementConvert (r : Nat) (site : Nat) (s : State) : Host.Outcome State Fault Refusal := .next (stepElementConvert r site s)

/-- ELEMENT_UNPK: stepElementUnpk (Elements). -/
def execElementUnpk (r : Nat) (site : Nat) (s : State) : Host.Outcome State Fault Refusal := .next (stepElementUnpk r site s)

/-- ELEMENT_PACK: stepElementPack (Elements). -/
def execElementPack (r : Nat) (site : Nat) (s : State) : Host.Outcome State Fault Refusal := .next (stepElementPack r site s)

/-- ELEMENT_ACCUMULATE: stepElementAccumulate (Elements). -/
def execElementAccumulate (r : Nat) (site : Nat) (s : State) : Host.Outcome State Fault Refusal := .next (stepElementAccumulate r site s)

/-- ELEMENT_MRG: stepElementMrg (Elements). -/
def execElementMrg (r : Nat) (site : Nat) (s : State) : Host.Outcome State Fault Refusal := .next (stepElementMrg r site s)

/-- ELEMENT_STEER_GATE: stepElementSteerGate (Elements). -/
def execElementSteerGate (r : Nat) (site : Nat) (s : State) : Host.Outcome State Fault Refusal := .next (stepElementSteerGate r site s)

/-- ELEMENT_RPT: stepElementRpt (Elements). -/
def execElementRpt (r : Nat) (site : Nat) (s : State) : Host.Outcome State Fault Refusal := .next (stepElementRpt r site s)

/-- ELEMENT_TAG: stepElementTag (Elements). -/
def execElementTag (r : Nat) (site : Nat) (s : State) : Host.Outcome State Fault Refusal := .next (stepElementTag r site s)

/-- ELEMENT_MKGEN: stepElementMkgen (Elements). -/
def execElementMkgen (r : Nat) (site : Nat) (s : State) : Host.Outcome State Fault Refusal := .next (stepElementMkgen r site s)

/-- ELEMENT_CFW: stepElementCfw (Elements). -/
def execElementCfw (r : Nat) (site : Nat) (s : State) : Host.Outcome State Fault Refusal := .next (stepElementCfw r site s)

/-- ELEMENT_MRD_MWR: stepElementMrdMwr (MemPorts). -/
def execElementMrdMwr (r : Nat) (site : Nat) (s : State) : Host.Outcome State Fault Refusal := .next (stepElementMrdMwr r site s)

/-- ELEMENT_MRDK: stepElementMrdk (MemPorts). -/
def execElementMrdk (r : Nat) (site : Nat) (s : State) : Host.Outcome State Fault Refusal := .next (stepElementMrdk r site s)

/-- ELEMENT_MRDC_MWRC: stepElementMrdcMwrc (MemPorts). -/
def execElementMrdcMwrc (r : Nat) (site : Nat) (s : State) : Host.Outcome State Fault Refusal := .next (stepElementMrdcMwrc r site s)

/-- ELEMENT_MFEN: stepElementMfen (MemPorts). -/
def execElementMfen (r : Nat) (site : Nat) (s : State) : Host.Outcome State Fault Refusal := .next (stepElementMfen r site s)

/-- MEMORY_PORT_RESPONSE: stepMemoryPortResponse (MemPorts). -/
def execMemoryPortResponse (r : Nat) (site : Nat) (s : State) : Host.Outcome State Fault Refusal := .next (stepMemoryPortResponse r site s)

/-- BOX_CP: stepBoxCp (Boxes). -/
def execBoxCp (r : Nat) (pt : Nat) (s : State) : Host.Outcome State Fault Refusal := .next (stepBoxCp r pt s)

/-- BOX_GATH: stepBoxGath (Boxes). -/
def execBoxGath (r : Nat) (pt : Nat) (s : State) : Host.Outcome State Fault Refusal := .next (stepBoxGath r pt s)

/-- BOX_SCAT: stepBoxScat (Boxes). -/
def execBoxScat (r : Nat) (pt : Nat) (s : State) : Host.Outcome State Fault Refusal := .next (stepBoxScat r pt s)

/-- BOX_GL: stepBoxGl (Boxes). -/
def execBoxGl (r : Nat) (pt : Nat) (s : State) : Host.Outcome State Fault Refusal := .next (stepBoxGl r pt s)

/-- BOX_ELEMENT_FAULT: stepBoxElementFault (Boxes). -/
def execBoxElementFault (r : Nat) (pt : Nat) (s : State) : Host.Outcome State Fault Refusal := .next (stepBoxElementFault r pt s)

/-- BOX_COMPLETE: stepBoxComplete (Boxes). -/
def execBoxComplete (r : Nat) (pt : Nat) (s : State) : Host.Outcome State Fault Refusal := .next (stepBoxComplete r pt s)

/-- WIN_OPEN: stepWinOpen (Windows). -/
def execWinOpen (w : Nat) (s : State) : Host.Outcome State Fault Refusal := .next (stepWinOpen w s)

/-- WIN_FILL: stepWinFill (Windows). -/
def execWinFill (w : Nat) (s : State) : Host.Outcome State Fault Refusal := .next (stepWinFill w s)

/-- WIN_CLOSE: stepWinClose (Windows). -/
def execWinClose (w : Nat) (s : State) : Host.Outcome State Fault Refusal := .next (stepWinClose w s)

/-- ME_OP: stepMeOp (Engines). -/
def execMeOp (r : Nat) (j : Nat) (s : State) : Host.Outcome State Fault Refusal := .next (stepMeOp r j s)

/-- ME_RD: stepMeRd (Engines). -/
def execMeRd (r : Nat) (j : Nat) (s : State) : Host.Outcome State Fault Refusal := .next (stepMeRd r j s)

/-- TASK_ARM: stepTaskArm (Nodes). -/
def execTaskArm (r : Nat) (kiosk : Nat) (s : State) : Host.Outcome State Fault Refusal := .next (stepTaskArm r kiosk s)

/-- CRS_RING: stepCrsRing (Carousel). -/
def execCrsRing (r : Nat) (s : State) : Host.Outcome State Fault Refusal := .next (stepCrsRing r s)

/-- CRS_RUN: stepCrsRun (Carousel). -/
def execCrsRun (r : Nat) (s : State) : Host.Outcome State Fault Refusal := .next (stepCrsRun r s)

/-- TRL_CTX: stepTrlCtx (Trellis). -/
def execTrlCtx (r : Nat) (s : State) : Host.Outcome State Fault Refusal := .next (stepTrlCtx r s)

/-- TRL_TAB: stepTrlTab (Trellis). -/
def execTrlTab (r : Nat) (s : State) : Host.Outcome State Fault Refusal := .next (stepTrlTab r s)

/-- TRL_RUN: stepTrlRun (Trellis). -/
def execTrlRun (r : Nat) (s : State) : Host.Outcome State Fault Refusal := .next (stepTrlRun r s)

/-- TRN_SET: stepTrnSet (Replay). -/
def execTrnSet (r : Nat) (u : Nat) (s : State) : Host.Outcome State Fault Refusal := .next (stepTrnSet r u s)

/-- CFG_LOAD: stepCfgLoad (Planes). -/
def execCfgLoad (r : Nat) (s : State) : Host.Outcome State Fault Refusal := .next (stepCfgLoad r s)

/-- CFG_SWAP: stepCfgSwap (Planes). -/
def execCfgSwap (r : Nat) (s : State) : Host.Outcome State Fault Refusal := .next (stepCfgSwap r s)

/-- BAR: stepBar (Planes). -/
def execBar (r : Nat) (s : State) : Host.Outcome State Fault Refusal := .next (stepBar r s)

/-- COLL_SUM: stepCollSum (Collectives). -/
def execCollSum (die : Nat) (k : Nat) (s : State) : Host.Outcome State Fault Refusal := .next (stepCollSum die k s)

/-- COLL_MAX: stepCollMax (Collectives). -/
def execCollMax (die : Nat) (k : Nat) (s : State) : Host.Outcome State Fault Refusal := .next (stepCollMax die k s)

/-- COLL_GATH: stepCollGath (Collectives). -/
def execCollGath (die : Nat) (k : Nat) (s : State) : Host.Outcome State Fault Refusal := .next (stepCollGath die k s)

/-- COLL_BCAST: stepCollBcast (Collectives). -/
def execCollBcast (die : Nat) (k : Nat) (s : State) : Host.Outcome State Fault Refusal := .next (stepCollBcast die k s)

/-- COLL_RSV: stepCollRsv (Collectives). -/
def execCollRsv (die : Nat) (k : Nat) (s : State) : Host.Outcome State Fault Refusal := .next (stepCollRsv die k s)

/-- ADD: stepAdd (Alu). -/
def execAdd (t : Ty) (d : Dst) (a : Src) (b : Src) (p : Option Pred) (s : State) : Host.Outcome State Fault Refusal := .next (stepAdd t d a b p s)

/-- SUB: stepSub (Alu). -/
def execSub (t : Ty) (d : Dst) (a : Src) (b : Src) (p : Option Pred) (s : State) : Host.Outcome State Fault Refusal := .next (stepSub t d a b p s)

/-- MUL: stepMul (Alu). -/
def execMul (t : Ty) (d : Dst) (a : Src) (b : Src) (p : Option Pred) (s : State) : Host.Outcome State Fault Refusal := .next (stepMul t d a b p s)

/-- MULH: stepMulh (Alu). -/
def execMulh (t : Ty) (d : Dst) (a : Src) (b : Src) (p : Option Pred) (s : State) : Host.Outcome State Fault Refusal := .next (stepMulh t d a b p s)

/-- DIV: stepDiv (Alu). -/
def execDiv (t : Ty) (d : Dst) (a : Src) (b : Src) (p : Option Pred) (s : State) : Host.Outcome State Fault Refusal := .next (stepDiv t d a b p s)

/-- REM: stepRem (Alu). -/
def execRem (t : Ty) (d : Dst) (a : Src) (b : Src) (p : Option Pred) (s : State) : Host.Outcome State Fault Refusal := .next (stepRem t d a b p s)

/-- MIN: stepMin (Alu). -/
def execMin (t : Ty) (d : Dst) (a : Src) (b : Src) (p : Option Pred) (s : State) : Host.Outcome State Fault Refusal := .next (stepMin t d a b p s)

/-- MAX: stepMax (Alu). -/
def execMax (t : Ty) (d : Dst) (a : Src) (b : Src) (p : Option Pred) (s : State) : Host.Outcome State Fault Refusal := .next (stepMax t d a b p s)

/-- ADDS: stepAdds (Alu). -/
def execAdds (t : Ty) (d : Dst) (a : Src) (b : Src) (p : Option Pred) (s : State) : Host.Outcome State Fault Refusal := .next (stepAdds t d a b p s)

/-- SUBS: stepSubs (Alu). -/
def execSubs (t : Ty) (d : Dst) (a : Src) (b : Src) (p : Option Pred) (s : State) : Host.Outcome State Fault Refusal := .next (stepSubs t d a b p s)

/-- ABS: stepAbs (Alu). -/
def execAbs (t : Ty) (d : Dst) (a : Src) (p : Option Pred) (s : State) : Host.Outcome State Fault Refusal := .next (stepAbs t d a p s)

/-- NEG: stepNeg (Alu). -/
def execNeg (t : Ty) (d : Dst) (a : Src) (p : Option Pred) (s : State) : Host.Outcome State Fault Refusal := .next (stepNeg t d a p s)

/-- AND: stepAnd (Alu). -/
def execAnd (t : Ty) (d : Dst) (a : Src) (b : Src) (p : Option Pred) (s : State) : Host.Outcome State Fault Refusal := .next (stepAnd t d a b p s)

/-- OR: stepOr (Alu). -/
def execOr (t : Ty) (d : Dst) (a : Src) (b : Src) (p : Option Pred) (s : State) : Host.Outcome State Fault Refusal := .next (stepOr t d a b p s)

/-- XOR: stepXor (Alu). -/
def execXor (t : Ty) (d : Dst) (a : Src) (b : Src) (p : Option Pred) (s : State) : Host.Outcome State Fault Refusal := .next (stepXor t d a b p s)

/-- NOT: stepNotb (Alu). -/
def execNotb (t : Ty) (d : Dst) (a : Src) (p : Option Pred) (s : State) : Host.Outcome State Fault Refusal := .next (stepNotb t d a p s)

/-- SHL: stepShl (Alu). -/
def execShl (t : Ty) (d : Dst) (a : Src) (b : Src) (p : Option Pred) (s : State) : Host.Outcome State Fault Refusal := .next (stepShl t d a b p s)

/-- SHR: stepShr (Alu). -/
def execShr (t : Ty) (d : Dst) (a : Src) (b : Src) (p : Option Pred) (s : State) : Host.Outcome State Fault Refusal := .next (stepShr t d a b p s)

/-- ROTL: stepRotl (Alu). -/
def execRotl (t : Ty) (d : Dst) (a : Src) (b : Src) (p : Option Pred) (s : State) : Host.Outcome State Fault Refusal := .next (stepRotl t d a b p s)

/-- CLZ: stepClz (Alu). -/
def execClz (t : Ty) (d : Dst) (a : Src) (p : Option Pred) (s : State) : Host.Outcome State Fault Refusal := .next (stepClz t d a p s)

/-- POPC: stepPopc (Alu). -/
def execPopc (t : Ty) (d : Dst) (a : Src) (p : Option Pred) (s : State) : Host.Outcome State Fault Refusal := .next (stepPopc t d a p s)

/-- BEXT: stepBext (Alu). -/
def execBext (t : Ty) (d : Dst) (a : Src) (b : Src) (c : Src) (p : Option Pred) (s : State) : Host.Outcome State Fault Refusal := .next (stepBext t d a b c p s)

/-- BINS: stepBins (Alu). -/
def execBins (t : Ty) (d : Dst) (a : Src) (b : Src) (c : Src) (p : Option Pred) (s : State) : Host.Outcome State Fault Refusal := .next (stepBins t d a b c p s)

/-- CMPEQ: stepCmpeq (Alu). -/
def execCmpeq (t : Ty) (d : Dst) (a : Src) (b : Src) (p : Option Pred) (s : State) : Host.Outcome State Fault Refusal := .next (stepCmpeq t d a b p s)

/-- CMPNE: stepCmpne (Alu). -/
def execCmpne (t : Ty) (d : Dst) (a : Src) (b : Src) (p : Option Pred) (s : State) : Host.Outcome State Fault Refusal := .next (stepCmpne t d a b p s)

/-- CMPLT: stepCmplt (Alu). -/
def execCmplt (t : Ty) (d : Dst) (a : Src) (b : Src) (p : Option Pred) (s : State) : Host.Outcome State Fault Refusal := .next (stepCmplt t d a b p s)

/-- CMPLE: stepCmple (Alu). -/
def execCmple (t : Ty) (d : Dst) (a : Src) (b : Src) (p : Option Pred) (s : State) : Host.Outcome State Fault Refusal := .next (stepCmple t d a b p s)

/-- SEL: stepSel (Alu). -/
def execSel (t : Ty) (d : Dst) (a : Src) (b : Src) (c : Src) (p : Option Pred) (s : State) : Host.Outcome State Fault Refusal := .next (stepSel t d a b c p s)

/-- LDI_I64: stepLdiI64 (Alu). -/
def execLdiI64 (d : Dst) (imm : BitVec 32) (s : State) : Host.Outcome State Fault Refusal := .next (stepLdiI64 d imm s)

/-- LDI_N64: stepLdiN64 (Alu). -/
def execLdiN64 (d : Dst) (imm : BitVec 32) (s : State) : Host.Outcome State Fault Refusal := .next (stepLdiN64 d imm s)

/-- LDHI_N64: stepLdhiN64 (Alu). -/
def execLdhiN64 (d : Dst) (imm : BitVec 32) (s : State) : Host.Outcome State Fault Refusal := .next (stepLdhiN64 d imm s)

/-- ADDI: stepAddi (Alu). -/
def execAddi (t : Ty) (d : Dst) (a : Src) (imm : BitVec 16) (p : Option Pred) (s : State) : Host.Outcome State Fault Refusal := .next (stepAddi t d a imm p s)

/-- LEA: stepLea (Alu). -/
def execLea (d : Dst) (a : Src) (b : Src) (sc : BitVec 3) (p : Option Pred) (s : State) : Host.Outcome State Fault Refusal := .next (stepLea d a b sc p s)

/-- FADD: stepFadd (Float). -/
def execFadd (d : Dst) (a : Src) (b : Src) (p : Option Pred) (s : State) : Host.Outcome State Fault Refusal := .next (stepFadd d a b p s)

/-- FSUB: stepFsub (Float). -/
def execFsub (d : Dst) (a : Src) (b : Src) (p : Option Pred) (s : State) : Host.Outcome State Fault Refusal := .next (stepFsub d a b p s)

/-- FMUL: stepFmul (Float). -/
def execFmul (d : Dst) (a : Src) (b : Src) (p : Option Pred) (s : State) : Host.Outcome State Fault Refusal := .next (stepFmul d a b p s)

/-- FMA: stepFma (Float). -/
def execFma (d : Dst) (a : Src) (b : Src) (c : Src) (p : Option Pred) (s : State) : Host.Outcome State Fault Refusal := .next (stepFma d a b c p s)

/-- FMIN: stepFmin (Float). -/
def execFmin (d : Dst) (a : Src) (b : Src) (p : Option Pred) (s : State) : Host.Outcome State Fault Refusal := .next (stepFmin d a b p s)

/-- FMAX: stepFmax (Float). -/
def execFmax (d : Dst) (a : Src) (b : Src) (p : Option Pred) (s : State) : Host.Outcome State Fault Refusal := .next (stepFmax d a b p s)

/-- FABS: stepFabs (Float). -/
def execFabs (d : Dst) (a : Src) (p : Option Pred) (s : State) : Host.Outcome State Fault Refusal := .next (stepFabs d a p s)

/-- FNEG: stepFneg (Float). -/
def execFneg (d : Dst) (a : Src) (p : Option Pred) (s : State) : Host.Outcome State Fault Refusal := .next (stepFneg d a p s)

/-- FCMPEQ: stepFcmpeq (Float). -/
def execFcmpeq (d : Dst) (a : Src) (b : Src) (p : Option Pred) (s : State) : Host.Outcome State Fault Refusal := .next (stepFcmpeq d a b p s)

/-- FCMPLT: stepFcmplt (Float). -/
def execFcmplt (d : Dst) (a : Src) (b : Src) (p : Option Pred) (s : State) : Host.Outcome State Fault Refusal := .next (stepFcmplt d a b p s)

/-- FCMPLE: stepFcmple (Float). -/
def execFcmple (d : Dst) (a : Src) (b : Src) (p : Option Pred) (s : State) : Host.Outcome State Fault Refusal := .next (stepFcmple d a b p s)

/-- FRSQS: stepFrsqs (Float). -/
def execFrsqs (d : Dst) (a : Src) (p : Option Pred) (s : State) : Host.Outcome State Fault Refusal := .next (stepFrsqs d a p s)

/-- FRCPS: stepFrcps (Float). -/
def execFrcps (d : Dst) (a : Src) (p : Option Pred) (s : State) : Host.Outcome State Fault Refusal := .next (stepFrcps d a p s)

/-- CVTI: stepCvti (Float). -/
def execCvti (t : Ty) (d : Dst) (a : Src) (p : Option Pred) (s : State) : Host.Outcome State Fault Refusal := .next (stepCvti t d a p s)

/-- CVTN: stepCvtn (Float). -/
def execCvtn (t : Ty) (d : Dst) (a : Src) (p : Option Pred) (s : State) : Host.Outcome State Fault Refusal := .next (stepCvtn t d a p s)

/-- CVTT: stepCvtt (Float). -/
def execCvtt (t : Ty) (d : Dst) (a : Src) (p : Option Pred) (s : State) : Host.Outcome State Fault Refusal := .next (stepCvtt t d a p s)

/-- CVTE: stepCvte (Float). -/
def execCvte (t : Ty) (d : Dst) (a : Src) (p : Option Pred) (s : State) : Host.Outcome State Fault Refusal := .next (stepCvte t d a p s)

/-- CVTB: stepCvtb (Float). -/
def execCvtb (t : Ty) (d : Dst) (a : Src) (p : Option Pred) (s : State) : Host.Outcome State Fault Refusal := .next (stepCvtb t d a p s)

/-- CVTQ: stepCvtq (Float). -/
def execCvtq (t : Ty) (d : Dst) (a : Src) (b : Src) (sat : Bool) (p : Option Pred) (s : State) : Host.Outcome State Fault Refusal := .next (stepCvtq t d a b sat p s)

/-- TFX: stepTfx (Alu). -/
def execTfx (d : Dst) (a : Src) (f : BitVec 3) (p : Option Pred) (s : State) : Host.Outcome State Fault Refusal := .next (stepTfx d a f p s)

/-- TFI: stepTfi (Alu). -/
def execTfi (d : Dst) (a : Src) (b : Src) (f : BitVec 3) (p : Option Pred) (s : State) : Host.Outcome State Fault Refusal := .next (stepTfi d a b f p s)

/-- BR: stepBr (Control). -/
def execBr (off : BitVec 24) (s : State) : Host.Outcome State Fault Refusal := .next (stepBr off s)

/-- BEQ: stepBeq (Control). -/
def execBeq (t : Ty) (off : BitVec 24) (a : Src) (b : Src) (s : State) : Host.Outcome State Fault Refusal := .next (stepBeq t off a b s)

/-- BNE: stepBne (Control). -/
def execBne (t : Ty) (off : BitVec 24) (a : Src) (b : Src) (s : State) : Host.Outcome State Fault Refusal := .next (stepBne t off a b s)

/-- BLT: stepBlt (Control). -/
def execBlt (t : Ty) (off : BitVec 24) (a : Src) (b : Src) (s : State) : Host.Outcome State Fault Refusal := .next (stepBlt t off a b s)

/-- BGE: stepBge (Control). -/
def execBge (t : Ty) (off : BitVec 24) (a : Src) (b : Src) (s : State) : Host.Outcome State Fault Refusal := .next (stepBge t off a b s)

/-- BLE: stepBle (Control). -/
def execBle (t : Ty) (off : BitVec 24) (a : Src) (b : Src) (s : State) : Host.Outcome State Fault Refusal := .next (stepBle t off a b s)

/-- BGT: stepBgt (Control). -/
def execBgt (t : Ty) (off : BitVec 24) (a : Src) (b : Src) (s : State) : Host.Outcome State Fault Refusal := .next (stepBgt t off a b s)

/-- CALL: stepCall (Control). -/
def execCall (d : Dst) (off : BitVec 24) (s : State) : Host.Outcome State Fault Refusal := .next (stepCall d off s)

/-- RET: stepRet (Control). -/
def execRet (a : Src) (s : State) : Host.Outcome State Fault Refusal := .next (stepRet a s)

/-- TRET: stepTret (Control). -/
def execTret (a : Src) (sup : Bool) (s : State) : Host.Outcome State Fault Refusal := .next (stepTret a sup s)

/-- LD: stepLd (Memory). -/
def execLd (t : Ty) (d : Dst) (a : Src) (b : Src) (p : Option Pred) (s : State) : Host.Outcome State Fault Refusal := .next (stepLd t d a b p s)

/-- ST: stepSt (Memory). -/
def execSt (t : Ty) (a : Src) (b : Src) (c : Src) (p : Option Pred) (s : State) : Host.Outcome State Fault Refusal := .next (stepSt t a b c p s)

/-- LDC: stepLdc (Memory). -/
def execLdc (t : Ty) (d : Fin 64) (a : Src) (c : Src) (k : Sck) (p : Option Pred) (s : State) : Host.Outcome State Fault Refusal := .next (stepLdc t d a c k p s)

/-- STC: stepStc (Memory). -/
def execStc (t : Ty) (a : Src) (b : Src) (c : Src) (k : Sck) (p : Option Pred) (s : State) : Host.Outcome State Fault Refusal := .next (stepStc t a b c k p s)

/-- CNULL: stepCnull (Memory). -/
def execCnull (c : Src) (k : Sck) (p : Option Pred) (s : State) : Host.Outcome State Fault Refusal := .next (stepCnull c k p s)

/-- CREL: stepCrel (Memory). -/
def execCrel (a : Src) (b : Src) (p : Option Pred) (s : State) : Host.Outcome State Fault Refusal := .next (stepCrel a b p s)

/-- LDP: stepLdp (Memory). -/
def execLdp (t : Ty) (d : Dst) (a : Src) (b : Src) (p : Option Pred) (s : State) : Host.Outcome State Fault Refusal := .next (stepLdp t d a b p s)

/-- STP: stepStp (Memory). -/
def execStp (t : Ty) (a : Src) (b : Src) (c : Src) (p : Option Pred) (s : State) : Host.Outcome State Fault Refusal := .next (stepStp t a b c p s)

/-- AADD: stepAadd (Memory). -/
def execAadd (t : Ty) (d : Fin 64) (a : Src) (b : Src) (p : Option Pred) (s : State) : Host.Outcome State Fault Refusal := .next (stepAadd t d a b p s)

/-- AAND: stepAand (Memory). -/
def execAand (t : Ty) (d : Fin 64) (a : Src) (b : Src) (p : Option Pred) (s : State) : Host.Outcome State Fault Refusal := .next (stepAand t d a b p s)

/-- AOR: stepAor (Memory). -/
def execAor (t : Ty) (d : Fin 64) (a : Src) (b : Src) (p : Option Pred) (s : State) : Host.Outcome State Fault Refusal := .next (stepAor t d a b p s)

/-- AXOR: stepAxor (Memory). -/
def execAxor (t : Ty) (d : Fin 64) (a : Src) (b : Src) (p : Option Pred) (s : State) : Host.Outcome State Fault Refusal := .next (stepAxor t d a b p s)

/-- AMIN: stepAmin (Memory). -/
def execAmin (t : Ty) (d : Fin 64) (a : Src) (b : Src) (p : Option Pred) (s : State) : Host.Outcome State Fault Refusal := .next (stepAmin t d a b p s)

/-- AMAX: stepAmax (Memory). -/
def execAmax (t : Ty) (d : Fin 64) (a : Src) (b : Src) (p : Option Pred) (s : State) : Host.Outcome State Fault Refusal := .next (stepAmax t d a b p s)

/-- ASWP: stepAswp (Memory). -/
def execAswp (t : Ty) (d : Fin 64) (a : Src) (b : Src) (p : Option Pred) (s : State) : Host.Outcome State Fault Refusal := .next (stepAswp t d a b p s)

/-- ACAS: stepAcas (Memory). -/
def execAcas (t : Ty) (d : Fin 64) (a : Src) (b : Src) (c : Src) (p : Option Pred) (s : State) : Host.Outcome State Fault Refusal := .next (stepAcas t d a b c p s)

/-- PCATT: stepPcatt (Memory). -/
def execPcatt (d : Fin 64) (a : Src) (p : Option Pred) (s : State) : Host.Outcome State Fault Refusal := .next (stepPcatt d a p s)

/-- PCDET: stepPcdet (Memory). -/
def execPcdet (d : Fin 64) (a : Src) (p : Option Pred) (s : State) : Host.Outcome State Fault Refusal := .next (stepPcdet d a p s)

/-- PCEVT: stepPcevt (Memory). -/
def execPcevt (d : Fin 64) (a : Src) (p : Option Pred) (s : State) : Host.Outcome State Fault Refusal := .next (stepPcevt d a p s)

/-- PCFREE: stepPcfree (Memory). -/
def execPcfree (d : Fin 64) (a : Src) (p : Option Pred) (s : State) : Host.Outcome State Fault Refusal := .next (stepPcfree d a p s)

/-- PCPUB: stepPcpub (Memory). -/
def execPcpub (d : Fin 64) (a : Src) (p : Option Pred) (s : State) : Host.Outcome State Fault Refusal := .next (stepPcpub d a p s)

/-- ACQ: stepAcq (Memory). -/
def execAcq (t : Ty) (d : Dst) (a : Src) (sc : Scope) (p : Option Pred) (s : State) : Host.Outcome State Fault Refusal := .next (stepAcq t d a sc p s)

/-- REL: stepRel (Memory). -/
def execRel (t : Ty) (a : Src) (b : Src) (sc : Scope) (p : Option Pred) (s : State) : Host.Outcome State Fault Refusal := .next (stepRel t a b sc p s)

/-- FENCE: stepFence (Memory). -/
def execFence (sc : Scope) (p : Option Pred) (s : State) : Host.Outcome State Fault Refusal := .next (stepFence sc p s)

/-- PF: stepPf (System). -/
def execPf (a : Src) (b : Src) (c : Src) (mst : BitVec 3) (q1 : Bool) (p : Option Pred) (s : State) : Host.Outcome State Fault Refusal := .next (stepPf a b c mst q1 p s)

/-- INV: stepInv (System). -/
def execInv (a : Src) (b : Src) (sc : Scope) (p : Option Pred) (s : State) : Host.Outcome State Fault Refusal := .next (stepInv a b sc p s)

/-- ENG: stepEng (System). -/
def execEng (a : Src) (doff : BitVec 16) (p : Option Pred) (s : State) : Host.Outcome State Fault Refusal := .next (stepEng a doff p s)

/-- LAUNCH_INSTRUCTION: stepLaunchInstruction (System). -/
def execLaunchInstruction (d : Fin 64) (a : Src) (p : Option Pred) (s : State) : Host.Outcome State Fault Refusal := .next (stepLaunchInstruction d a p s)

/-- SNAP: stepSnap (System). -/
def execSnap (p : Option Pred) (s : State) : Host.Outcome State Fault Refusal := .next (stepSnap p s)

/-- RSR: stepRsr (System). -/
def execRsr (d : Dst) (n : BitVec 16) (p : Option Pred) (s : State) : Host.Outcome State Fault Refusal := .next (stepRsr d n p s)

/-- WSR: stepWsr (System). -/
def execWsr (a : Src) (n : BitVec 16) (p : Option Pred) (s : State) : Host.Outcome State Fault Refusal := .next (stepWsr a n p s)

/-- TACT: stepTact (System). -/
def execTact (fn : TactOp) (a : Src) (b : Src) (c : Src) (p : Option Pred) (s : State) : Host.Outcome State Fault Refusal := .next (stepTact fn a b c p s)

/-- CFG_LOAD_COMPLETE: stepCfgLoadComplete (Planes). -/
def execCfgLoadComplete (r : Nat) (s : State) : Host.Outcome State Fault Refusal := .next (stepCfgLoadComplete r s)

/-- REPEAT_COUNT_TOKEN: stepRepeatCountToken (Nodes). -/
def execRepeatCountToken (r : Nat) (node : Nat) (s : State) : Host.Outcome State Fault Refusal := .next (stepRepeatCountToken r node s)

/-- BOOT_SEQUENCE: stepBootSequence (Power). -/
def execBootSequence (s : State) : Host.Outcome State Fault Refusal := .next (stepBootSequence s)

/-- POWER_CYCLE: stepPowerCycle (Power). -/
def execPowerCycle (s : State) : Host.Outcome State Fault Refusal := .next (stepPowerCycle s)

/-- CLAMP_LIMITS_EXCEEDED: stepClampLimitsExceeded (Power). -/
def execClampLimitsExceeded (s : State) : Host.Outcome State Fault Refusal := .next (stepClampLimitsExceeded s)

/-- CLAMP_NEITHER: stepClampNeither (Power). -/
def execClampNeither (s : State) : Host.Outcome State Fault Refusal := .next (stepClampNeither s)

/-- CLAMP_EXCESS_EXPIRY: stepClampExcessExpiry (Power). -/
def execClampExcessExpiry (s : State) : Host.Outcome State Fault Refusal := .next (stepClampExcessExpiry s)

/-- CLAMP_CLEAR_EXPIRY: stepClampClearExpiry (Power). -/
def execClampClearExpiry (s : State) : Host.Outcome State Fault Refusal := .next (stepClampClearExpiry s)

/-- CLAMP_TRIP: stepClampTrip (Power). -/
def execClampTrip (s : State) : Host.Outcome State Fault Refusal := .next (stepClampTrip s)

/-- BELL_PIN_EDGE: stepBellPinEdge (Bell). -/
def execBellPinEdge (s : State) : Host.Outcome State Fault Refusal := .next (stepBellPinEdge s)

/-- ETH_LINK_CHANGE: stepEthLinkChange (Links). -/
def execEthLinkChange (s : State) : Host.Outcome State Fault Refusal := .next (stepEthLinkChange s)

/-- MAC_OVERSIZE_DISCARD: stepMacOversizeDiscard (Links). -/
def execMacOversizeDiscard (s : State) : Host.Outcome State Fault Refusal := .next (stepMacOversizeDiscard s)

/-- DATA_FRAME_RX: stepDataFrameRx (Sxt). -/
def execDataFrameRx (s : State) : Host.Outcome State Fault Refusal := .next (stepDataFrameRx s)

/-- ACKF_RX: stepAckfRx (Sxt). -/
def execAckfRx (s : State) : Host.Outcome State Fault Refusal := .next (stepAckfRx s)

/-- NAK_RX: stepNakRx (Sxt). -/
def execNakRx (s : State) : Host.Outcome State Fault Refusal := .next (stepNakRx s)

/-- CMD_FRAME_RX: stepCmdFrameRx (Sxt). -/
def execCmdFrameRx (s : State) : Host.Outcome State Fault Refusal := .next (stepCmdFrameRx s)

/-- RRQ_RX: stepRrqRx (Sxt). -/
def execRrqRx (s : State) : Host.Outcome State Fault Refusal := .next (stepRrqRx s)

/-- RWR_RX: stepRwrRx (Sxt). -/
def execRwrRx (s : State) : Host.Outcome State Fault Refusal := .next (stepRwrRx s)

/-- RAT_RX: stepRatRx (Sxt). -/
def execRatRx (s : State) : Host.Outcome State Fault Refusal := .next (stepRatRx s)

/-- RRS_RX: stepRrsRx (Sxt). -/
def execRrsRx (s : State) : Host.Outcome State Fault Refusal := .next (stepRrsRx s)

/-- COLL_RX: stepCollRx (Sxt). -/
def execCollRx (s : State) : Host.Outcome State Fault Refusal := .next (stepCollRx s)

/-- FLIT_RECEIVE: stepFlitReceive (Links). -/
def execFlitReceive (s : State) : Host.Outcome State Fault Refusal := .next (stepFlitReceive s)

/-- RETRY_REQUEST: stepRetryRequest (Links). -/
def execRetryRequest (s : State) : Host.Outcome State Fault Refusal := .next (stepRetryRequest s)

/-- MCTP_MESSAGE: stepMctpMessage (Links). -/
def execMctpMessage (s : State) : Host.Outcome State Fault Refusal := .next (stepMctpMessage s)

/-- PORTCFG_WRITE: stepPortcfgWrite (Registers). -/
def execPortcfgWrite (s : State) : Host.Outcome State Fault Refusal := .next (stepPortcfgWrite s)

/-- FLRAISE_WRITE: stepFlraiseWrite (Registers). -/
def execFlraiseWrite (s : State) : Host.Outcome State Fault Refusal := .next (stepFlraiseWrite s)

/-- FLOOR_FUSE_BLOWN: stepFloorFuseBlown (Registers). -/
def execFloorFuseBlown (s : State) : Host.Outcome State Fault Refusal := .next (stepFloorFuseBlown s)

/-- REGISTER_WRITE: stepRegisterRow (Lodge). -/
def execRegisterWrite (s : State) : Host.Outcome State Fault Refusal := .next (stepRegisterRow s)

/-- EXTEND: stepExtend (Keys). -/
def execExtend (s : State) : Host.Outcome State Fault Refusal := .next (stepExtend s)

/-- QUOTE_REQUEST: stepQuoteRequest (Keys). -/
def execQuoteRequest (s : State) : Host.Outcome State Fault Refusal := .next (stepQuoteRequest s)

/-- QUOTE_DONE: stepQuoteDone (Keys). -/
def execQuoteDone (s : State) : Host.Outcome State Fault Refusal := .next (stepQuoteDone s)

/-- PUBLIC_KEY_READ: stepPublicKeyRead (Keys). -/
def execPublicKeyRead (s : State) : Host.Outcome State Fault Refusal := .next (stepPublicKeyRead s)

/-- ACCESS_ENTRY_WRITE: stepAccessEntryWrite (Keys). -/
def execAccessEntryWrite (s : State) : Host.Outcome State Fault Refusal := .next (stepAccessEntryWrite s)

/-- OPEN: stepOpenSession (Sessions). -/
def execOpenSession (s : State) : Host.Outcome State Fault Refusal := .next (stepOpenSession s)

/-- ARET: stepAret (Control). -/
def execAret (s : State) : Host.Outcome State Fault Refusal := .next (stepAret s)

/-- TEND: stepTend (Control). -/
def execTend (s : State) : Host.Outcome State Fault Refusal := .next (stepTend s)

/-- ABORT: stepAbort (Control). -/
def execAbort (s : State) : Host.Outcome State Fault Refusal := .next (stepAbort s)

/-- HALT: stepHalt (Control). -/
def execHalt (s : State) : Host.Outcome State Fault Refusal := .next (stepHalt s)

/-- MAILBOX_MESSAGE: stepMailboxMessage (Control). -/
def execMailboxMessage (s : State) : Host.Outcome State Fault Refusal := .next (stepMailboxMessage s)

end Sys2Proof.Machine
end

