-- ==== Sys2Proof/Machine/Dispatch.lean ====
section
/-! DEFINITION. One arm for each constructor of Instr. -/

namespace Sys2Proof.Machine

def exec (i : Instr) (s : State) : Host.Outcome State Fault Refusal :=
  match i with
  | .ackTimer chan => Sys2Proof.Machine.execAckTimer chan s
  | .sxtRetransmitTimeout chan => Sys2Proof.Machine.execSxtRetransmitTimeout chan s
  | .remoteTimeout k => Sys2Proof.Machine.execRemoteTimeout k s
  | .linkRetrain link => Sys2Proof.Machine.execLinkRetrain link s
  | .linkRetrainDone link ok => Sys2Proof.Machine.execLinkRetrainDone link ok s
  | .openRecordExpiry k => Sys2Proof.Machine.execOpenRecordExpiry k s
  | .attest sid => Sys2Proof.Machine.execAttest sid s
  | .mapwin sid => Sys2Proof.Machine.execMapwin sid s
  | .unmap sid => Sys2Proof.Machine.execUnmap sid s
  | .bindChannel sid => Sys2Proof.Machine.execBindChannel sid s
  | .loadplan sid => Sys2Proof.Machine.execLoadplan sid s
  | .launch sid => Sys2Proof.Machine.execLaunch sid s
  | .cancel sid => Sys2Proof.Machine.execCancel sid s
  | .readsnap sid => Sys2Proof.Machine.execReadsnap sid s
  | .readfault sid => Sys2Proof.Machine.execReadfault sid s
  | .closeSession sid => Sys2Proof.Machine.execCloseSession sid s
  | .keepaliveTimeout sid => Sys2Proof.Machine.execKeepaliveTimeout sid s
  | .gangGrant die q => Sys2Proof.Machine.execGangGrant die q s
  | .batPromote die q => Sys2Proof.Machine.execBatPromote die q s
  | .isoActivation gang => Sys2Proof.Machine.execIsoActivation gang s
  | .budgetExpiry gang => Sys2Proof.Machine.execBudgetExpiry gang s
  | .slackPreemptTimer gang => Sys2Proof.Machine.execSlackPreemptTimer gang s
  | .preemptRequest gang => Sys2Proof.Machine.execPreemptRequest gang s
  | .streamClose r => Sys2Proof.Machine.execStreamClose r s
  | .belvedereQuiescence r => Sys2Proof.Machine.execBelvedereQuiescence r s
  | .saveComplete gang => Sys2Proof.Machine.execSaveComplete gang s
  | .drainTimeout gang => Sys2Proof.Machine.execDrainTimeout gang s
  | .regionEnd r => Sys2Proof.Machine.execRegionEnd r s
  | .faultTrap r => Sys2Proof.Machine.execFaultTrap r s
  | .wedgeTimeout r => Sys2Proof.Machine.execWedgeTimeout r s
  | .taskLongTimeout r kiosk => Sys2Proof.Machine.execTaskLongTimeout r kiosk s
  | .fillStart w => Sys2Proof.Machine.execFillStart w s
  | .fillLastByte w => Sys2Proof.Machine.execFillLastByte w s
  | .countedReadDeliver k => Sys2Proof.Machine.execCountedReadDeliver k s
  | .tilePlainAccess k => Sys2Proof.Machine.execTilePlainAccess k s
  | .freedSlotNotice k => Sys2Proof.Machine.execFreedSlotNotice k s
  | .writebackComplete w seq => Sys2Proof.Machine.execWritebackComplete w seq s
  | .windowRetire w => Sys2Proof.Machine.execWindowRetire w s
  | .windowClosed w => Sys2Proof.Machine.execWindowClosed w s
  | .bufferWrite r node => Sys2Proof.Machine.execBufferWrite r node s
  | .bufferRead r j => Sys2Proof.Machine.execBufferRead r j s
  | .prefetchDone w => Sys2Proof.Machine.execPrefetchDone w s
  | .presenceWrite k => Sys2Proof.Machine.execPresenceWrite k s
  | .presenceRead k => Sys2Proof.Machine.execPresenceRead k s
  | .presenceDeferralEnd k => Sys2Proof.Machine.execPresenceDeferralEnd k s
  | .releaseAtHome k => Sys2Proof.Machine.execReleaseAtHome k s
  | .acquireAtHome k => Sys2Proof.Machine.execAcquireAtHome k s
  | .lineRequest k => Sys2Proof.Machine.execLineRequest k s
  | .atomicAtHome k => Sys2Proof.Machine.execAtomicAtHome k s
  | .chainArrival k => Sys2Proof.Machine.execChainArrival k s
  | .chainPerformed k => Sys2Proof.Machine.execChainPerformed k s
  | .gapTimeout chain => Sys2Proof.Machine.execGapTimeout chain s
  | .tlkTranslate r t => Sys2Proof.Machine.execTlkTranslate r t s
  | .walkComplete r k => Sys2Proof.Machine.execWalkComplete r k s
  | .walkerRetry r k => Sys2Proof.Machine.execWalkerRetry r k s
  | .pglimTimeout r => Sys2Proof.Machine.execPglimTimeout r s
  | .kvRetry r t => Sys2Proof.Machine.execKvRetry r t s
  | .invalidationStart k => Sys2Proof.Machine.execInvalidationStart k s
  | .invalidationComplete k => Sys2Proof.Machine.execInvalidationComplete k s
  | .tokenHop r site trk => Sys2Proof.Machine.execTokenHop r site trk s
  | .elementFireOrdered r site => Sys2Proof.Machine.execElementFireOrdered r site s
  | .matchedStoreTake r site => Sys2Proof.Machine.execMatchedStoreTake r site s
  | .matchedIssue r site => Sys2Proof.Machine.execMatchedIssue r site s
  | .arcCompletion k => Sys2Proof.Machine.execArcCompletion k s
  | .spawnCall r site => Sys2Proof.Machine.execSpawnCall r site s
  | .spawnReturn r site => Sys2Proof.Machine.execSpawnReturn r site s
  | .commitRetire r site => Sys2Proof.Machine.execCommitRetire r site s
  | .mstOrderedRelease r site => Sys2Proof.Machine.execMstOrderedRelease r site s
  | .rsvPair r site => Sys2Proof.Machine.execRsvPair r site s
  | .rsvMark r site => Sys2Proof.Machine.execRsvMark r site s
  | .xpsT2p r site => Sys2Proof.Machine.execXpsT2p r site s
  | .xpsP2t r site => Sys2Proof.Machine.execXpsP2t r site s
  | .belvedereStill r => Sys2Proof.Machine.execBelvedereStill r s
  | .swapPerform r => Sys2Proof.Machine.execSwapPerform r s
  | .barrierArrive r => Sys2Proof.Machine.execBarrierArrive r s
  | .barrierComplete gang => Sys2Proof.Machine.execBarrierComplete gang s
  | .markEnqueue r => Sys2Proof.Machine.execMarkEnqueue r s
  | .parseStep r => Sys2Proof.Machine.execParseStep r s
  | .mismatchDiscard r => Sys2Proof.Machine.execMismatchDiscard r s
  | .recoveryReset r => Sys2Proof.Machine.execRecoveryReset r s
  | .doneTerminal r => Sys2Proof.Machine.execDoneTerminal r s
  | .actionEntryArrive k => Sys2Proof.Machine.execActionEntryArrive k s
  | .markSyncApply r site => Sys2Proof.Machine.execMarkSyncApply r site s
  | .settledRaise r => Sys2Proof.Machine.execSettledRaise r s
  | .blockStart core => Sys2Proof.Machine.execBlockStart core s
  | .blockCommit core => Sys2Proof.Machine.execBlockCommit core s
  | .afterCommitReply k => Sys2Proof.Machine.execAfterCommitReply k s
  | .postCommitFault k => Sys2Proof.Machine.execPostCommitFault k s
  | .taskReadyStart r kiosk => Sys2Proof.Machine.execTaskReadyStart r kiosk s
  | .meOpComplete r j => Sys2Proof.Machine.execMeOpComplete r j s
  | .routeDelivery r pt => Sys2Proof.Machine.execRouteDelivery r pt s
  | .rowDelivery r pt => Sys2Proof.Machine.execRowDelivery r pt s
  | .lapStart gang => Sys2Proof.Machine.execLapStart gang s
  | .trainAtEngine r j => Sys2Proof.Machine.execTrainAtEngine r j s
  | .slotComplete r j => Sys2Proof.Machine.execSlotComplete r j s
  | .lapComplete gang => Sys2Proof.Machine.execLapComplete gang s
  | .trellisRunEnter r => Sys2Proof.Machine.execTrellisRunEnter r s
  | .replayRemoval k => Sys2Proof.Machine.execReplayRemoval k s
  | .collDeadline die k => Sys2Proof.Machine.execCollDeadline die k s
  | .collResult die k => Sys2Proof.Machine.execCollResult die k s
  | .elementArith r site => Sys2Proof.Machine.execElementArith r site s
  | .elementFmaScl r site => Sys2Proof.Machine.execElementFmaScl r site s
  | .elementCompareSelect r site => Sys2Proof.Machine.execElementCompareSelect r site s
  | .elementConvert r site => Sys2Proof.Machine.execElementConvert r site s
  | .elementUnpk r site => Sys2Proof.Machine.execElementUnpk r site s
  | .elementPack r site => Sys2Proof.Machine.execElementPack r site s
  | .elementAccumulate r site => Sys2Proof.Machine.execElementAccumulate r site s
  | .elementMrg r site => Sys2Proof.Machine.execElementMrg r site s
  | .elementSteerGate r site => Sys2Proof.Machine.execElementSteerGate r site s
  | .elementRpt r site => Sys2Proof.Machine.execElementRpt r site s
  | .elementTag r site => Sys2Proof.Machine.execElementTag r site s
  | .elementMkgen r site => Sys2Proof.Machine.execElementMkgen r site s
  | .elementCfw r site => Sys2Proof.Machine.execElementCfw r site s
  | .elementMrdMwr r site => Sys2Proof.Machine.execElementMrdMwr r site s
  | .elementMrdk r site => Sys2Proof.Machine.execElementMrdk r site s
  | .elementMrdcMwrc r site => Sys2Proof.Machine.execElementMrdcMwrc r site s
  | .elementMfen r site => Sys2Proof.Machine.execElementMfen r site s
  | .memoryPortResponse r site => Sys2Proof.Machine.execMemoryPortResponse r site s
  | .boxCp r pt => Sys2Proof.Machine.execBoxCp r pt s
  | .boxGath r pt => Sys2Proof.Machine.execBoxGath r pt s
  | .boxScat r pt => Sys2Proof.Machine.execBoxScat r pt s
  | .boxGl r pt => Sys2Proof.Machine.execBoxGl r pt s
  | .boxElementFault r pt => Sys2Proof.Machine.execBoxElementFault r pt s
  | .boxComplete r pt => Sys2Proof.Machine.execBoxComplete r pt s
  | .winOpen w => Sys2Proof.Machine.execWinOpen w s
  | .winFill w => Sys2Proof.Machine.execWinFill w s
  | .winClose w => Sys2Proof.Machine.execWinClose w s
  | .meOp r j => Sys2Proof.Machine.execMeOp r j s
  | .meRd r j => Sys2Proof.Machine.execMeRd r j s
  | .taskArm r kiosk => Sys2Proof.Machine.execTaskArm r kiosk s
  | .crsRing r => Sys2Proof.Machine.execCrsRing r s
  | .crsRun r => Sys2Proof.Machine.execCrsRun r s
  | .trlCtx r => Sys2Proof.Machine.execTrlCtx r s
  | .trlTab r => Sys2Proof.Machine.execTrlTab r s
  | .trlRun r => Sys2Proof.Machine.execTrlRun r s
  | .trnSet r u => Sys2Proof.Machine.execTrnSet r u s
  | .cfgLoad r => Sys2Proof.Machine.execCfgLoad r s
  | .cfgSwap r => Sys2Proof.Machine.execCfgSwap r s
  | .bar r => Sys2Proof.Machine.execBar r s
  | .collSum die k => Sys2Proof.Machine.execCollSum die k s
  | .collMax die k => Sys2Proof.Machine.execCollMax die k s
  | .collGath die k => Sys2Proof.Machine.execCollGath die k s
  | .collBcast die k => Sys2Proof.Machine.execCollBcast die k s
  | .collRsv die k => Sys2Proof.Machine.execCollRsv die k s
  | .add t d a b p => Sys2Proof.Machine.execAdd t d a b p s
  | .sub t d a b p => Sys2Proof.Machine.execSub t d a b p s
  | .mul t d a b p => Sys2Proof.Machine.execMul t d a b p s
  | .mulh t d a b p => Sys2Proof.Machine.execMulh t d a b p s
  | .div t d a b p => Sys2Proof.Machine.execDiv t d a b p s
  | .rem t d a b p => Sys2Proof.Machine.execRem t d a b p s
  | .min t d a b p => Sys2Proof.Machine.execMin t d a b p s
  | .max t d a b p => Sys2Proof.Machine.execMax t d a b p s
  | .adds t d a b p => Sys2Proof.Machine.execAdds t d a b p s
  | .subs t d a b p => Sys2Proof.Machine.execSubs t d a b p s
  | .abs t d a p => Sys2Proof.Machine.execAbs t d a p s
  | .neg t d a p => Sys2Proof.Machine.execNeg t d a p s
  | .and t d a b p => Sys2Proof.Machine.execAnd t d a b p s
  | .or t d a b p => Sys2Proof.Machine.execOr t d a b p s
  | .xor t d a b p => Sys2Proof.Machine.execXor t d a b p s
  | .notb t d a p => Sys2Proof.Machine.execNotb t d a p s
  | .shl t d a b p => Sys2Proof.Machine.execShl t d a b p s
  | .shr t d a b p => Sys2Proof.Machine.execShr t d a b p s
  | .rotl t d a b p => Sys2Proof.Machine.execRotl t d a b p s
  | .clz t d a p => Sys2Proof.Machine.execClz t d a p s
  | .popc t d a p => Sys2Proof.Machine.execPopc t d a p s
  | .bext t d a b c p => Sys2Proof.Machine.execBext t d a b c p s
  | .bins t d a b c p => Sys2Proof.Machine.execBins t d a b c p s
  | .cmpeq t d a b p => Sys2Proof.Machine.execCmpeq t d a b p s
  | .cmpne t d a b p => Sys2Proof.Machine.execCmpne t d a b p s
  | .cmplt t d a b p => Sys2Proof.Machine.execCmplt t d a b p s
  | .cmple t d a b p => Sys2Proof.Machine.execCmple t d a b p s
  | .sel t d a b c p => Sys2Proof.Machine.execSel t d a b c p s
  | .ldiI64 d imm => Sys2Proof.Machine.execLdiI64 d imm s
  | .ldiN64 d imm => Sys2Proof.Machine.execLdiN64 d imm s
  | .ldhiN64 d imm => Sys2Proof.Machine.execLdhiN64 d imm s
  | .addi t d a imm p => Sys2Proof.Machine.execAddi t d a imm p s
  | .lea d a b sc p => Sys2Proof.Machine.execLea d a b sc p s
  | .fadd d a b p => Sys2Proof.Machine.execFadd d a b p s
  | .fsub d a b p => Sys2Proof.Machine.execFsub d a b p s
  | .fmul d a b p => Sys2Proof.Machine.execFmul d a b p s
  | .fma d a b c p => Sys2Proof.Machine.execFma d a b c p s
  | .fmin d a b p => Sys2Proof.Machine.execFmin d a b p s
  | .fmax d a b p => Sys2Proof.Machine.execFmax d a b p s
  | .fabs d a p => Sys2Proof.Machine.execFabs d a p s
  | .fneg d a p => Sys2Proof.Machine.execFneg d a p s
  | .fcmpeq d a b p => Sys2Proof.Machine.execFcmpeq d a b p s
  | .fcmplt d a b p => Sys2Proof.Machine.execFcmplt d a b p s
  | .fcmple d a b p => Sys2Proof.Machine.execFcmple d a b p s
  | .frsqs d a p => Sys2Proof.Machine.execFrsqs d a p s
  | .frcps d a p => Sys2Proof.Machine.execFrcps d a p s
  | .cvti t d a p => Sys2Proof.Machine.execCvti t d a p s
  | .cvtn t d a p => Sys2Proof.Machine.execCvtn t d a p s
  | .cvtt t d a p => Sys2Proof.Machine.execCvtt t d a p s
  | .cvte t d a p => Sys2Proof.Machine.execCvte t d a p s
  | .cvtb t d a p => Sys2Proof.Machine.execCvtb t d a p s
  | .cvtq t d a b sat p => Sys2Proof.Machine.execCvtq t d a b sat p s
  | .tfx d a f p => Sys2Proof.Machine.execTfx d a f p s
  | .tfi d a b f p => Sys2Proof.Machine.execTfi d a b f p s
  | .br off => Sys2Proof.Machine.execBr off s
  | .beq t off a b => Sys2Proof.Machine.execBeq t off a b s
  | .bne t off a b => Sys2Proof.Machine.execBne t off a b s
  | .blt t off a b => Sys2Proof.Machine.execBlt t off a b s
  | .bge t off a b => Sys2Proof.Machine.execBge t off a b s
  | .ble t off a b => Sys2Proof.Machine.execBle t off a b s
  | .bgt t off a b => Sys2Proof.Machine.execBgt t off a b s
  | .call d off => Sys2Proof.Machine.execCall d off s
  | .ret a => Sys2Proof.Machine.execRet a s
  | .tret a sup => Sys2Proof.Machine.execTret a sup s
  | .ld t d a b p => Sys2Proof.Machine.execLd t d a b p s
  | .st t a b c p => Sys2Proof.Machine.execSt t a b c p s
  | .ldc t d a c k p => Sys2Proof.Machine.execLdc t d a c k p s
  | .stc t a b c k p => Sys2Proof.Machine.execStc t a b c k p s
  | .cnull c k p => Sys2Proof.Machine.execCnull c k p s
  | .crel a b p => Sys2Proof.Machine.execCrel a b p s
  | .ldp t d a b p => Sys2Proof.Machine.execLdp t d a b p s
  | .stp t a b c p => Sys2Proof.Machine.execStp t a b c p s
  | .aadd t d a b p => Sys2Proof.Machine.execAadd t d a b p s
  | .aand t d a b p => Sys2Proof.Machine.execAand t d a b p s
  | .aor t d a b p => Sys2Proof.Machine.execAor t d a b p s
  | .axor t d a b p => Sys2Proof.Machine.execAxor t d a b p s
  | .amin t d a b p => Sys2Proof.Machine.execAmin t d a b p s
  | .amax t d a b p => Sys2Proof.Machine.execAmax t d a b p s
  | .aswp t d a b p => Sys2Proof.Machine.execAswp t d a b p s
  | .acas t d a b c p => Sys2Proof.Machine.execAcas t d a b c p s
  | .pcatt d a p => Sys2Proof.Machine.execPcatt d a p s
  | .pcdet d a p => Sys2Proof.Machine.execPcdet d a p s
  | .pcevt d a p => Sys2Proof.Machine.execPcevt d a p s
  | .pcfree d a p => Sys2Proof.Machine.execPcfree d a p s
  | .pcpub d a p => Sys2Proof.Machine.execPcpub d a p s
  | .acq t d a sc p => Sys2Proof.Machine.execAcq t d a sc p s
  | .rel t a b sc p => Sys2Proof.Machine.execRel t a b sc p s
  | .fence sc p => Sys2Proof.Machine.execFence sc p s
  | .pf a b c mst q1 p => Sys2Proof.Machine.execPf a b c mst q1 p s
  | .inv a b sc p => Sys2Proof.Machine.execInv a b sc p s
  | .eng a doff p => Sys2Proof.Machine.execEng a doff p s
  | .launchInstruction d a p => Sys2Proof.Machine.execLaunchInstruction d a p s
  | .snap p => Sys2Proof.Machine.execSnap p s
  | .rsr d n p => Sys2Proof.Machine.execRsr d n p s
  | .wsr a n p => Sys2Proof.Machine.execWsr a n p s
  | .tact fn a b c p => Sys2Proof.Machine.execTact fn a b c p s
  | .cfgLoadComplete r => Sys2Proof.Machine.execCfgLoadComplete r s
  | .repeatCountToken r node => Sys2Proof.Machine.execRepeatCountToken r node s
  | .bootSequence => Sys2Proof.Machine.execBootSequence s
  | .powerCycle => Sys2Proof.Machine.execPowerCycle s
  | .clampLimitsExceeded => Sys2Proof.Machine.execClampLimitsExceeded s
  | .clampNeither => Sys2Proof.Machine.execClampNeither s
  | .clampExcessExpiry => Sys2Proof.Machine.execClampExcessExpiry s
  | .clampClearExpiry => Sys2Proof.Machine.execClampClearExpiry s
  | .clampTrip => Sys2Proof.Machine.execClampTrip s
  | .bellPinEdge => Sys2Proof.Machine.execBellPinEdge s
  | .ethLinkChange => Sys2Proof.Machine.execEthLinkChange s
  | .macOversizeDiscard => Sys2Proof.Machine.execMacOversizeDiscard s
  | .dataFrameRx => Sys2Proof.Machine.execDataFrameRx s
  | .ackfRx => Sys2Proof.Machine.execAckfRx s
  | .nakRx => Sys2Proof.Machine.execNakRx s
  | .cmdFrameRx => Sys2Proof.Machine.execCmdFrameRx s
  | .rrqRx => Sys2Proof.Machine.execRrqRx s
  | .rwrRx => Sys2Proof.Machine.execRwrRx s
  | .ratRx => Sys2Proof.Machine.execRatRx s
  | .rrsRx => Sys2Proof.Machine.execRrsRx s
  | .collRx => Sys2Proof.Machine.execCollRx s
  | .flitReceive => Sys2Proof.Machine.execFlitReceive s
  | .retryRequest => Sys2Proof.Machine.execRetryRequest s
  | .mctpMessage => Sys2Proof.Machine.execMctpMessage s
  | .portcfgWrite => Sys2Proof.Machine.execPortcfgWrite s
  | .flraiseWrite => Sys2Proof.Machine.execFlraiseWrite s
  | .floorFuseBlown => Sys2Proof.Machine.execFloorFuseBlown s
  | .registerWrite => Sys2Proof.Machine.execRegisterWrite s
  | .extend => Sys2Proof.Machine.execExtend s
  | .quoteRequest => Sys2Proof.Machine.execQuoteRequest s
  | .quoteDone => Sys2Proof.Machine.execQuoteDone s
  | .publicKeyRead => Sys2Proof.Machine.execPublicKeyRead s
  | .accessEntryWrite => Sys2Proof.Machine.execAccessEntryWrite s
  | .openSession => Sys2Proof.Machine.execOpenSession s
  | .aret => Sys2Proof.Machine.execAret s
  | .tend => Sys2Proof.Machine.execTend s
  | .abort => Sys2Proof.Machine.execAbort s
  | .halt => Sys2Proof.Machine.execHalt s
  | .mailboxMessage => Sys2Proof.Machine.execMailboxMessage s

end Sys2Proof.Machine
end

