-- ==== Sys2Proof/Machine/Next.lean ====
section
/-! DEFINITION. Which instruction comes next: the head of the agenda, after the time that passes before it; with an empty agenda what
the acting block core does (R345, R346); and how an instruction word is put where the next step takes its instruction from. -/

namespace Sys2Proof.Machine

/-- In the clamp state TRIP nothing acts but the cycle of AUX (R17), and the management unit, which AUX feeds (R37). -/
def stopsAll (s : State) (i : Instr) : Bool := s.clamp.st == 3 && i != .powerCycle && i != .mctpMessage

/-- The instruction the acting core would fire next, under the cursor (R345), its word taken from the core's own copy (R321). -/
def coreInstr (s : State) (j : Nat) : State × Option Instr :=
  let c := s.curCore
  match decodeWord (c.run.slot j).word with
  | some i => (s.setCore s.curKey { c with run := { c.run with cursor := j } }, some i)
  | none => (s, none)

/-- What the acting core does: it begins a block, fires an instruction, or tries to end its block; `none` while it has nothing to do. -/
def coreNext (s : State) : State × Option Instr :=
  let c := s.curCore
  match c.phase with
  | .start _ => (s, some (.blockStart s.cur))
  | .running =>
    match blockReady c, pickNext c with
    | false, some (_, j) => coreInstr s j
    | _, _ => (s, some (.blockCommit s.cur))
  | .ending _ => (s, some (.blockCommit s.cur))
  | _ => (s, none)

/-- The next instruction, and the state in which it acts; errors of stored data that have come meanwhile show first (R55). -/
def nextInstr (s0 : State) : State × Option Instr :=
  let s := takeErrors s0
  match s.agenda with
  | (dns, dcyc, i) :: rest =>
    let s := { s with agenda := rest, ns := s.ns + dns, cyc := s.cyc + dcyc }
    if stopsAll s i then (s, none) else (s, some i)
  | [] =>
    if s.clamp.st == 3 then (s, none)
    else if !s.boot.done then (s, some .bootSequence)
    else coreNext s

/-- The core kind that an instruction word asks for: kiosk for tend, a Lodge core for halt and the Lodge's registers (R326, R386), otherwise a
Pergola. -/
def coreFor (w : W64) : CoreId :=
  match wordKind w with
  | .kiosk => .kiosk 0 0
  | .lodge => .lodge 0
  | .pergola => .pergola 0

/-- Eight instructions that have fired, each `ldi o0, 0` with a result of 0: l-slots for an instruction at index 8. -/
def firedSlots : List Slot := List.replicate 8 { word := BitVec.ofNat 64 0x2840000000000000, fired := true, ready := some 0 }

/-- The block ends in a branch (R346): a `br` follows a word that is none. -/
def closing (w : W64) : List Slot :=
  if wordClass w == .branch then [] else [{ word := BitVec.ofNat 64 0x5000000000000000 }]

/-- The acting core runs a block whose own copy (R321) holds the word at index 8, the next to fire; its o-slots are given as 0; tret stands
in a trap block (R389). -/
def placeWord (s : State) (w : W64) : State :=
  let s := { s with agenda := [], cur := coreFor w, boot := { s.boot with done := true } }
  s.modCore s.curKey (fun c =>
    { c with
      phase := .running
      run := { c.run with
        slots := firedSlots ++ [{ word := w }] ++ closing w, cursor := 8, trap := (fieldsOf w).op.toNat == 0x56, mask := BitVec.allOnes 64
        pre := (List.range 16).map (fun n => (n, (0 : W64))) } })

end Sys2Proof.Machine
end

