-- ==== Sys2Proof/Machine/Step.lean ====
section
/-! DEFINITION. One step of the station, and how an instruction is put where the next step takes it from. -/

namespace Sys2Proof.Machine

/-- One step: the next instruction acts (Next). With nothing to do the station stays as it is. -/
def step (s : State) : Host.Outcome State Fault Refusal :=
  match nextInstr s with
  | (s, some i) => exec i s
  | (s, none) => .next s

/-- The state with the instruction whose low nbits bits are w placed where the next step takes it from (Next.placeWord). -/
def State.withFetchWord (s : State) (nbits w : Nat) : State := placeWord s (BitVec.ofNat 64 (w % 2 ^ nbits))

end Sys2Proof.Machine
end

