-- ==== Sys2Proof/Safety.lean ====
section
/-! DEFINITION. Safe runs, and the words the statements are written in: what it is for an instruction of a block to be ready, to land its
result, to lay an operation aside, to fault; and what such an instruction leaves as it was. -/

namespace Sys2Proof.Machine

/-- The invariants of the state that every step keeps: memory in canonical form. -/
def State.Inv (s : State) : Prop := s.mem.wf = true

/-- A step is safe when it answers a next state that keeps the invariants: the station never stops. -/
def SafeStep (s : State) : Prop := ∃ t, step s = .next t ∧ t.Inv

/-- The index of the instruction under the cursor of the acting core. -/
def State.idx (s : State) : Nat := s.curCore.run.cursor

/-- What the slot under the acting core's cursor in s holds in t. -/
def State.fired (s t : State) : Slot := (t.core s.curKey).run.slot s.idx

/-- The acting core runs a block; the instruction under its cursor has not fired, its predicate says on, its sources read as `vs`, and t is
the cycle in which it fires (R344, R345). -/
def Ready (s : State) (p : Option Pred) (srcs : List Src) (t : Nat) (vs : List Operand) : Prop :=
  canFire s = true ∧ (∃ u, readPred s.curCore s.idx p = .on u ∧ t = fireCycle s.curCore.run (max u (latest vs))) ∧
    readSrcs s.curCore s.idx srcs = some vs

/-- D takes a result whose poison is `poi`: no instruction has written its o-slot (R345), and no poison goes to a g-register (R343). -/
def DstFree (s : State) (d : Dst) (poi : Bool) : Prop := oTaken s.curCore d = false ∧ (poi = true → ∃ n, d = .o n)

/-- The frame of an instruction of a block that fires: of the whole station only the acting core changes, and of that core only its block's
bookkeeping: its g-registers, its phase, its own copy of the block, the block's other slots and the o-slots it does not write stay. `d` is the o-slot it may write. -/
def FiresOnly (s t : State) (d : Option Dst) : Prop :=
  t = { s with cores := t.cores } ∧ (∀ k, k ≠ s.curKey → t.core k = s.core k) ∧
  (let c := s.curCore
   let c' := t.core s.curKey
   c' = { c with run := c'.run } ∧
   c'.run = { c.run with slots := c'.run.slots, o := c'.run.o, cyc := c'.run.cyc, issued := c'.run.issued, divFree := c'.run.divFree } ∧
   (∀ j, j ≠ s.idx → c'.run.slots[j]? = c.run.slots[j]?) ∧
   (∀ n, d ≠ some (.o n) → fget c'.run.o n.val = fget c.run.o n.val))

/-- The instruction has fired in cycle `at_` and its result v lands in D after `lat` cycles (R343, R345, R364). -/
def Landed (s t : State) (at_ lat : Nat) (d : Dst) (v : W64) (poi : Bool) : Prop :=
  let x := s.fired t
  x.fired = true ∧ x.at_ = at_ ∧ x.ready = some (at_ + lat) ∧ x.val = v ∧ x.poi = poi ∧ x.fault = (s.curCore.run.slot s.idx).fault ∧
  (∀ n, d = .o n → fget (t.core s.curKey).run.o n.val = some s.idx) ∧ FiresOnly s t (some d)

/-- The D of the word under the acting core's cursor. -/
def State.dst (s : State) : Option Dst := wordDst (s.curCore.run.slot s.idx).word

/-- The instruction has fired in cycle `at_` with a fault and a cause; its result is poisoned, in the o-slot that its word names too where no
other instruction has written it, and nothing else is written (R345, R347). -/
def Faulted (s t : State) (at_ : Nat) (c : FCode) (cause : Nat) : Prop :=
  let x := s.fired t
  x.fired = true ∧ x.at_ = at_ ∧ x.fault = some (c.num, cause) ∧ x.val = 0 ∧ x.poi = true ∧
  (∀ n, s.dst = some (.o n) → fget (t.core s.curKey).run.o n.val = some (fgetD s.curCore.run.o n.val s.idx)) ∧ FiresOnly s t s.dst

/-- The instruction has fired in cycle `at_`, and its operation waits for the commit of its block (R365). -/
def LaidAside (s t : State) (at_ : Nat) (op : OutOp) : Prop :=
  let x := s.fired t
  x.fired = true ∧ x.at_ = at_ ∧ x.op = some op ∧ x.fault = (s.curCore.run.slot s.idx).fault ∧ FiresOnly s t none

/-- The branch has fired in cycle `at_`, and names what its block does once it has committed (R346). -/
def Branched (s t : State) (at_ : Nat) (b : BrAct) : Prop :=
  let x := s.fired t
  x.fired = true ∧ x.at_ = at_ ∧ x.br = some b ∧ x.fault = (s.curCore.run.slot s.idx).fault

/-- An instruction that computes. Wherever it is ready it answers a next state: where D is free its result has landed; a second write of an
o-slot is F_OTWICE, and poison bound for a g-register F_POISON (R343, R345, R347). `f` gives the value and its poison from the operands. -/
def Computes (i : Instr) (d : Dst) (p : Option Pred) (srcs : List Src) (lat : Nat) (f : List Operand → W64 × Bool) : Prop :=
  ∀ s t vs, Ready s p srcs t vs →
    (DstFree s d (f vs).2 → ∃ s', exec i s = .next s' ∧ Landed s s' t lat d (f vs).1 (f vs).2) ∧
    (oTaken s.curCore d = true → ∃ s', exec i s = .next s' ∧ Faulted s s' t .otwice 0) ∧
    (∀ n, d = .g n → (f vs).2 = true → ∃ s', exec i s = .next s' ∧ Faulted s s' t .poison 0)

/-- The usual poison of a result: that of any operand (R343). -/
def pureOf (f : List W64 → W64) (vs : List Operand) : W64 × Bool := (f (vs.map (·.val)), vs.any (·.poi))

/-- An instruction that lays an operation aside and names an address. Wherever it is ready, its operands pass `pre`, its address passes the
checks of R368 with a target, and the target passes `ok`, it answers a next state in which the operation stands in its slot. -/
def AsideAt (i : Instr) (p : Option Pred) (srcs : List Src) (kind : AKind) (n : Nat) (poi : List Operand → Bool) (addr : List Operand → W64)
    (pre : List Operand → Bool) (ok : State → Tgt → Bool) (op : List Operand → Tgt → OutOp) : Prop :=
  ∀ s t vs s₁ tgt, Ready s p srcs t vs → pre vs = true → addrCheck s kind (poi vs) (addr vs) n = .ok s₁ tgt → ok s₁ tgt = true →
    ∃ s', exec i s = .next s' ∧ LaidAside (unstall s₁ (addr vs)) s' t (op vs tgt)

/-- The same for an instruction that names no address. -/
def AsideOf (i : Instr) (p : Option Pred) (srcs : List Src) (pre : State → List Operand → Bool) (op : List Operand → OutOp) : Prop :=
  ∀ s t vs, Ready s p srcs t vs → pre s vs = true → ∃ s', exec i s = .next s' ∧ LaidAside s s' t (op vs)

/-- An instruction whose address fails a check of R368 faults at fire with the check's code and cause (R365). -/
def AddressFaults (i : Instr) (p : Option Pred) (srcs : List Src) (kind : AKind) (n : Nat) (poi : List Operand → Bool)
    (addr : List Operand → W64) (pre : List Operand → Bool) : Prop :=
  ∀ s t vs s₁ c cause, Ready s p srcs t vs → pre vs = true → addrCheck s kind (poi vs) (addr vs) n = .fault s₁ c cause →
    ∃ s', exec i s = .next s' ∧ Faulted s₁ s' t c cause

/- Words. -/

/-- The opcode of a word and its FN (R322). -/
def opByte (w : W64) : Nat := (w.extractLsb' 56 8).toNat
def fnByte (w : W64) : Nat := (w.extractLsb' 48 8).toNat

/-- A word of format G with a type code for FN, its fields from the top byte down (R322). -/
def wordG (op : Byte) (ty : Ty) (d : Dst) (a : Src) (b c : Option Src) (p : Option Pred) (x : Byte) : Option W64 :=
  some (op ++ (ty.code ++ (dstByte d ++ (srcByte a ++ ((b.map srcByte).getD 0 ++ ((c.map srcByte).getD 0 ++ (predByte p ++ x)))))))

/- Arithmetic at the width of a type, in bit vectors of that width. -/

/-- A source of a type: its low bits (R343). -/
def low (ty : Ty) (v : W64) : BitVec (tyBits ty) := v.setWidth (tyBits ty)

/-- A result of a type as 64 bits (R343). -/
def widen (ty : Ty) (v : BitVec (tyBits ty)) : W64 := if tySigned ty then v.signExtend 64 else v.setWidth 64

/-- The integer a bit vector is under a type: two's complement for .i types, natural for .n types (R325). -/
def intOf (ty : Ty) (v : BitVec (tyBits ty)) : Int := if tySigned ty then v.toInt else (v.toNat : Int)

/-- The largest and the smallest integer of a type. -/
def tyMax (ty : Ty) : Int := if tySigned ty then 2 ^ (tyBits ty - 1) - 1 else 2 ^ tyBits ty - 1
def tyMin (ty : Ty) : Int := if tySigned ty then -2 ^ (tyBits ty - 1) else 0

/-- The integer an operand list's entry k is. -/
def argInt (ty : Ty) (vs : List W64) (k : Nat) : Int := intOf ty (low ty (vs.getD k 0))
/- Words of the statements about rows of events. -/

/-- The predicate and the D of a block instruction that may have a predicate (R326). -/
def predRow : Instr → Option (Option Pred × Option Dst)
  | .add _ d _ _ p | .sub _ d _ _ p | .mul _ d _ _ p | .mulh _ d _ _ p | .div _ d _ _ p | .rem _ d _ _ p | .min _ d _ _ p | .max _ d _ _ p
  | .adds _ d _ _ p | .subs _ d _ _ p | .abs _ d _ p | .neg _ d _ p | .and _ d _ _ p | .or _ d _ _ p | .xor _ d _ _ p | .notb _ d _ p
  | .shl _ d _ _ p | .shr _ d _ _ p | .rotl _ d _ _ p | .clz _ d _ p | .popc _ d _ p | .bext _ d _ _ _ p | .bins _ d _ _ _ p
  | .cmpeq _ d _ _ p | .cmpne _ d _ _ p | .cmplt _ d _ _ p | .cmple _ d _ _ p | .sel _ d _ _ _ p | .addi _ d _ _ p | .lea d _ _ _ p
  | .fadd d _ _ p | .fsub d _ _ p | .fmul d _ _ p | .fma d _ _ _ p | .fmin d _ _ p | .fmax d _ _ p | .fabs d _ p | .fneg d _ p
  | .fcmpeq d _ _ p | .fcmplt d _ _ p | .fcmple d _ _ p | .frsqs d _ p | .frcps d _ p | .cvti _ d _ p | .cvtn _ d _ p | .cvtt _ d _ p
  | .cvte _ d _ p | .cvtb _ d _ p | .cvtq _ d _ _ _ p | .tfx d _ _ p | .tfi d _ _ _ p | .ld _ d _ _ p | .ldp _ d _ _ p | .acq _ d _ _ p
  | .rsr d _ p => some (p, some d)
  | .st _ _ _ _ p | .stc _ _ _ _ _ p | .cnull _ _ p | .crel _ _ p | .stp _ _ _ _ p | .rel _ _ _ _ p | .fence _ p | .pf _ _ _ _ _ p
  | .inv _ _ _ p | .eng _ _ p | .wsr _ _ p | .tact _ _ _ _ p => some (p, none)
  | .ldc _ d _ _ _ p | .aadd _ d _ _ p | .aand _ d _ _ p | .aor _ d _ _ p | .axor _ d _ _ p | .amin _ d _ _ p | .amax _ d _ _ p
  | .aswp _ d _ _ p | .acas _ d _ _ _ p | .pcatt d _ p | .pcdet d _ p | .pcevt d _ p | .pcfree d _ p | .pcpub d _ p
  | .launchInstruction d _ p => some (p, some (.g d))
  | _ => none

/-- The image of a slot does not pass the boot ROM's checks: its header, its ceilings, its signature or its security version (R40). -/
def imageFails (s : State) (slot : Nat) : Prop :=
  ∀ x, readImage s slot = some x → ceilOk x.ceil = false ∨ Config.slhVerify Config.vendorKey x.msg x.sig = false ∨ x.sver < s.boot.floor

/-- The instructions of a block: those that may have a predicate, and those that may not (R322, R326). -/
def inBlock (i : Instr) : Bool :=
  (predRow i).isSome ||
  match i with
  | .ldiI64 _ _ | .ldiN64 _ _ | .ldhiN64 _ _ | .br _ | .beq _ _ _ _ | .bne _ _ _ _ | .blt _ _ _ _ | .bge _ _ _ _ | .ble _ _ _ _
  | .bgt _ _ _ _ | .call _ _ | .ret _ | .aret | .tend | .tret _ _ | .abort | .halt | .snap _ => true
  | _ => false

/-- The state in which the sample at the head of the inputs has been taken: CLMPST shows its values (R20). -/
def sampled (s : State) (x : Sample) (rest : List Sample) : State :=
  { s with
    inputs := { s.inputs with samples := rest }
    clamp := { s.clamp with pwr := x.watts, tmax := hottest x, temps := x.temps } }

/-- A change of the clamp's state, or a step of its clock: ISOV is set, PLDM has an event to give (R37), and every open session is told (R18, R20). -/
def clampTold (s : State) (c : Clamp) : State :=
  let t := { s with clamp := { c with isov := true }, clampEvents := s.clampEvents ++ [clampWord { c with isov := true }] }
  sendAll t 0x85 (leBytes (clampWord t.clamp).toNat 8)

/-- The oldest frame that waits arrived on port p, is of the row that takes the frames `mine`, and is in order on channel k (R26): its FSQ is the one
expected and lies within the credit granted, its position and marks fit its stream, and the channel stands, not closed by the other end. In q its
ACK and CRD have been taken. -/
def inOrder (s : State) (mine : Frame → Bool) (p k : Nat) (f : Frame) (q : State) : Prop :=
  ∃ x u, arriveFrame s mine = .got u p x f ∧ k = chanKey f.sid f.chn ∧ f.fsq < 65536 ∧ f.fsq = (u.chan k).e ∧ streamBad (u.chan k) f = false ∧
    q = takeAck (if f.chn == 0 then u.modSession f.sid (fun y => { y with heard := u.ns }) else u) k f.ack f.crd ∧
    (fget q.chans k).isSome = true ∧ 0 < (u.chan k).granted ∧ (u.chan k).clsRx = false

/-- The state after a frame has been performed: the expected FSQ moves on, its acknowledgement is due, and a CLS closes the other end's direction. -/
def frameDone (r : State) (k : Nat) (f : Frame) : State :=
  dropChan (if f.cls then takeCls (acceptFrame r k) k else acceptFrame r k) k

/-- The data set that a fabric element takes next (R167, R169): what an ORDERED one has at its heads, the first complete entry of a MATCHED one. The
element without it, its tag, its tokens. -/
def dataSet (x : Site) : Option (Site × W64 × List Token) :=
  if x.act.matched then
    match x.issue with
    | e :: es => some ({ x with issue := es }, e.tag, e.slots.filterMap id)
    | [] => none
  else
    match takeOrdered x.act (qHeads x x.act.arity) with
    | .data ts => some (popQs x x.act.arity, (ts.headD {}).tag, ts)
    | _ => none

/-- No higher site has drawn from an allocator of the region in this cycle: site n may draw (R173). -/
def drawFree (s : State) (r n : Nat) : Prop := ∀ f c m, fget (s.region r).drawn f = some (c, m) → c = s.cyc → m ≤ n

/-- The one box of a port tile's first chain has started and comes to its next element: nothing of it waits, and nothing stops it (R422, R428, R429). -/
def AtElement (s : State) (r y : Nat) (b : Box) : Prop :=
  (∃ cs, (s.pt r y).chains = { box := b } :: cs) ∧ (s.pt r y).asked = b.asked ∧ b.ended = false ∧ b.closed = false ∧ b.fault = none ∧
  b.started = true ∧ b.committed = false ∧ b.toks = [] ∧ b.skip = 0 ∧ b.got = none ∧ b.pos < b.d.total

/-- The first chain of a port tile is a box of route entries (DM 4) or of rows (DM 5) that goes on (R229). -/
def AtEngine (s : State) (r y dm : Nat) (b : Box) : Prop :=
  portReady s r y = true ∧ (∃ cs, (s.pt r y).chains = { box := b } :: cs) ∧ b.d.dm = dm ∧ b.d.total ≠ 0 ∧ b.ended = false ∧ b.fault = none

end Sys2Proof.Machine
end

