-- ==== Sys2Proof/Certificates/Slice0/Obligations.lean ====
section
/-! DEFINITION. The statements for the provers. -/

open Sys2Proof Sys2Proof.Machine

/-! Encodings. -/

/-- A block instruction that is well formed has a word, and the word decodes to it again, every operand kept (R322 to R328). -/
def Obligations.DecodeEncode : Prop :=
  (∀ (i : Instr), inBlock i = true → i.wf = true → ∃ w, encode i = some w ∧ decodeWord w = some i) ∧
  (∀ (i : Instr) (w : W64), i.wf = true → encode i = some w → inBlock i = true ∧ decodeWord w = some i)

/-- A word that decodes is the word of the instruction it decodes to, which is well formed: every reserved bit is zero, and no two words decode to one
instruction (R324). -/
def Obligations.EncodeDecode : Prop :=
  (∀ (i : Instr) (w : W64), decodeWord w = some i → encode i = some w) ∧
  (∀ (i : Instr) (w : W64), decodeWord w = some i → i.wf = true)

/-- Words of instructions of some families, as the spec's tables of encodings print them. -/
def Obligations.DecodeWords : Prop :=
  decodeWord 0x1407400783000000#64 = some (.shl .n64 (.o 0) (.g 7) (.imm 3) none) ∧
  decodeWord 0x6827050607080000#64 = some (.acas .i32 5 (.g 6) (.g 7) (.g 8) none) ∧
  decodeWord 0x6878090A00000000#64 = some (.pcatt 9 (.g 10) none) ∧
  decodeWord 0x6A07002450000005#64 = some (.rel .n64 (.g 36) (.l 0) .stn none) ∧
  decodeWord 0x6C0000040506000A#64 = some (.pf (.g 4) (.g 5) (.g 6) 2 true none) ∧
  decodeWord 0x6D00000405000003#64 = some (.inv (.g 4) (.g 5) .gang none) ∧
  decodeWord 0x7000000100020000#64 = some (.eng (.g 1) 2 none) ∧
  decodeWord 0x71000C0D00000000#64 = some (.launchInstruction 12 (.g 13) none) ∧
  decodeWord 0x7200000000000000#64 = some (.snap none) ∧
  decodeWord 0x7400030001600000#64 = some (.rsr (.g 3) 0x0160 none) ∧
  decodeWord 0x5600004000000001#64 = some (.tret (.o 0) true) ∧
  decodeWord 0x5000000002000000#64 = some (.br 2) ∧
  decodeWord 0x5400000000000000#64 = some .aret

/-! Steps. -/

/-- Every instruction answers a next state: the station never stops, and no fault of R96 is a stop of the machine. -/
def Obligations.NeverStops : Prop :=
  ∀ (i : Instr) (s : State), ∃ t, exec i s = .next t

/-- A step fires what the acting core's copy of the block decodes to (R321, R345): with nothing on the agenda, the station booted and not
tripped, and an instruction of the running block able to fire, the step is that instruction with the cursor on it. That the core State.cur
acts when nothing is due is the model's choice (log 1); so is that errors of stored data that have come since the last step show at the start of a step (R55; logs 23, 43). -/
def Obligations.StepRunsDecoded : Prop :=
  ∀ (s₀ : State) (t j : Nat) (i : Instr),
    let s := takeErrors s₀
    s.agenda = [] → s.clamp.st ≠ 3 → s.boot.done = true → s.curCore.phase = .running →
    pickNext s.curCore = some (t, j) → decodeWord (s.curCore.run.slot j).word = some i →
    step s₀ = exec i (s.setCore s.curKey { s.curCore with run := { s.curCore.run with cursor := j } })

/-- A step takes the head of the agenda, after the time that passes before it, once the errors of stored data that have come show (R55). The agenda
and its times are the model's own (log 1), and so is where errors show (logs 23, 43). After a thermal trip nothing acts but the cycle of AUX (R17) and
the management unit, which AUX feeds (R37): a step drops what is due and changes nothing else; what may act in TRIP is the model's reading (log 35). -/
def Obligations.StepOrder : Prop :=
  (∀ (s₀ : State) (ns cyc : Nat) (i : Instr) (rest : List (Nat × Nat × Instr)),
    let s := takeErrors s₀
    s.agenda = (ns, cyc, i) :: rest → s.clamp.st ≠ 3 ∨ i = .powerCycle ∨ i = .mctpMessage →
    step s₀ = exec i { s with agenda := rest, ns := s.ns + ns, cyc := s.cyc + cyc }) ∧
  (∀ (s₀ : State),
    let s := takeErrors s₀
    s.clamp.st = 3 →
    (∀ ns cyc i rest, s.agenda = (ns, cyc, i) :: rest → i ≠ .powerCycle → i ≠ .mctpMessage →
      step s₀ = .next { s with agenda := rest, ns := s.ns + ns, cyc := s.cyc + cyc }) ∧
    (s.agenda = [] → step s₀ = .next s)) ∧
  (∀ (s : State), s.inputs.errors = [] → takeErrors s = s)

/-- The machine right after reset has canonical memory. -/
def Obligations.ResetInv : Prop :=
  State.reset.Inv

/-- Every step keeps memory canonical. -/
def Obligations.StepKeepsInv : Prop :=
  ∀ (s t : State), s.Inv → step s = .next t → t.Inv

/-- What reset leaves: the station has not booted, holds no session, region, gang, window or message, its ports are all down and disabled,
the clamp is in NOM at the full clock, and the bell has not rung. That memory lists nothing, so that each byte reads as the model's blank, is its
choice (log 3). -/
def Obligations.ResetState : Prop :=
  State.reset.boot.done = false ∧ State.reset.sessions = [] ∧ State.reset.gangs = [] ∧ State.reset.regions = [] ∧ State.reset.wins = [] ∧
  State.reset.net = [] ∧ State.reset.mem = [] ∧ State.reset.clamp.st = 0 ∧ State.reset.clamp.steps = 0 ∧ State.reset.clamp.half = false ∧
  State.reset.bell = 0 ∧ State.reset.ports.all (fun p => !p.en && !p.lnka && !p.lnkb) = true

/-! Instructions that compute. -/

/-- Integer arithmetic at the width of the type (R349): add, sub, mul and neg wrap; mulh is the high half of the exact product; adds and subs
clamp; min, max and abs compare the operands under the type. The result lands with the latency of R364, and nothing else of the station changes.
div and rem (R349): truncated toward zero; a zero divisor faults with F_DIVZ, and a poisoned one poisons the result. The divider takes one
operation at a time (R345), so each starts no earlier than the divider is free. -/
def Obligations.IntegerArithmetic : Prop :=
  (∀ (ty : Ty) (d : Dst) (a b : Src) (p : Option Pred),
    let x := fun (vs : List W64) => low ty (vs.getD 0 0)
    let y := fun (vs : List W64) => low ty (vs.getD 1 0)
    let back := fun (v : Int) => widen ty (BitVec.ofInt (tyBits ty) v)
    Computes (.add ty d a b p) d p [a, b] 1 (pureOf (fun vs => widen ty (x vs + y vs))) ∧
    Computes (.sub ty d a b p) d p [a, b] 1 (pureOf (fun vs => widen ty (x vs - y vs))) ∧
    Computes (.mul ty d a b p) d p [a, b] 3 (pureOf (fun vs => widen ty (x vs * y vs))) ∧
    Computes (.neg ty d a p) d p [a] 1 (pureOf (fun vs => widen ty (-x vs))) ∧
    Computes (.mulh ty d a b p) d p [a, b] 3 (pureOf (fun vs => back (argInt ty vs 0 * argInt ty vs 1 / 2 ^ tyBits ty))) ∧
    Computes (.adds ty d a b p) d p [a, b] 1 (pureOf (fun vs => back (max (tyMin ty) (min (tyMax ty) (argInt ty vs 0 + argInt ty vs 1))))) ∧
    Computes (.subs ty d a b p) d p [a, b] 1 (pureOf (fun vs => back (max (tyMin ty) (min (tyMax ty) (argInt ty vs 0 - argInt ty vs 1))))) ∧
    Computes (.min ty d a b p) d p [a, b] 1 (pureOf (fun vs => back (min (argInt ty vs 0) (argInt ty vs 1)))) ∧
    Computes (.max ty d a b p) d p [a, b] 1 (pureOf (fun vs => back (max (argInt ty vs 0) (argInt ty vs 1)))) ∧
    Computes (.abs ty d a p) d p [a] 1 (pureOf (fun vs => back (argInt ty vs 0).natAbs)) ∧
    encode (.add ty d a b p) = wordG 1 ty d a (some b) none p 0 ∧ encode (.sub ty d a b p) = wordG 2 ty d a (some b) none p 0 ∧
    encode (.mul ty d a b p) = wordG 3 ty d a (some b) none p 0 ∧ encode (.mulh ty d a b p) = wordG 4 ty d a (some b) none p 0 ∧
    encode (.div ty d a b p) = wordG 5 ty d a (some b) none p 0 ∧ encode (.rem ty d a b p) = wordG 6 ty d a (some b) none p 0 ∧
    encode (.min ty d a b p) = wordG 7 ty d a (some b) none p 0 ∧ encode (.max ty d a b p) = wordG 8 ty d a (some b) none p 0 ∧
    encode (.adds ty d a b p) = wordG 9 ty d a (some b) none p 0 ∧ encode (.subs ty d a b p) = wordG 10 ty d a (some b) none p 0 ∧
    encode (.abs ty d a p) = wordG 11 ty d a none none p 0 ∧ encode (.neg ty d a p) = wordG 12 ty d a none none p 0) ∧
  (∀ (c : DecCtx) (w : W64) (i : Instr), decodeAt c w = .ok i → 1 ≤ opByte w → opByte w ≤ 12 → fnByte w < 8) ∧
  (∀ (ty : Ty) (d : Dst) (a b : Src) (p : Option Pred) (s : State) (t : Nat) (x y : Operand), Ready s p [a, b] t [x, y] →
    let n := intOf ty (low ty x.val)
    let m := intOf ty (low ty y.val)
    let back := fun (v : Int) => widen ty (BitVec.ofInt (tyBits ty) v)
    let poi := x.poi || y.poi
    let lat := if tyBits ty = 8 then 10 else if tyBits ty = 16 then 14 else if tyBits ty = 32 then 22 else 38
    (∀ u, (m ≠ 0 ∨ y.poi = true) → DstFree s d poi → divFrom s.curCore s.idx (tyBits ty) (some y) = some u →
      let at_ := fireCycle s.curCore.run (max t u)
      (∃ s', exec (.div ty d a b p) s = .next s' ∧ Landed s s' at_ lat d (back (Int.tdiv n m)) poi) ∧
      (∃ s', exec (.rem ty d a b p) s = .next s' ∧ Landed s s' at_ lat d (back (if m = 0 then 0 else Int.tmod n m)) poi)) ∧
    (m = 0 → y.poi = false →
      (∃ s', exec (.div ty d a b p) s = .next s' ∧ Faulted s s' t .divz 0) ∧
      (∃ s', exec (.rem ty d a b p) s = .next s' ∧ Faulted s s' t .divz 0)))

/-- Bits and shifts at the width of the type (R350). The shift amount is all of B, whatever the type.
bext and bins, bit by bit (R350): the field that starts at p and holds w = min(L, n − p) bits; a field that is empty or starts past the
width gives 0, or leaves A. -/
def Obligations.BitsAndFields : Prop :=
  (∀ (ty : Ty) (d : Dst) (a b : Src) (p : Option Pred),
    let x := fun (vs : List W64) => low ty (vs.getD 0 0)
    let y := fun (vs : List W64) => low ty (vs.getD 1 0)
    let amount := fun (vs : List W64) => (vs.getD 1 0).toNat
    Computes (.and ty d a b p) d p [a, b] 1 (pureOf (fun vs => widen ty (x vs &&& y vs))) ∧
    Computes (.or ty d a b p) d p [a, b] 1 (pureOf (fun vs => widen ty (x vs ||| y vs))) ∧
    Computes (.xor ty d a b p) d p [a, b] 1 (pureOf (fun vs => widen ty (x vs ^^^ y vs))) ∧
    Computes (.notb ty d a p) d p [a] 1 (pureOf (fun vs => widen ty (~~~x vs))) ∧
    Computes (.shl ty d a b p) d p [a, b] 1 (pureOf (fun vs => widen ty (x vs <<< amount vs))) ∧
    Computes (.shr ty d a b p) d p [a, b] 1 (pureOf (fun vs =>
      widen ty (if tySigned ty then (x vs).sshiftRight (amount vs) else x vs >>> amount vs))) ∧
    Computes (.rotl ty d a b p) d p [a, b] 1 (pureOf (fun vs => widen ty ((x vs).rotateLeft (amount vs)))) ∧
    Computes (.clz ty d a p) d p [a] 1 (pureOf (fun vs => BitVec.ofNat 64 (x vs).clz.toNat)) ∧
    Computes (.popc ty d a p) d p [a] 1 (pureOf (fun vs =>
      BitVec.ofNat 64 ((List.range (tyBits ty)).countP (fun i => (x vs).getLsbD i)))) ∧
    encode (.and ty d a b p) = wordG 0x10 ty d a (some b) none p 0 ∧ encode (.or ty d a b p) = wordG 0x11 ty d a (some b) none p 0 ∧
    encode (.xor ty d a b p) = wordG 0x12 ty d a (some b) none p 0 ∧ encode (.notb ty d a p) = wordG 0x13 ty d a none none p 0 ∧
    encode (.shl ty d a b p) = wordG 0x14 ty d a (some b) none p 0 ∧ encode (.shr ty d a b p) = wordG 0x15 ty d a (some b) none p 0 ∧
    encode (.rotl ty d a b p) = wordG 0x16 ty d a (some b) none p 0 ∧ encode (.clz ty d a p) = wordG 0x17 ty d a none none p 0 ∧
    encode (.popc ty d a p) = wordG 0x18 ty d a none none p 0) ∧
  (∀ (c : DecCtx) (w : W64) (i : Instr), decodeAt c w = .ok i → 0x10 ≤ opByte w → opByte w ≤ 0x1A → fnByte w < 8) ∧
  (∀ (ty : Ty) (d : Dst) (a b c : Src) (p : Option Pred) (s : State) (t : Nat) (x y z : Operand),
    Ready s p [a, b, c] t [x, y, z] → DstFree s d (x.poi || y.poi || z.poi) →
    let n := tyBits ty
    let poi := x.poi || y.poi || z.poi
    (∃ s' v, exec (.bext ty d a b c p) s = .next s' ∧ Landed s s' t 1 d (widen ty v) poi ∧
      (let w := min z.val.toNat (n - y.val.toNat)
       ∀ i, i < n → v.getLsbD i =
         (if w = 0 then false else if i < w then x.val.getLsbD (y.val.toNat + i)
          else tySigned ty && x.val.getLsbD (y.val.toNat + w - 1)))) ∧
    (∃ s' v, exec (.bins ty d a b c p) s = .next s' ∧ Landed s s' t 1 d (widen ty v) poi ∧
      (let q := z.val.toNat % 256
       let w := min (z.val.toNat / 256 % 256) (n - q)
       ∀ i, i < n → v.getLsbD i = (if q ≤ i ∧ i < q + w then y.val.getLsbD (i - q) else x.val.getLsbD i))) ∧
    encode (.bext ty d a b c p) = wordG 0x19 ty d a (some b) (some c) p 0 ∧ encode (.bins ty d a b c p) = wordG 0x1A ty d a (some b) (some c) p 0)

/-- Compares and sel (R351). -/
def Obligations.CompareAndSelect : Prop :=
  ∀ (ty : Ty) (d : Dst) (a b c : Src) (p : Option Pred),
    Computes (.cmpeq ty d a b p) d p [a, b] 1 (pureOf (fun vs => if argInt ty vs 0 = argInt ty vs 1 then 1 else 0)) ∧
    Computes (.cmpne ty d a b p) d p [a, b] 1 (pureOf (fun vs => if argInt ty vs 0 ≠ argInt ty vs 1 then 1 else 0)) ∧
    Computes (.cmplt ty d a b p) d p [a, b] 1 (pureOf (fun vs => if argInt ty vs 0 < argInt ty vs 1 then 1 else 0)) ∧
    Computes (.cmple ty d a b p) d p [a, b] 1 (pureOf (fun vs => if argInt ty vs 0 ≤ argInt ty vs 1 then 1 else 0)) ∧
    Computes (.sel ty d a b c p) d p [a, b, c] 1 (fun vs =>
      let k := if opVal vs 0 ≠ 0 then 1 else 2
      (widen ty (low ty (opVal vs k)), opPoi vs 0 || opPoi vs k)) ∧
    encode (.cmpeq ty d a b p) = wordG 0x20 ty d a (some b) none p 0 ∧ encode (.cmpne ty d a b p) = wordG 0x21 ty d a (some b) none p 0 ∧
    encode (.cmplt ty d a b p) = wordG 0x22 ty d a (some b) none p 0 ∧ encode (.cmple ty d a b p) = wordG 0x23 ty d a (some b) none p 0 ∧
    encode (.sel ty d a b c p) = wordG 0x24 ty d a (some b) (some c) p 0 ∧
    (∀ (x : DecCtx) (w : W64) (i : Instr), decodeAt x w = .ok i →
      (0x20 ≤ opByte w → opByte w ≤ 0x23 → fnByte w < 8) ∧ (opByte w = 0x24 → fnByte w < 11))

/-- Constants, addi and lea (R352 to R354). -/
def Obligations.ConstantsAndAddresses : Prop :=
  ∀ (ty : Ty) (d : Dst) (a b : Src) (p : Option Pred) (imm : BitVec 32) (v : BitVec 16) (sc : BitVec 3),
    Computes (.ldiI64 d imm) d none [] 1 (pureOf (fun _ => imm.signExtend 64)) ∧
    Computes (.ldiN64 d imm) d none [] 1 (pureOf (fun _ => imm.setWidth 64)) ∧
    Computes (.ldhiN64 d imm) d none [] 1 (pureOf (fun _ => imm.setWidth 64 <<< 32)) ∧
    Computes (.addi ty d a v p) d p [a] 1 (pureOf (fun vs =>
      widen ty (low ty (vs.getD 0 0) + low ty (if tySigned ty then v.signExtend 64 else v.setWidth 64)))) ∧
    Computes (.lea d a b sc p) d p [a, b] 1 (pureOf (fun vs => vs.getD 0 0 + vs.getD 1 0 <<< sc.toNat)) ∧
    encode (.ldiI64 d imm) = some (0x28#8 ++ (dstByte d ++ (imm ++ 0#16))) ∧ encode (.ldiN64 d imm) = some (0x29#8 ++ (dstByte d ++ (imm ++ 0#16))) ∧
    encode (.ldhiN64 d imm) = some (0x2A#8 ++ (dstByte d ++ (imm ++ 0#16))) ∧
    encode (.addi ty d a v p) = some (0x2B#8 ++ (ty.code ++ (dstByte d ++ (srcByte a ++ (v ++ (predByte p ++ 0#8)))))) ∧
    encode (.lea d a b sc p) = wordG 0x2C .n64 d a (some b) none p (sc.setWidth 8) ∧
    (∀ (c : DecCtx) (w : W64) (i : Instr) (x : Byte) (l : BitVec 16), decodeAt c w = .ok i →
      (0x28 ≤ opByte w → opByte w ≤ 0x2A → l ≠ 0 → decodeAt c ((w &&& ~~~0xFFFF#64) ||| l.setWidth 64) = .error .rsvd) ∧
      (opByte w = 0x2B → fnByte w < 8 ∧ (x ≠ 0 → decodeAt c ((w &&& ~~~0xFF#64) ||| x.setWidth 64) = .error .rsvd)) ∧
      (opByte w = 0x2C → fnByte w = 7 ∧ (7 ≤ x.toNat → decodeAt c ((w &&& ~~~0xFF#64) ||| x.setWidth 64) = .error .rsvd)))

/-- Floating point (R355 to R357): each sum, difference, product and fused product rounded once to .f32.
fmin and fmax (R355): the lesser or greater operand, −0 below +0; the canonical NaN if either is NaN. -/
def Obligations.FloatingPoint : Prop :=
  (∀ (d : Dst) (a b c : Src) (p : Option Pred),
    let bits := fun (vs : List W64) (k : Nat) => (vs.getD k 0).toNat % 2 ^ 32
    let x := fun (vs : List W64) (k : Nat) => decF32 (bits vs k)
    let out := fun (n : Nat) => BitVec.ofNat 64 n
    let nan := fun (vs : List W64) (k : Nat) => (x vs k).isNan
    Computes (.fadd d a b p) d p [a, b] 4 (pureOf (fun vs => out (rneF32 ((x vs 0).add (x vs 1))))) ∧
    Computes (.fsub d a b p) d p [a, b] 4 (pureOf (fun vs => out (rneF32 ((x vs 0).add (x vs 1).neg)))) ∧
    Computes (.fmul d a b p) d p [a, b] 4 (pureOf (fun vs => out (rneF32 ((x vs 0).mul (x vs 1))))) ∧
    Computes (.fma d a b c p) d p [a, b, c] 4 (pureOf (fun vs => out (rneF32 (((x vs 0).mul (x vs 1)).add (x vs 2))))) ∧
    Computes (.fmin d a b p) d p [a, b] 1 (pureOf (fun vs => out (f32Min (bits vs 0) (bits vs 1)))) ∧
    Computes (.fmax d a b p) d p [a, b] 1 (pureOf (fun vs => out (f32Max (bits vs 0) (bits vs 1)))) ∧
    Computes (.fabs d a p) d p [a] 1 (pureOf (fun vs => out (if nan vs 0 then 0x7FC00000 else bits vs 0 % 2 ^ 31))) ∧
    Computes (.fneg d a p) d p [a] 1 (pureOf (fun vs => out (if nan vs 0 then 0x7FC00000 else (bits vs 0 + 2 ^ 31) % 2 ^ 32))) ∧
    Computes (.fcmpeq d a b p) d p [a, b] 1 (pureOf (fun vs =>
      if !nan vs 0 && !nan vs 1 && !(x vs 0).lt (x vs 1) && !(x vs 1).lt (x vs 0) then 1 else 0)) ∧
    Computes (.fcmplt d a b p) d p [a, b] 1 (pureOf (fun vs => if (x vs 0).lt (x vs 1) then 1 else 0)) ∧
    Computes (.fcmple d a b p) d p [a, b] 1 (pureOf (fun vs => if !nan vs 0 && !nan vs 1 && !(x vs 1).lt (x vs 0) then 1 else 0)) ∧
    Computes (.frsqs d a p) d p [a] 2 (pureOf (fun vs => out (rsqSeed (bits vs 0)))) ∧
    Computes (.frcps d a p) d p [a] 2 (pureOf (fun vs => out (rcpSeed (bits vs 0))))) ∧
  (∀ (a b : Nat), a < 2 ^ 32 → b < 2 ^ 32 →
    (((decF32 a).isNan = true ∨ (decF32 b).isNan = true) → f32Min a b = 0x7FC00000 ∧ f32Max a b = 0x7FC00000) ∧
    ((decF32 a).isNan = false → (decF32 b).isNan = false →
      (f32Min a b = a ∨ f32Min a b = b) ∧ (f32Max a b = a ∨ f32Max a b = b) ∧
      (decF32 a).lt (decF32 (f32Min a b)) = false ∧ (decF32 b).lt (decF32 (f32Min a b)) = false ∧
      (decF32 (f32Max a b)).lt (decF32 a) = false ∧ (decF32 (f32Max a b)).lt (decF32 b) = false) ∧
    f32Min 0x80000000 0 = 0x80000000 ∧ f32Min 0 0x80000000 = 0x80000000 ∧ f32Max 0x80000000 0 = 0 ∧ f32Max 0 0x80000000 = 0)

/-- Conversions (R358).
Every T8 code but NaR and the codes of zero comes back from its own value, at every channel scale (R277, R278). -/
def Obligations.Conversions : Prop :=
  (∀ (ty : Ty) (d : Dst) (a b : Src) (sat : Bool) (p : Option Pred),
    let f := fun (vs : List W64) => decF32 ((vs.getD 0 0).toNat % 2 ^ 32)
    let toF := fun (v : Exact) => BitVec.ofNat 64 (if ty = .bf16 then encBf16 false v else rneF32 v)
    let toI := fun (v : Int) => widen ty (BitVec.ofInt (tyBits ty) v)
    let scale := fun (vs : List W64) => ((vs.getD 1 0).setWidth 8).toInt
    Computes (.cvti ty d a p) d p [a] 2 (pureOf (fun vs => toF (exactOfInt (vs.getD 0 0).toInt))) ∧
    Computes (.cvtn ty d a p) d p [a] 2 (pureOf (fun vs => toF (exactOfInt (vs.getD 0 0).toNat))) ∧
    Computes (.cvtt ty d a p) d p [a] 2 (pureOf (fun vs => toI (exactToInt false (tySigned ty) (tyBits ty) (f vs)))) ∧
    Computes (.cvte ty d a p) d p [a] 2 (pureOf (fun vs => toI (exactToInt true (tySigned ty) (tyBits ty) (f vs)))) ∧
    Computes (.cvtb ty d a p) d p [a] 2 (pureOf (fun vs =>
      if ty = .bf16 then BitVec.ofNat 64 (encBf16 false (f vs)) else BitVec.ofNat 64 (rneF32 (decBf16 ((vs.getD 0 0).toNat % 2 ^ 16))))) ∧
    Computes (.cvtq ty d a b sat p) d p [a, b] 2 (pureOf (fun vs =>
      if ty = .t8 then BitVec.ofNat 64 (encT8 (scale vs) sat (f vs))
      else BitVec.ofNat 64 (rneF32 (decT8 (scale vs) ((vs.getD 0 0).toNat % 256)))))) ∧
  (∀ (scale : Int) (code : Nat) (sat : Bool), -128 ≤ scale → scale ≤ 127 → code < 256 → code ≠ 0x80 → encT8 scale sat (decT8 scale code) = code)

/-- Tag fields (R359), in a layout of eight fields at most that fill no more than the tag: tfi replaces the bits of field f and no other, and tfx reads
back what tfi wrote. -/
def Obligations.TagFields : Prop :=
  ∀ (d : Dst) (a b : Src) (f : BitVec 3) (p : Option Pred) (s : State) (t : Nat) (x y : Operand),
    let l := curLayout s
    let w := fieldWidth l f.toNat
    let lo := fieldLow l f.toNat
    0 < w → ((l.take (f.toNat + 1)).map (·.width)).sum ≤ 64 →
    (Ready s p [a] t [x] → DstFree s d x.poi →
      ∃ s', exec (.tfx d a f p) s = .next s' ∧ Landed s s' t 1 d (x.val >>> lo &&& BitVec.ofNat 64 (2 ^ w - 1)) x.poi) ∧
    (Ready s p [a, b] t [x, y] → DstFree s d (x.poi || y.poi) →
      ∃ s' v, exec (.tfi d a b f p) s = .next s' ∧ Landed s s' t 1 d v (x.poi || y.poi) ∧
        ∀ i, i < 64 → v.getLsbD i = (if lo ≤ i ∧ i < lo + w then y.val.getLsbD (i - lo) else x.val.getLsbD i))

/-- A predicate that differs from SENSE, on any instruction that may have one (R344): the instruction is off. It reads no other operand, raises
no fault and performs nothing; its l-slot holds D's block-start value where D is a g-register, 0 otherwise, one cycle later.
A poisoned predicate, on any instruction that may have one, is F_POISON (R344). -/
def Obligations.Predicates : Prop :=
  (∀ (i : Instr) (p : Option Pred) (d : Option Dst) (s : State) (u : Nat), predRow i = some (p, d) → canFire s = true →
    readPred s.curCore s.idx p = .off u →
    let old : GReg := match d with
      | some (.g n) => fgetD s.curCore.g n.val {}
      | _ => {}
    ∃ s', exec i s = .next s' ∧ FiresOnly s s' none ∧
      (let x := s.fired s'
       let y := s.curCore.run.slot s.idx
       x = { y with fired := true, at_ := fireCycle s.curCore.run u, off := true, ready := some (fireCycle s.curCore.run u + 1)
                    val := old.val, poi := old.poi, stall := false })) ∧
  (∀ (i : Instr) (p : Option Pred) (d : Option Dst) (s : State) (u : Nat), predRow i = some (p, d) → canFire s = true →
    readPred s.curCore s.idx p = .bad u → ∃ s', exec i s = .next s' ∧ Faulted s s' (fireCycle s.curCore.run u) .poison 0)

/-! Control. -/

/-- Branches (R360): a taken branch goes to baddr + sext(T, 24) × 16, a conditional one is taken where its condition holds of the operands under its
type; a target that is not canonical is F_NONCANON, a poisoned operand F_POISON.
The conditions of the branches under an integer type are the relations of the integers the operands are (R351, R360); under .f32 every
one but ne is false with a NaN. -/
def Obligations.Branches : Prop :=
  (∀ (ty : Ty) (off : BitVec 24) (a b : Src) (s : State) (t : Nat),
    let dest := s.curCore.run.spec.baddr + off.signExtend 64 * 16
    (∀ vs, Ready s none [] t vs →
      (canonical dest 16 = true → ∃ s', exec (.br off) s = .next s' ∧ Branched s s' t (.goto dest) ∧ FiresOnly s s' none) ∧
      (canonical dest 16 = false → ∃ s', exec (.br off) s = .next s' ∧ Faulted s s' t .noncanon 0)) ∧
    (∀ (x y : Operand), Ready s none [a, b] t [x, y] →
      let taken := fun (i : Instr) (c : Cond) =>
        (x.poi = true ∨ y.poi = true → ∃ s', exec i s = .next s' ∧ Faulted s s' t .poison 0) ∧
        (x.poi = false → y.poi = false →
          (branchTaken ty c x.val y.val = false → ∃ s', exec i s = .next s' ∧ Branched s s' t .fall ∧ FiresOnly s s' none) ∧
          (branchTaken ty c x.val y.val = true → canonical dest 16 = true →
            ∃ s', exec i s = .next s' ∧ Branched s s' t (.goto dest) ∧ FiresOnly s s' none) ∧
          (branchTaken ty c x.val y.val = true → canonical dest 16 = false → ∃ s', exec i s = .next s' ∧ Faulted s s' t .noncanon 0))
      taken (.beq ty off a b) .eq ∧ taken (.bne ty off a b) .ne ∧ taken (.blt ty off a b) .lt ∧ taken (.bge ty off a b) .ge ∧
      taken (.ble ty off a b) .le ∧ taken (.bgt ty off a b) .gt)) ∧
  ((∀ (ty : Ty) (x y : W64), ty ≠ .f32 →
    let n := intOf ty (low ty x)
    let m := intOf ty (low ty y)
    branchTaken ty .eq x y = decide (n = m) ∧ branchTaken ty .ne x y = decide (n ≠ m) ∧ branchTaken ty .lt x y = decide (n < m) ∧
    branchTaken ty .ge x y = decide (m ≤ n) ∧ branchTaken ty .le x y = decide (n ≤ m) ∧ branchTaken ty .gt x y = decide (m < n)) ∧
  (∀ (x y : W64), ((decF32 (x.toNat % 2 ^ 32)).isNan = true ∨ (decF32 (y.toNat % 2 ^ 32)).isNan = true) →
    branchTaken .f32 .eq x y = false ∧ branchTaken .f32 .ne x y = true ∧ branchTaken .f32 .lt x y = false ∧ branchTaken .f32 .ge x y = false ∧
    branchTaken .f32 .le x y = false ∧ branchTaken .f32 .gt x y = false))

/-- call and ret (R361). -/
def Obligations.CallAndReturn : Prop :=
  (∀ (c : DecCtx) (w : W64) (i : Instr) (v : BitVec 24) (d : Dst) (a : Src) (off : BitVec 24),
    encode (.call d off) = some (0x52#8 ++ (dstByte d ++ (off ++ 0#24))) ∧
    encode (.ret a) = some (0x53#8 ++ (0#16 ++ (srcByte a ++ 0#32))) ∧
    (decodeAt c w = .ok i → opByte w = 0x52 → v ≠ 0 → decodeAt c ((w &&& ~~~0xFFFFFF#64) ||| v.setWidth 64) = .error .rsvd)) ∧
  (∀ (d : Dst) (off : BitVec 24) (s : State) (t : Nat), Ready s none [] t [] →
    let dest := s.curCore.run.spec.baddr + off.signExtend 64 * 16
    (canonical dest 16 = true → DstFree s d false →
      ∃ s', exec (.call d off) s = .next s' ∧ Landed s s' t 1 d s.curCore.run.nextAddr false ∧ Branched s s' t (.goto dest)) ∧
    (canonical dest 16 = false → ∃ s', exec (.call d off) s = .next s' ∧ Faulted s s' t .noncanon 0)) ∧
  (∀ (a : Src) (s : State) (t : Nat) (x : Operand), Ready s none [a] t [x] →
    (x.poi = true → ∃ s', exec (.ret a) s = .next s' ∧ Faulted s s' t .poison 0) ∧
    (x.poi = false → x.val.toNat % 16 ≠ 0 → ∃ s', exec (.ret a) s = .next s' ∧ Faulted s s' t .align 0) ∧
    (x.poi = false → x.val.toNat % 16 = 0 → canonical x.val 16 = false → ∃ s', exec (.ret a) s = .next s' ∧ Faulted s s' t .noncanon 0) ∧
    (x.poi = false → x.val.toNat % 16 = 0 → canonical x.val 16 = true →
      ∃ s', exec (.ret a) s = .next s' ∧ Branched s s' t (.goto x.val) ∧ FiresOnly s s' none))

/-- The instructions that end an action, a task, a trap block, a plan or a Lodge core's run (R362, R388 to R391): each fires, and its block does
at its commit what it names. tret stands in a trap block. -/
def Obligations.BlockEnders : Prop :=
  (∀ (s : State) (t : Nat), Ready s none [] t [] →
    let ends := fun (i : Instr) (b : BrAct) => ∃ s', exec i s = .next s' ∧ Branched s s' t b ∧ FiresOnly s s' none
    ends .aret .aret ∧ ends .tend .tend ∧ ends .abort .abort ∧ ends .halt .halt) ∧
  (∀ (a : Src) (sup : Bool) (s : State) (t : Nat) (x : Operand), Ready s none [a] t [x] → s.curCore.run.trap = true →
    (sup = true → x.poi = true → ∃ s', exec (.tret a sup) s = .next s' ∧ Faulted s s' t .poison 0) ∧
    ((sup = false ∨ (x.poi = false ∧ coreTrap s = false) ∨ (x.poi = false ∧ targetBad x.val false = none)) →
      ∃ s', exec (.tret a sup) s = .next s' ∧ Branched s s' t (.tret sup x.val) ∧ FiresOnly s s' none))

/-! Memory, atomics, synchronisation and system instructions of blocks. -/

/-- What a store, a release or a counted release does when it fires (R365, R371 to R375, R378): it is checked, its target is found (of a counted release
the whole tile is), and its operation waits for the commit. Memory does not change. -/
def Obligations.StoresWaitForCommit : Prop :=
  ∀ (ty : Ty) (a b c : Src) (sc : Scope) (p : Option Pred),
    AsideAt (.st ty a b c p) p [a, b, c] .write (tyBytes ty) (fun vs => opPoi vs 0 || opPoi vs 1) (fun vs => opVal vs 0 + opVal vs 1)
      (fun _ => true) (fun _ _ => true) (fun vs tgt => .st (opVal vs 0 + opVal vs 1) (tyBytes ty) (opVal vs 2) (opPoi vs 2) tgt) ∧
    AsideAt (.stp ty a b c p) p [a, b, c] .pWrite 8 (fun vs => opPoi vs 0 || opPoi vs 1) (fun vs => opVal vs 0 + opVal vs 1)
      (fun _ => true) presenceOk (fun vs tgt => .stp (opVal vs 0 + opVal vs 1) (opVal vs 2) (opPoi vs 2) tgt) ∧
    AsideAt (.rel ty a b sc p) p [a, b] .write 8 (fun vs => opPoi vs 0) (fun vs => opVal vs 0)
      (fun _ => true) (fun _ tgt => syncOk tgt) (fun vs tgt => .rel (opVal vs 0) tgt (opVal vs 1) (opPoi vs 1) sc) ∧
    (∀ s t vs s₁ s₂ die w off tgt, Ready s p [a, b] t vs →
      let va := opVal vs 0 + opVal vs 1
      addrCheck s .cread (anyPoison vs) va 1 = .ok s₁ (.win die w off) → off % tileSize (s₁.win (die * 4096 + w)) = 0 →
      addrReach (unstall s₁ va) .cread va (tileSize (s₁.win (die * 4096 + w))) = .ok s₂ tgt →
      ∃ s', exec (.crel a b p) s = .next s' ∧ LaidAside (unstall s₂ va) s' t (.crel va tgt))

/-- Chained accesses when they fire (R328, R374): SCK gives the successor's sequence number. -/
def Obligations.ChainedAccessesWait : Prop :=
  ∀ (ty : Ty) (g : Fin 64) (a b c : Src) (k : Sck) (p : Option Pred),
    let chain := fun (v : W64) =>
      ({ ch := v.toNat / 2 ^ 48 % 256, sq := v.toNat % 2 ^ 24, pd := v.toNat / 2 ^ 24 % 2 ^ 24
         sc := match k with
           | .next => (v.toNat % 2 ^ 24 + v.toNat / 2 ^ 56) % 2 ^ 24
           | .zero => 0
           | .ones => 0xFFFFFF } : Chain4)
    AsideAt (.ldc ty g a c k p) p [a, c] .chRead (tyBytes ty) (fun vs => opPoi vs 0) (fun vs => opVal vs 0)
      (fun vs => !opPoi vs 1 && !chainBad (opVal vs 1) k) (fun _ _ => true)
      (fun vs tgt => .ldc g.val ty (opVal vs 0) (tyBytes ty) tgt (chain (opVal vs 1))) ∧
    AsideAt (.stc ty a b c k p) p [a, b, c] .chWrite (tyBytes ty) (fun vs => opPoi vs 0) (fun vs => opVal vs 0)
      (fun vs => !opPoi vs 2 && !chainBad (opVal vs 2) k) (fun _ _ => true)
      (fun vs tgt => .stc (opVal vs 0) (tyBytes ty) (opVal vs 1) (opPoi vs 1) tgt (chain (opVal vs 2))) ∧
    AsideOf (.cnull c k p) p [c] (fun _ vs => !opPoi vs 0 && !chainBad (opVal vs 0) k) (fun vs => .cnull (chain (opVal vs 0)))

/-- Atomics and prefix-cache functions when they fire (R376): a poisoned B or C is F_POISON exactly, and the operation waits for the commit with
its function's number. -/
def Obligations.AtomicsWaitForCommit : Prop :=
  ∀ (ty : Ty) (g : Fin 64) (a b c : Src) (p : Option Pred),
    let two := fun (i : Instr) (fn : Nat) =>
      AsideAt i p [a, b] .atomic (tyBytes ty) (fun vs => opPoi vs 0) (fun vs => opVal vs 0) (fun vs => !opPoi vs 1) (fun _ _ => true)
        (fun vs tgt => .atomic fn ty g.val (opVal vs 0) tgt (opVal vs 1) 0)
    let one := fun (i : Instr) (fn : Nat) =>
      AsideAt i p [a] .atomic 8 (fun vs => opPoi vs 0) (fun vs => opVal vs 0) (fun _ => true)
        (fun _ tgt => match tgt with
          | .win _ _ _ => true
          | _ => false)
        (fun vs tgt => .atomic fn .n64 g.val (opVal vs 0) tgt 0 0)
    two (.aadd ty g a b p) 0 ∧ two (.aand ty g a b p) 1 ∧ two (.aor ty g a b p) 2 ∧ two (.axor ty g a b p) 3 ∧ two (.amin ty g a b p) 4 ∧
    two (.amax ty g a b p) 5 ∧ two (.aswp ty g a b p) 6 ∧
    AsideAt (.acas ty g a b c p) p [a, b, c] .atomic (tyBytes ty) (fun vs => opPoi vs 0) (fun vs => opVal vs 0)
      (fun vs => !opPoi vs 1 && !opPoi vs 2) (fun _ _ => true) (fun vs tgt => .atomic 7 ty g.val (opVal vs 0) tgt (opVal vs 1) (opVal vs 2)) ∧
    one (.pcatt g a p) 8 ∧ one (.pcdet g a p) 9 ∧ one (.pcevt g a p) 10 ∧ one (.pcfree g a p) 11 ∧ one (.pcpub g a p) 12 ∧
    (∀ s t x y, Ready s p [a, b] t [x, y] → y.poi = true → ∀ i ∈
      [Instr.aadd ty g a b p, .aand ty g a b p, .aor ty g a b p, .axor ty g a b p, .amin ty g a b p, .amax ty g a b p, .aswp ty g a b p],
      ∃ s', exec i s = .next s' ∧ Faulted s s' t .poison 0) ∧
    (∀ s t x y z, Ready s p [a, b, c] t [x, y, z] → y.poi = true ∨ z.poi = true →
      ∃ s', exec (.acas ty g a b c p) s = .next s' ∧ Faulted s s' t .poison 0)

/-- The new value of an atomic's word (R376), by its function, on words of the type's width. -/
def Obligations.AtomicValues : Prop :=
  ∀ (ty : Ty) (old b c : W64), ty.isAtomic = true →
    let n := tyBits ty
    let o : BitVec n := old.setWidth n
    let x : BitVec n := b.setWidth n
    let new := fun (fn : Nat) => (atomicNew fn ty old b c).setWidth n
    new 0 = o + x ∧ new 1 = o &&& x ∧ new 2 = o ||| x ∧ new 3 = o ^^^ x ∧
    new 4 = (if intOf ty (low ty b) < intOf ty (low ty old) then x else o) ∧
    new 5 = (if intOf ty (low ty old) < intOf ty (low ty b) then x else o) ∧ new 6 = x ∧
    new 7 = (if o = c.setWidth n then x else o)

/-- System instructions when they fire (R203, R379, R381 to R386): pf, inv, eng, launch, snap, wsr, tact and fence. The
whole body of a launch, 152 bytes, is translated when it fires (R365, R370).
rsr gives the whole register, two cycles after it fires (R364, R386). -/
def Obligations.SystemInstructions : Prop :=
  (∀ (g : Fin 64) (a b c : Src) (sc : Scope) (imm : BitVec 16) (mst : BitVec 3) (q1 : Bool) (p : Option Pred),
    (∀ s t x y z s₁ die w off, Ready s p [a, b, c] t [x, y, z] → x.poi = false → y.poi = false → z.poi = false →
      addrCheck s .read false x.val 1 = .ok s₁ (.win die w off) → off + y.val.toNat ≤ winExtent (s₁.win (die * 4096 + w)) →
      ∃ s', exec (.pf a b c mst q1 p) s = .next s' ∧
        LaidAside (unstall s₁ x.val) s' t (.pf x.val (.win die w off) y.val z.val mst.toNat q1)) ∧
    AsideOf (.inv a b sc p) p [a, b] (fun _ vs => !anyPoison vs && canonical (opVal vs 0) (opVal vs 1).toNat)
      (fun vs => .inv (opVal vs 0) (opVal vs 1) sc) ∧
    AsideAt (.eng a imm p) p [a] .read 8 (fun _ => false) (fun vs => opVal vs 0 + imm.signExtend 64 * 64)
      (fun vs => !opPoi vs 0 && (opVal vs 0 + imm.signExtend 64 * 64).toNat % 64 == 0) (fun _ _ => true)
      (fun vs tgt => .eng (opVal vs 0 + imm.signExtend 64 * 64) tgt) ∧
    (∀ s t x s₁ tgt, Ready s p [a] t [x] → x.poi = false → x.val.toNat % 64 = 0 → addrReach s .read x.val 152 = .ok s₁ tgt →
      ∃ s', exec (.launchInstruction g a p) s = .next s' ∧ LaidAside (unstall s₁ x.val) s' t (.launch g.val x.val tgt)) ∧
    (∀ s t x s₁ c cause, Ready s p [a] t [x] → x.poi = false → x.val.toNat % 64 = 0 → addrReach s .read x.val 152 = .fault s₁ c cause →
      ∃ s', exec (.launchInstruction g a p) s = .next s' ∧ Faulted s₁ s' t c cause) ∧
    AsideOf (.snap p) p [] (fun _ _ => true) (fun _ => .snap) ∧
    AsideOf (.wsr a imm p) p [a] (fun _ vs => !opPoi vs 0) (fun vs => .wsr imm.toNat (opVal vs 0)) ∧
    (∀ fn s t vs, Ready s p (if fn == TactOp.setimm then [a, b, c] else [a, b]) t vs → anyPoison vs = false →
      let site := (opVal vs 0).toNat
      let m := (opVal vs 1).toNat
      0 < site % 32 → site % 32 ≤ 26 → site < 1024 → m < 2 ^ 40 → (s.region (s.curKey / 10)).parser.ord ≤ m →
      ∃ s', exec (.tact fn a b c p) s = .next s' ∧ LaidAside s s' t (.tact site (m % 2 ^ 32) fn ((opVal vs 2).toNat % 2 ^ 24))) ∧
    (∀ s t u, Ready s p [] t [] → structCycle s t = some u → coreSettled s s.curKey = true →
      ∃ s', exec (.fence sc p) s = .next s' ∧
        LaidAside (if scopeWide sc then s.modCore s.curKey invalidateClean else s) s' u (.fence sc))) ∧
  (∀ (d : Dst) (n : BitVec 16) (p : Option Pred) (s : State) (t : Nat) (x : Reg) (r : Nat), Ready s p [] t [] → DstFree s d false →
    regFor s.curKey n.toNat = some (x, r) → ∃ s', exec (.rsr d n p) s = .next s' ∧ Landed s s' t 2 d (readReg s x r) false)

/-- Loads when they fire (R365, R369, R372): where every byte is forwarded from executed stores of lower index, or memory answers at once, the
bytes land extended under the type, forwarded ones over memory's; otherwise the access sets out, for its whole line where it goes through the data
cache (R370), and the instruction stays in flight, the o-slot it names claimed (R345). A refusal is exact. The latency of a load wholly forwarded, which R392 gives for a
hit in the cache only, is the model's choice (log 14).
ldp and acq set out for their home when they fire (R365, R373, R378), once the core holds no dirty bytes of the line and no earlier access
of it is on its way; their blocks wait for the answer. An acq of site or cluster scope waits as its fence does first (R147). -/
def Obligations.LoadsAndHomeReads : Prop :=
  (∀ (ty : Ty) (d : Dst) (a b : Src) (p : Option Pred) (s : State) (t u : Nat) (vs : List Operand) (s₁ : State) (tgt : Tgt),
    Ready s p [a, b] t vs → structCycle s t = some u →
    let va := opVal vs 0 + opVal vs 1
    let n := tyBytes ty
    addrCheck s .read (anyPoison vs) va n = .ok s₁ tgt →
    let q := unstall s₁ va
    let run := q.curCore.run
    let all := allForwarded run run.cursor va.toNat n
    (all = true →
      let m := mergeForward run run.cursor va.toNat (List.replicate n 0) []
      DstFree q d m.2 → ∃ s', exec (.ld ty d a b p) s = .next s' ∧ Landed q s' u 4 d (extTy ty (leNat m.1)) m.2) ∧
    (all = false → clashes q q.curKey va n false false = false →
      (∀ q' bs poi lat, coreLoad q q.curKey va n tgt = .ok q' bs poi lat →
        let m := mergeForward q'.curCore.run q'.curCore.run.cursor va.toNat bs poi
        DstFree q' d m.2 → ∃ s', exec (.ld ty d a b p) s = .next s' ∧ Landed q' s' u lat d (extTy ty (leNat m.1)) m.2) ∧
      (∀ q' c cause, coreLoad q q.curKey va n tgt = .refused q' c cause →
        ∃ s', exec (.ld ty d a b p) s = .next s' ∧ Faulted q' s' u c cause) ∧
      (∀ q', (coreLoad q q.curKey va n tgt = .wait q' ∨ ∃ dd w c o, coreLoad q q.curKey va n tgt = .remote q' dd w c o) → DstFree q d false →
        let acc : Access :=
          { who := .slot q.curKey run.cursor, kind := .read, mid := coreMid q.curKey, tgt := tgt, va := va, n := n, t := ty, since := q.ns }
        ∃ s', exec (.ld ty d a b p) s = .next s' ∧ (q.fired s').fired = true ∧ (q.fired s').flight = true ∧
          (∀ m, d = .o m → fget (s'.core q.curKey).run.o m.val = some q.idx) ∧
          s'.net = q.net ++ [.plain (if tgt.cached then { acc with tgt := tgt.sub (va.toNat % 64), n := 64, line := some n } else acc)] ∧
          s'.mem = q.mem) ∧
      (∀ q', (coreLoad q q.curKey va n tgt = .wait q' ∨ ∃ dd w c o, coreLoad q q.curKey va n tgt = .remote q' dd w c o) →
        oTaken q.curCore d = true → ∃ s', exec (.ld ty d a b p) s = .next s' ∧ Faulted q s' u .otwice 0))) ∧
  (∀ (ty : Ty) (d : Dst) (a b : Src) (sc : Scope) (p : Option Pred) (s : State) (t u : Nat) (vs : List Operand) (s₁ q : State) (tgt : Tgt),
    structCycle s t = some u → DstFree q d false →
    (let va := opVal vs 0 + opVal vs 1
     Ready s p [a, b] t vs → addrCheck s .pRead (anyPoison vs) va 8 = .ok s₁ tgt → presenceOk (unstall s₁ va) tgt = true →
     bypassLine (unstall s₁ va) (unstall s₁ va).curKey va 8 = (q, true) → clashes q q.curKey va 8 false false = false →
     ∃ s', exec (.ldp ty d a b p) s = .next s' ∧ (q.fired s').fired = true ∧ (q.fired s').flight = true ∧ s'.mem = q.mem ∧
       s'.net = q.net ++ [.presence { who := .slot q.curKey q.idx, kind := .pRead, mid := coreMid q.curKey, tgt := tgt, va := va, n := 8
                                      t := ty, since := q.ns }]) ∧
    (let va := opVal vs 0
     Ready s p [a] t vs → addrCheck s .read (opPoi vs 0) va 8 = .ok s₁ tgt → syncOk tgt = true →
     (scopeWide sc = true ∨ coreSettled (unstall s₁ va) (unstall s₁ va).curKey = true) →
     bypassLine (unstall s₁ va) (unstall s₁ va).curKey va 8 = (q, true) → clashes q q.curKey va 8 false false = false →
     ∃ s', exec (.acq ty d a sc p) s = .next s' ∧ (q.fired s').fired = true ∧ (q.fired s').flight = true ∧ s'.mem = q.mem ∧
       s'.net = q.net ++ [.acquire { who := .slot q.curKey q.idx, kind := .read, mid := coreMid q.curKey, tgt := tgt, va := va, n := 8
                                     t := ty, scope := sc, since := q.ns }]))

/-- The checks of an access's address, in their order (R119, R368): a poisoned address, one that is no multiple of the size, one that is not
canonical.
An address that fails a check of R368 is an exact fault of its instruction (R365): stores, releases, chained accesses and atomics fault when they
fire, with the check's code and cause. -/
def Obligations.AddressChecks : Prop :=
  (∀ (s : State) (kind : AKind) (a : W64) (n : Nat),
    addrCheck s kind true a n = .fault s .poison 0 ∧
    (a.toNat % n ≠ 0 → addrCheck s kind false a n = .fault s .align 0) ∧
    (a.toNat % n = 0 → canonical a n = false → addrCheck s kind false a n = .fault s .noncanon 0) ∧
    (∀ r u, canonical a n = false → unitTr s r u kind a n = .fault s .noncanon 0) ∧
    (0 < n → (canonical a n = false ↔
      (∃ k < 17, a.getLsbD (47 + k) ≠ a.getLsbD 47) ∨ (a.getLsbD 63 = false ∧ 0x00007FFFFFFFFFFF < a.toNat + n - 1) ∨
      (a.getLsbD 63 = true ∧ 0xFFFFFFFFFFFFFFFF < a.toNat + n - 1)))) ∧
  (∀ (ty : Ty) (g : Fin 64) (a b c : Src) (sc : Scope) (k : Sck) (p : Option Pred),
    AddressFaults (.st ty a b c p) p [a, b, c] .write (tyBytes ty) (fun vs => opPoi vs 0 || opPoi vs 1) (fun vs => opVal vs 0 + opVal vs 1)
      (fun _ => true) ∧
    AddressFaults (.stp ty a b c p) p [a, b, c] .pWrite 8 (fun vs => opPoi vs 0 || opPoi vs 1) (fun vs => opVal vs 0 + opVal vs 1)
      (fun _ => true) ∧
    AddressFaults (.rel ty a b sc p) p [a, b] .write 8 (fun vs => opPoi vs 0) (fun vs => opVal vs 0) (fun _ => true) ∧
    AddressFaults (.crel a b p) p [a, b] .cread 1 anyPoison (fun vs => opVal vs 0 + opVal vs 1) (fun _ => true) ∧
    AddressFaults (.ldc ty g a c k p) p [a, c] .chRead (tyBytes ty) (fun vs => opPoi vs 0) (fun vs => opVal vs 0)
      (fun vs => !opPoi vs 1 && !chainBad (opVal vs 1) k) ∧
    AddressFaults (.stc ty a b c k p) p [a, b, c] .chWrite (tyBytes ty) (fun vs => opPoi vs 0) (fun vs => opVal vs 0)
      (fun vs => !opPoi vs 2 && !chainBad (opVal vs 2) k) ∧
    AddressFaults (.aadd ty g a b p) p [a, b] .atomic (tyBytes ty) (fun vs => opPoi vs 0) (fun vs => opVal vs 0) (fun vs => !opPoi vs 1) ∧
    AddressFaults (.acas ty g a b c p) p [a, b, c] .atomic (tyBytes ty) (fun vs => opPoi vs 0) (fun vs => opVal vs 0)
      (fun vs => !opPoi vs 1 && !opPoi vs 2) ∧
    AddressFaults (.pcatt g a p) p [a] .atomic 8 (fun vs => opPoi vs 0) (fun vs => opVal vs 0) (fun _ => true))

/-! The package: clamp, boot, keys, links. In each statement about an event, the conclusion is the state in which the row has acted; the
hypotheses say when it acts. -/

/-- The clamp's states NOM 0, GATE 1, SLOW 2 and TRIP 3 (R17): limits exceeded take NOM to GATE; 100 µs later the clock goes down step by step,
to the eighth, and then halves; samples between the limits restart both counts; limits cleared for 1 ms take the steps back and end GATE; 110 °C
or coolant flow lost trips, and asserts THERMTRIP_N. -/
def Obligations.ClampRows : Prop :=
  ∀ (s : State) (x : Sample) (rest : List Sample), s.inputs.samples = x :: rest →
    let exc : Prop := (1600 ≤ hottest x ∨ 1800 < x.watts) ∧ hottest x < 1760 ∧ x.flowLost = false
    let clr : Prop := x.watts < 1710 ∧ hottest x < 1520 ∧ x.flowLost = false
    let u := sampled s x rest
    let c := u.clamp
    let th := c.temph || decide (1600 ≤ hottest x)
    let pw := c.pwrh || decide (1800 < x.watts)
    (exc → s.clamp.st = 0 → exec .clampLimitsExceeded s =
      .next (clampTold u { c with st := 1, clear := none, excess := some s.ns, temph := th, pwrh := pw })) ∧
    (exc → s.clamp.st ≠ 0 → exec .clampLimitsExceeded s =
      .next { u with clamp := { c with clear := none, excess := some (s.clamp.excess.getD s.ns) } }) ∧
    (¬(1600 ≤ hottest x ∨ 1800 < x.watts) → ¬(x.watts < 1710 ∧ hottest x < 1520) → x.flowLost = false →
      exec .clampNeither s = .next { u with clamp := { c with clear := none, excess := none } }) ∧
    (∀ e, exc → s.clamp.excess = some e → e + 100000 ≤ s.ns →
      let c' := { c with clear := none, excess := some s.ns }
      (s.clamp.st = 1 → exec .clampExcessExpiry s = .next (clampTold u { c' with st := 2, steps := 1, temph := th, pwrh := pw })) ∧
      (s.clamp.st = 2 → s.clamp.steps < 8 → exec .clampExcessExpiry s = .next (clampTold u { c' with steps := c.steps + 1 })) ∧
      (s.clamp.st = 2 → 8 ≤ s.clamp.steps → exec .clampExcessExpiry s = .next { u with clamp := { c' with half := true } })) ∧
    (clr → let t := s.clamp.clear.getD s.ns
      (s.ns < t + 1000000 → exec .clampClearExpiry s = .next { u with clamp := { c with excess := none, clear := some t } }) ∧
      (t + 1000000 ≤ s.ns →
        let c' := { c with excess := none, clear := some s.ns }
        (s.clamp.st = 1 → exec .clampClearExpiry s = .next (clampTold u { c' with st := 0 })) ∧
        (s.clamp.st = 2 → 2 ≤ s.clamp.steps →
          exec .clampClearExpiry s = .next (clampTold u { c' with steps := c.steps - 1, half := false, st := 2 })) ∧
        (s.clamp.st = 2 → s.clamp.steps ≤ 1 →
          exec .clampClearExpiry s = .next (clampTold u { c' with steps := c.steps - 1, half := false, st := 1 })))) ∧
    ((1760 ≤ hottest x ∨ x.flowLost = true) →
      let t := clampTold u { c with st := 3, temph := c.temph || decide (1760 ≤ hottest x), excess := none, clear := none }
      exec .clampTrip s = .next t ∧ thermtripN t = true)

/-- Boot and the cycle of AUX (R17, R40, R41, R44). The slot with the higher security version is tried first, then the other; an image that passes is
measured, its code is loaded, its ceilings are set, and the eight Lodge cores start at its entry. Where neither passes the boot has failed. A cycle of
AUX leaves the SPI device's bytes and the fused floor (what it keeps is log 35's reading); that the rest of memory then reads as blank is the model's
choice (log 3), and the verification function is opaque (log 11). -/
def Obligations.BootAndPowerCycle : Prop :=
  (∀ (s : State) (x : Image) (slot : Nat) (alt : Bool), s.boot.done = false → s.boot.fail = false →
    ((slot = firstSlot s ∧ alt = false) ∨ (slot = 1 - firstSlot s ∧ alt = true ∧ imageFails s (firstSlot s))) →
    readImage s slot = some x → ceilOk x.ceil = true → s.boot.floor ≤ x.sver → Config.slhVerify Config.vendorKey x.msg x.sig = true →
    ∃ t, exec .bootSequence s = .next t ∧
      t.boot = { s.boot with done := true, slot := slot, alt := alt, lock := true, romX := true, sver := x.sver } ∧
      t.mem = writeBytes s.mem (codeAddr 0) x.code ∧ t.access = [] ∧
      (∀ c < 8, t.core (640 + c) = { phase := .start (BitVec.ofNat 64 x.entry) }) ∧
      t.keys.mreg = ((extendMreg (extendMreg s 0 (shake256 x.msg)) 1 (shake256 x.ceil)).keys.mreg) ∧
      t.ceil = ((ceilEntries x.ceil).map ceilEntry).foldl (fun c e => (ceilSlots e).foldl (fun c k => fset c k e.val) c) s.ceil ∧
      t.sessions = s.sessions ∧ t.regions = s.regions ∧ t.net = s.net) ∧
  (∀ (s : State), s.boot.done = false → s.boot.fail = false → imageFails s 0 → imageFails s 1 →
    exec .bootSequence s = .next { s with boot := { s.boot with fail := true } }) ∧
  (∀ (s : State), s.mem.wf = true → ∃ t, exec .powerCycle s = .next t ∧ t.boot = { floor := s.boot.floor } ∧ t.clamp = {} ∧ t.sessions = [] ∧
    t.gangs = [] ∧ t.regions = [] ∧ t.cores = [] ∧ t.wins = [] ∧ t.net = [] ∧ t.access = [] ∧ t.ceil = [] ∧
    ∀ a, readByte t.mem a = (if spiAddr 0 ≤ a then readByte s.mem a else Memory.blank))

/-- Register writes as the outside world and the Lodge make them (R7, R20, R22, R44, R121, R133, R154); where none waits, the oldest act of the
firmware (R33, R38, R53, R62; that they share a row is the model's choice, log 19). That a SPLIT or an MTU that may not be written is ignored in that field alone is the model's
choice (log 42), and so is that any block core may write PORTCFG (log 32). -/
def Obligations.RegisterRows : Prop :=
  (∀ (s : State) (q : RegReq) (qs : List RegReq), s.inputs.regs = q :: qs →
    let u := { s with inputs := { s.inputs with regs := qs } }
    (∀ p, q.num = 0x110 + p → p < 4 → ∃ t, exec .portcfgWrite s = .next t ∧
      (let x := s.portOf p
       let en := q.v.getLsbD 0
       let mtu := (q.v.extractLsb' 16 16).toNat
       t = { u with
         ports := s.ports.set p { x with
           en := en, split := if x.en then x.split else q.v.getLsbD 1
           mtu := if 1518 ≤ mtu ∧ mtu ≤ 9216 then mtu else x.mtu
           lnka := x.lnka && en, lnkb := x.lnkb && en }
         wire := if en then s.wire else s.wire.filter (fun f => f.1 % 4 != p) })) ∧
    (q.num = 0x122 → q.lodge = true → s.boot.floor < q.v → q.v ≤ s.boot.sver → s.boot.blowing = none →
      exec .flraiseWrite s = .next { u with boot := { s.boot with blowing := some (q.v, s.ns) } }) ∧
    (q.num = 0x122 → (q.lodge = false ∨ q.v ≤ s.boot.floor ∨ s.boot.sver < q.v) → exec .flraiseWrite s = .next u) ∧
    (q.num = 0x101 → q.lodge = true → exec .registerWrite s =
      .next { u with clamp := { s.clamp with
        isov := s.clamp.isov && !q.v.getLsbD 8, temph := s.clamp.temph && !q.v.getLsbD 9, pwrh := s.clamp.pwrh && !q.v.getLsbD 10 } }) ∧
    (∀ d, q.num = 0x140 + d → d < 4 → q.lodge = true → (q.v.extractLsb' 0 16).toNat ≠ 0 → exec .registerWrite s =
      .next { u with gapLim := s.gapLim.set d (q.v.extractLsb' 0 16).toNat }) ∧
    (∀ r, q.num = 0x8030 + r * 0x100 → r < 64 → q.lodge = true → exec .registerWrite s =
      .next (u.modRegion r (fun g => { g with xroot := q.v &&& 0x7FFFFFFE01 }))) ∧
    ((q.num = 0x100 ∨ q.num = 0x120 ∨ q.num = 0x121 ∨ q.num = 0x150 ∨ q.num = 0x160 ∨ q.num = 0x180 ∨ q.num = 0x190) →
      exec .registerWrite s = .next u)) ∧
  (∀ (s : State) (a : LodgeAct) (rest : List LodgeAct), s.inputs.regs = [] → s.inputs.lodge = a :: rest →
    exec .registerWrite s = .next (lodgeAct { s with inputs := { s.inputs with lodge := rest } } a)) ∧
  (∀ (s : State) (v : W64) (n : Nat), s.boot.blowing = some (v, n) →
    exec .floorFuseBlown s = .next { s with boot := { s.boot with floor := v, blowing := none } })

/-- The key unit and the access tables (R45 to R49, R52). The measurements are SHAKE256 (log 10), the signature and the public key opaque constants
(log 11); the quote being signed counts among the eight (log 42), and each row takes the oldest input (log 24). -/
def Obligations.KeyRows : Prop :=
  (∀ (s : State) (rom : Bool) (i : Nat) (d : List Byte) (rest : List (Bool × Nat × List Byte)), s.inputs.extends_ = (rom, i, d) :: rest →
    let u := { s with inputs := { s.inputs with extends_ := rest } }
    (i ≤ 3 → (rom = true ∨ 2 ≤ i) → s.keys.body = none → exec .extend s =
      .next { u with keys := { s.keys with mreg := s.keys.mreg.set i (shake256 (s.keys.mreg.getD i [] ++ d)) } }) ∧
    (i ≤ 3 → (rom = true ∨ 2 ≤ i) → s.keys.body ≠ none →
      exec .extend s = .next { u with keys := { s.keys with ext := s.keys.ext ++ [(i, d)] } }) ∧
    ((3 < i ∨ (rom = false ∧ i < 2)) → exec .extend s = .next { u with keys := { s.keys with refused := s.keys.refused + 1 } })) ∧
  (∀ (s : State) (q : QuoteReq) (rest : List QuoteReq), s.inputs.quotes = q :: rest →
    let u := { s with inputs := { s.inputs with quotes := rest } }
    (q.nonce.length = 32 → q.fw.length = 64 → s.keys.q.length < 8 → s.keys.body ≠ none →
      exec .quoteRequest s = .next { u with keys := { s.keys with q := s.keys.q ++ [q] } }) ∧
    (q.nonce.length = 32 → q.fw.length = 64 → s.keys.q = [] → s.keys.body = none →
      exec .quoteRequest s = .next { u with keys := { s.keys with
        q := [q]
        body := some (leBytes 0x51544F5551474147 8 ++ q.nonce ++ s.keys.mreg.flatten ++ leBytes pkgidWord 8 ++
          leBytes (bootWord s.boot) 8 ++ q.fw) } }) ∧
    ((q.nonce.length ≠ 32 ∨ q.fw.length ≠ 64 ∨ 8 ≤ s.keys.q.length) →
      exec .quoteRequest s = .next { u with keys := { s.keys with refused := s.keys.refused + 1 } })) ∧
  (∀ (s : State) (b : List Byte) (q : QuoteReq), s.keys.body = some b → s.keys.q = [q] → q.sid = 0 → s.keys.ext = [] →
    exec .quoteDone s = .next { s with keys := { s.keys with body := none, q := [], quotes := s.keys.quotes ++ [(b, (Config.slhSign b).toList)] } }) ∧
  (∀ (s : State) (n : Nat), s.inputs.keyReads = n + 1 →
    exec .publicKeyRead s = .next { s with
      inputs := { s.inputs with keyReads := n }, keys := { s.keys with reads := s.keys.reads ++ [Config.identityKey.toList] } }) ∧
  (∀ (s : State) (t i : Nat) (a b : W64) (rest : List (Nat × Nat × W64 × W64)), s.inputs.entries = (t, i, a, b) :: rest → t ≤ 514 → i ≤ 63 →
    let u := { s with inputs := { s.inputs with entries := rest } }
    let e := (a &&& ~~~0xF00#64, b &&& ~~~0xFFF#64)
    (entryAllowed s t e = true → exec .accessEntryWrite s = .next { u with access := fset s.access (t * 64 + i) e }) ∧
    (entryAllowed s t e = false → exec .accessEntryWrite s = .next { u with ceilx := sinsert s.ceilx t }))

/-- Ethernet ports, flit links and the management unit (R21, R28, R34 to R37). What PLDM answers of a clamp event, the address's strap (log 41) and the
joined replay buffer (log 42) are the model's choices.
A link that leaves service (R36): another link of its bundle in service takes its unacknowledged flits over, in order, to be sent ahead of
newer ones. -/
def Obligations.LinkRows : Prop :=
  ((∀ (s : State) (p half : Nat) (up : Bool) (rest : List (Nat × Nat × Bool)), s.inputs.links = (p, half, up) :: rest → (s.portOf p).en = true →
    let u := { s with inputs := { s.inputs with links := rest } }
    (half = 0 → exec .ethLinkChange s = .next { u with ports := s.ports.set (p % 4) { s.portOf p with lnka := up } }) ∧
    (half = 1 → (s.portOf p).split = true → exec .ethLinkChange s = .next { u with ports := s.ports.set (p % 4) { s.portOf p with lnkb := up } })) ∧
  (∀ (s : State) (p : Nat) (f : RawFrame) (rest : List (Nat × RawFrame)), s.inputs.frames = (p, f) :: rest → s.portOn p = true →
    (s.portOf p).mtu < f.ethLen →
    exec .macOversizeDiscard s = .next (countMalformed { s with inputs := { s.inputs with frames := rest } } p)) ∧
  (∀ (s : State) (n : Nat) (f : BitVec 112) (lsq : Nat) (good : Bool) (rest : List (Nat × BitVec 112 × Nat × Bool)),
    s.inputs.flits = (n, f, lsq, good) :: rest → linkExists n = true → (s.link n).down = false → (s.link n).training = false →
    let u := { s with inputs := { s.inputs with flits := rest } }
    let x := noteSent (s.link n) f lsq
    let y := { x with resend := x.resend.filter (fun e => e.1 != lsq) }
    (good = true → lsq = x.expect → lsq < 1024 → exec .flitReceive s = .next { u with
      links := fset s.links n { y with
        expect := (lsq + 1) % 1024, passed := x.passed ++ [f], replay := x.replay.filter (fun e => e.1 != lsq) } }) ∧
    (good = false → exec .flitReceive s = .next { u with links := fset s.links n { y with asked := x.asked ++ [x.expect] } }) ∧
    (good = true → 0 < (lsq + 1024 - x.expect) % 1024 → (lsq + 1024 - x.expect) % 1024 < 512 →
      exec .flitReceive s = .next { u with links := fset s.links n { y with asked := x.asked ++ [x.expect] } }) ∧
    (good = true → 512 ≤ (lsq + 1024 - x.expect) % 1024 → exec .flitReceive s = .next { u with links := fset s.links n y })) ∧
  (∀ (s : State) (n lsq : Nat) (rest : List (Nat × Nat)), s.inputs.retries = (n, lsq) :: rest → linkExists n = true → (s.link n).down = false →
    let x := s.link n
    exec .retryRequest s = .next { s with
      inputs := { s.inputs with retries := rest }
      links := fset s.links n { x with
        resend := x.replay.filter (fun e => (e.1 + 1024 - lsq) % 1024 < 512), last := lsq
        count := if x.last = lsq then x.count + 1 else 1 } }) ∧
  (∀ (s : State) (n : Nat), let x := s.link n
    (16 ≤ x.count → x.training = false → x.down = false →
      exec (.linkRetrain n) s = .next (linkEvent { s with links := fset s.links n { x with training := true, count := 0 } } n)) ∧
    (x.training = true →
      exec (.linkRetrainDone n true) s = .next (linkEvent { s with
        links := fset s.links n { x with
          training := false, fails := 0, resend := x.replay.filter (fun e => (e.1 + 1024 - x.expect) % 1024 < 512) } } n) ∧
      (x.fails < 3 → exec (.linkRetrainDone n false) s = .next { s with links := fset s.links n { x with fails := x.fails + 1 } }) ∧
      (3 ≤ x.fails → exec (.linkRetrainDone n false) s = .next (linkEvent (leaveService s n) n)))) ∧
  (∀ (s : State) (adr : Nat) (q : MctpReq) (rest : List (Nat × MctpReq)), s.inputs.mctp = (adr, q) :: rest →
    (adr ≠ smbusAddr → exec .mctpMessage s = .next { s with inputs := { s.inputs with mctp := rest } }) ∧
    (adr = smbusAddr → ∃ v, exec .mctpMessage s = .next { s with
        inputs := { s.inputs with mctp := rest }, mctpOut := s.mctpOut ++ [{ req := q, val := v }]
        clampEvents := if q == .clampEvent then s.clampEvents.drop 1 else s.clampEvents, free := s.free + 1 } ∧
      (q = .sensorPower → v = some s.clamp.pwr) ∧ (q = .sensorReg 0x0101 → v = some (clampWord s.clamp).toNat) ∧
      (∀ n, q = .other n → v = none)))) ∧
  (∀ (s : State) (n m : Nat), (bundleLinks n).find? (fun k => k != n && !(s.link k).down) = some m → m ≠ n →
    let t := leaveService s n
    (t.link n).down = true ∧ (t.link n).replay = [] ∧ (t.link m).down = false ∧
    ((t.link m).replay.map (·.2)) = ((s.link m).replay.map (·.2)) ++ ((s.link n).replay.map (·.2)) ∧
    ((t.link m).resend.map (·.2)) = ((s.link m).resend.map (·.2)) ++ ((s.link n).replay.map (·.2)) ∧
    (∀ k, k ≠ n → k ≠ m → t.link k = s.link k))

/-! SXT, sessions and their commands. -/

/-- Frames that carry data, commands and another station's requests and answers (R23, R26, R29, R32, R57, R446): in order, each is performed and
acknowledged. The layouts of the payloads of RAT, RRS and COLL are opaque (log 13); what an opaque field out of its place draws is log 25's reading. -/
def Obligations.FramesInOrder : Prop :=
  ∀ (s : State) (p k : Nat) (f : Frame) (q : State),
    let c := q.chan k
    let peer := fun (kind : AKind) => ({ who := .none, kind := kind, mid := sxtMid, tgt := .cmn 0 0 } : Access)
    (inOrder s (fun f => f.typ == 0) p k f q → c.dir = 0 → streamRoom q k f.data.length f.nmk = true →
      ∃ r, performData q k f = some r ∧ exec .dataFrameRx s = .next (frameDone r k f) ∧
        (f.nmk = 0 → f.data = [] → (r.chan k).pos = c.pos ∧ r.mem = q.mem)) ∧
    (inOrder s (fun f => f.typ == 0) p k f q → c.dir ≠ 0 → exec .dataFrameRx s = .next (frameDone q k f)) ∧
    (inOrder s (fun f => (f.typ == 3 && !isOpenFrame f) || f.typ == 4) p k f q →
      (f.typ = 3 → c.chn = 0 → f.last = true → exec .cmdFrameRx s =
        .next (frameDone (addCmd (q.setChan k { c with msg := [] }) c.sid (cmdOf (c.msg ++ f.data))) k f)) ∧
      (f.typ = 3 → c.chn = 0 → f.last = false → exec .cmdFrameRx s =
        .next (frameDone (q.setChan k { c with msg := c.msg ++ f.data }) k f))) ∧
    (inOrder s (fun f => f.typ == 5) p k f q → ∃ r, exec .rrqRx s = .next (frameDone r k f) ∧
      peerAccess q k f { peer .read with n := leNat (f.data.take 8) } .plain = some r) ∧
    (inOrder s (fun f => f.typ == 7) p k f q → ∃ r, exec .rwrRx s = .next (frameDone r k f) ∧
      peerAccess q k f { peer .write with n := f.data.length, data := f.data } .plain = some r) ∧
    (inOrder s (fun f => f.typ == 8) p k f q →
      let d := Config.ratFields f.data
      let t := tyOfNum d.2.1
      let a := { peer .atomic with n := tyBytes t, fn := d.1, t := t, b := d.2.2.1, c := d.2.2.2 }
      ∃ r, exec .ratRx s = .next (frameDone r k f) ∧
        (if f.pos.toNat % tyBytes t ≠ 0 ∧ c.dir = 2 then r = refuse q { a with who := .peer k f.fsq } .align 0
         else peerAccess q k f a .atomic = some r)) ∧
    (inOrder s (fun f => f.typ == 6) p k f q →
      let d := Config.rrsFields f.data
      (requestOf q k d.1 = none → exec .rrsRx s = .next (frameDone q k f)) ∧
      (∀ i a, requestOf q k d.1 = some (i, a) → exec .rrsRx s =
        .next (frameDone (match d.2.2 with
          | some e => refuse (q.drop i) a (FCode.ofNum e.1) e.2
          | none => served q i a d.2.1 false) k f)) ∧
      (∀ i (a : Access) bs, a.rest = none → served q i a bs false = answer (q.drop i) a bs false)) ∧
    (inOrder s (fun f => f.typ == 9) p k f q → f.last = false →
      exec .collRx s = .next (frameDone (q.setChan k { c with msg := c.msg ++ f.data }) k f)) ∧
    (inOrder s (fun f => f.typ == 9) p k f q → f.last = true → c.dir = 2 →
      let d := Config.collFields (c.msg ++ f.data)
      let w := q.setChan k { c with msg := [] }
      (cidClosed w d.1 d.2.2.2.2.2.1 = false → exec .collRx s = .next (frameDone (w.send
        (.contrib d.1 d.2.1 d.2.2.1 d.2.2.2.1 d.2.2.2.2.1 d.2.2.2.2.2.1 d.2.2.2.2.2.2.1 d.2.2.2.2.2.2.2.1 d.2.2.2.2.2.2.2.2 w.ns)) k f)) ∧
      (cidClosed w d.1 d.2.2.2.2.2.1 = true → exec .collRx s = .next (frameDone w k f)))

/-- A frame ahead of the one expected draws a NAK, at most one in 4 µs; one behind it is acknowledged again; neither is performed (R26).
ACKF and NAK (R26, R27): their ACK and CRD are taken; a NAK makes every unacknowledged frame from ACK + 1 on leave again. -/
def Obligations.FramesSeenAgain : Prop :=
  (∀ (s u : State) (p : Nat) (x : RawFrame) (f : Frame), arriveFrame s (fun f => f.typ == 0) = .got u p x f → f.chn ≠ 0 → f.fsq < 65536 →
    let k := chanKey f.sid f.chn
    let d := (f.fsq + 65536 - (u.chan k).e) % 65536
    let q := takeAck u k f.ack f.crd
    (fget q.chans k).isSome = true → d ≠ 0 →
    (d < 32768 → exec .dataFrameRx s = .next (dropChan (sendNak q k) k)) ∧
    (32768 ≤ d → exec .dataFrameRx s = .next (dropChan (putControl q k 1) k))) ∧
  (∀ (s u : State) (p : Nat) (x : RawFrame) (f : Frame),
    let k := chanKey f.sid f.chn
    let h := if f.chn == 0 then u.modSession f.sid (fun y => { y with heard := u.ns }) else u
    let q := takeAck h k f.ack f.crd
    (fget q.chans k).isSome = true →
    (arriveFrame s (fun f => f.typ == 1) = .got u p x f → exec .ackfRx s = .next (dropChan q k)) ∧
    (arriveFrame s (fun f => f.typ == 2) = .got u p x f →
      exec .nakRx s = .next (dropChan (resend q k (fun y => fsqLe ((f.ack + 1) % 65536) y.frame.fsq) 0) k)))

/-- Timers of channels and sessions (R26, R27, R33, R61, R63). -/
def Obligations.SessionTimers : Prop :=
  (∀ (s : State) (k t : Nat) (c : Chan), fget s.chans k = some c → c.due = some t → t ≤ s.ns →
    let q := putControl s k 1
    exec (.ackTimer k) s = .next (resumeEgress (pump q k) k) ∧ (q.chan k).due = none ∧ (q.chan k).pend = 0 ∧
      (s.portOn c.port = true → sourceOk s c.port = true → rateRoom s c.port 0 = true →
        ∃ f, q.wire = s.wire ++ [(c.port, f)] ∧ f.typ = 1 ∧ f.ack = (c.e + 65535) % 65536 ∧ f.sid = c.sid ∧ f.chn = c.chn)) ∧
  (∀ (s : State) (k : Nat) (c : Chan), fget s.chans k = some c →
    let due := fun (u : Sent) => u.at_ + resendAfter u.tries ≤ s.ns
    ((∃ u ∈ c.unacked, due u) → (∀ u ∈ c.unacked, due u → u.tries < 7) →
      exec (.sxtRetransmitTimeout k) s = .next (resend s k due 1)) ∧
    ((∃ u ∈ c.unacked, due u ∧ 7 ≤ u.tries) → c.chn ≠ 0 → exec (.sxtRetransmitTimeout k) s =
      .next (finishClose (if c.closed then { s with chans := ferase s.chans k } else loseChan s k) c.sid))) ∧
  (∀ (s : State) (k : Nat) (a : Access) (t fsq : Nat), s.msg k = some (.remote a t fsq) → t ≤ s.ns →
    exec (.remoteTimeout k) s = .next (refuse (s.drop k) a .remtmo 0)) ∧
  (∀ (s : State) (k : Nat) (src : BitVec 128) (port : Nat) (nonce : W64) (sid since : Nat) (reply : List Byte),
    s.msg k = some (.openRec src port nonce sid since reply) → since + 100000000 ≤ s.ns →
    exec (.openRecordExpiry k) s = .next { s with net := s.net.eraseIdx k }) ∧
  (∀ (s : State) (sid : Nat) (x : Session), fget s.sessions sid = some x → x.keep ≠ 0 → x.heard + x.keep * 1000000000 ≤ s.ns →
    exec (.keepaliveTimeout sid) s = .next (quietClose s sid))

/-- OPEN (R61, R62): a well-formed OPEN that repeats none of the records takes the lowest free SID, with the features asked for, held and allowed,
and is answered on channel 0 of the new session; one whose frame carries CLS is closed at once (log 42).
What a new session holds (R61, R62): the intersection of the features, the source that opened it, nothing loaded; and its command channel expects
FSQ 1. -/
def Obligations.OpenSession : Prop :=
  (∀ (s u : State) (p sid : Nat) (x : RawFrame) (f : Frame), arriveFrame s isOpenFrame = .got u p x f →
    let m := f.data
    m.length = 48 → bytesAt m 0 1 = 1 → bytesZero m 1 3 = true → bytesAt m 8 4 = 32 → bytesZero m 12 4 = true →
    bytesAt m 40 4 ≤ 3600 → bytesZero m 44 4 = true → openRecord u x (BitVec.ofNat 64 (bytesAt m 16 8)) = none → freeSid u = some sid →
    let t := newSession u p sid x f { opc := 1, ctag := bytesAt m 4 4, body := m.drop 16 }
    (f.cls = false → exec .openSession s = .next t) ∧ (f.cls = true → exec .openSession s = .next (quietClose t sid))) ∧
  (∀ (u : State) (p sid : Nat) (x : RawFrame) (f : Frame) (c : Cmd),
    let t := newSession u p sid x f c
    ∃ y, fget t.sessions sid = some y ∧ y.g = (BitVec.ofNat 128 (bytesAt c.body 8 16) &&& Config.features &&& u.policy) ∧ y.src = x.src ∧
      y.srcPort = x.srcPort ∧ y.port = p ∧ y.keep = bytesAt c.body 24 4 ∧ y.open_ = 0 ∧ y.plans = [] ∧ y.segs = [] ∧ y.ring = [] ∧
      (t.chan (chanKey sid 0)).e = 1 ∧ (∀ i, i ≠ sid → fget t.sessions i = fget u.sessions i) ∧ t.mem = u.mem ∧ t.regions = u.regions)

/-- The commands of a session (R58, R64 to R70, R72). The command at the head of the session's queue is performed where its body is well formed and
what it asks for is to be had; it then completes with its tag. MAPWIN and LOADPLAN first end the UNMAPs and closes whose windows are closed, so that
their ranges are to be had again (R65). Where ranges lie (log 20), the counters of one instant (log 37), the form of READSNAP and the first mark of an
egress binding (log 42), and the statuses of malformed commands (log 26) are the model's choices.
A command whose body is malformed completes with that status and changes nothing else (R60). -/
def Obligations.HostCommands : Prop :=
  (∀ (s : State) (sid : Nat) (c : Cmd),
    let x := s.session sid
    (headCmd s sid 2 = some c → c.body.length = 32 → s.keys.q.length < 8 → exec (.attest sid) s =
      .next (refuseAll (popCmd (startQuote { s with keys := { s.keys with
        q := s.keys.q ++ [{ nonce := c.body, fw := quoteData sid x, sid := sid, ctag := c.ctag }] } }) sid) sid)) ∧
    (headCmd (reap s) sid 3 = some c → mapMalformed c.body = false → mapFeature ((reap s).session sid).g (mapReq c.body) = false →
      ∀ q va w, mapWindow (reap s) sid (mapReq c.body) (winRights (mapReq c.body).prs) sxtRights = .ok q va w → exec (.mapwin sid) s =
        .next (finish (unpark q sid) sid c .ok (leBytes va 8 ++ leBytes (mapReq c.body).die 2 ++ leBytes w 2 ++ leBytes 0 4))) ∧
    (headCmd s sid 4 = some c → ∀ g, c.body.length = 8 → bytesZero c.body 4 4 = true → bytesAt c.body 0 2 ≤ 3 → bytesAt c.body 2 2 ≤ 4095 →
      x.segs.find? (fun g => g.kind == 0 && g.die == bytesAt c.body 0 2 && g.win == bytesAt c.body 2 2) = some g →
      let key := bytesAt c.body 0 2 * 4096 + bytesAt c.body 2 2
      (c.begun = true → (s.win key).st = .closed → exec (.unmap sid) s = .next (finish (releaseSeg s sid g) sid c .ok [])) ∧
      (c.begun = false → winInUse s sid key = false → (s.win key).st = .opened → exec (.unmap sid) s =
        .next ((beginRetire s key (.lodge sid)).modSession sid (fun x => { x with cmds := { c with begun := true } :: x.cmds.drop 1 }))) ∧
      (c.begun = false → winInUse s sid key = true → exec (.unmap sid) s = .next (finish s sid c .state []))) ∧
    (headCmd s sid 5 = some c → bindMalformed c.body = false →
      let n := bindChan sid x.port c.body
      let k := chanKey sid n.chn
      let key := n.die * 4096 + n.win
      (fget s.chans k).any (fun y => !y.closed) = false → (s.chans.filter (fun y => y.2.sid == sid && !y.2.closed)).length < 256 →
      (s.chans.filter (fun y => !y.2.closed)).length < 16384 →
      (n.dir = 2 → x.g.getLsbD 5 = true → exec (.bindChannel sid) s = .next (finish (putControl (s.setChan k n) k 1) sid c .ok [])) ∧
      (x.segs.any (fun g => g.kind == 0 && g.die == n.die && g.win == n.win) = true →
        (n.dir = 0 → ∀ q, joinFill s key { by_ := .chan k, mid := sxtMid, cnt := n.rdc } = some q → exec (.bindChannel sid) s =
          .next (finish (putControl ((q.modWin key (fun w => { w with besz := n.esz })).setChan k n) k 1) sid c .ok [])) ∧
        (n.dir = 1 → (s.win key).st = .opened → exec (.bindChannel sid) s =
          .next (finish (resumeEgress (putControl (s.setChan k { n with
            sent := tailOf (s.win key)
            marks := firstMark s key (tailOf (s.win key) * tileSize (s.win key) / n.esz) (ringLeft (s.win key) (s.win key).mkt)
              (s.win key).mkt }) k 1) k) sid c .ok [])))) ∧
    (headCmd s sid 6 = some c → exec (.loadplan sid) s = .next (loadObject (reap s) sid c)) ∧
    ((∀ y ∈ s.sessions, (headCmd s y.1 4).any (·.begun) = false ∧ (s.session y.1).closing = false) → reap s = s) ∧
    (headCmd s sid 7 = some c → launchStatus s sid c.body = .ok → exec (.launch sid) s =
      .next (finish (acceptLaunch s sid c.body none).1 sid c .ok (leBytes (BitVec.ofNat 64 x.nextLid).toNat 8))) ∧
    (headCmd s sid 8 = some c → c.body.length = 8 → ∀ q, x.live.find? (fun l => l.1 == BitVec.ofNat 64 (bytesAt c.body 0 8)) =
        some (BitVec.ofNat 64 (bytesAt c.body 0 8), 0) →
      cancelLaunch s sid (BitVec.ofNat 64 (bytesAt c.body 0 8)) = some q → exec (.cancel sid) s = .next (finish q sid c .ok [])) ∧
    (headCmd s sid 9 = some c → c.body.length = 16 → bytesAt c.body 0 1 ≤ 1 → bytesZero c.body 1 7 = true →
      let q := if bytesAt c.body 0 1 = 1 then ringBell s else s
      let rs := (List.range 64).filter (fun r => (bytesAt c.body 8 8).testBit r && assigned q sid r)
      exec (.readsnap sid) s = .next (finish q sid c .ok (leBytes q.bell 8 ++ leBytes (rs.map (fun r => 2 ^ r)).sum 8 ++
        rs.flatMap (regionSnap q) ++ leBytes pkgidWord 8 ++ leBytes (clampWord q.clamp).toNat 8))) ∧
    (headCmd s sid 10 = some c → c.body.length = 8 → bytesZero c.body 2 6 = true →
      let n := min (bytesAt c.body 0 2) x.ring.length
      exec (.readfault sid) s = .next (finish (s.setSession sid { x with ring := x.ring.drop n, lost := 0 }) sid c .ok
        (leBytes x.lost 4 ++ leBytes n 4 ++ (x.ring.take n).flatMap (fun f => f.words.flatMap (fun w => leBytes w.toNat 8))))) ∧
    (headCmd s sid 11 = some c → c.begun = false → c.body = [] → exec (.closeSession sid) s =
      .next (finishClose (startClose s sid c (x.cmds.drop 1)) sid))) ∧
  (∀ (s : State) (sid : Nat) (c : Cmd),
    (headCmd s sid 2 = some c → c.body.length ≠ 32 → exec (.attest sid) s = .next (finish s sid c .malformed [])) ∧
    (headCmd (reap s) sid 3 = some c → mapMalformed c.body = true → exec (.mapwin sid) s = .next (finish (reap s) sid c .malformed [])) ∧
    (headCmd s sid 4 = some c → c.body.length ≠ 8 → exec (.unmap sid) s = .next (finish s sid c .malformed [])) ∧
    (headCmd s sid 5 = some c → bindMalformed c.body = true → exec (.bindChannel sid) s = .next (finish s sid c .malformed [])) ∧
    (headCmd s sid 7 = some c → launchMalformed c.body = true → exec (.launch sid) s = .next (finish s sid c .malformed [])) ∧
    (headCmd s sid 8 = some c → c.body.length ≠ 8 → exec (.cancel sid) s = .next (finish s sid c .malformed [])) ∧
    (headCmd s sid 9 = some c → c.body.length ≠ 16 → exec (.readsnap sid) s = .next (finish s sid c .malformed [])) ∧
    (headCmd s sid 10 = some c → c.body.length ≠ 8 → exec (.readfault sid) s = .next (finish s sid c .malformed [])) ∧
    (headCmd s sid 11 = some c → c.begun = false → c.body ≠ [] → exec (.closeSession sid) s = .next (finish s sid c .malformed [])))

/-! Scheduling. -/

/-- Grants, promotion, reservations and pre-emption requests (R76 to R81, R85, R90, R91).
What a pre-emption takes first (R78): no gang of a higher class than one that runs in a lower one, and among those of one class none that started
earlier than another. ISO and INT gangs are never taken. -/
def Obligations.SchedulingRows : Prop :=
  ((∀ (s : State) (die q : Nat) (ts : List Granted) (t : State), offerAt s false (die * 16 + q) = .ok ts →
    turnHasCome s (die * 16 + q) = true → grantAll s ts = some t → exec (.gangGrant die q) s = .next t) ∧
  (∀ (s : State) (die q : Nat) (l : Launch) (ls : List Launch), fgetD s.queues (die * 16 + q) [] = l :: ls → l.cls = 2 → l.promoted = false →
    l.since + 1000000 ≤ s.ns → exec (.batPromote die q) s =
      .next { s with queues := fset s.queues (die * 16 + q) ({ l with promoted := true } :: ls) }) ∧
  (∀ (s : State) (g : Nat) (i : Iso), (s.gang g).iso = some i → i.running = false → i.next ≤ s.ns →
    (∀ r ∈ (s.gang g).regions, (s.region r).gang = none ∧ partingHas s r = false) → exec (.isoActivation g) s =
      .next (launchGang (s.setGang g { s.gang g with
        started := s.ns, pre := none, iso := some { i with next := i.next + i.period, started := i.started + 1, running := true } }) g)) ∧
  (∀ (s : State) (g : Nat) (i : Iso), (s.gang g).iso = some i → i.running = true → (s.gang g).started + i.budget ≤ s.ns →
    exec (.budgetExpiry g) s =
      .next (if i.nact ≠ 0 ∧ i.nact ≤ i.started then endGang (gangRecord s g .budget) g 0 else releaseGang (dropReads (gangRecord s g .budget) g) g none)) ∧
  (∀ (s : State) (g t : Nat), slackEnd s g = some t → (s.gang g).pre = none → t ≤ s.ns + (s.gang g).drain →
    exec (.slackPreemptTimer g) s = .next (requestPre s g)) ∧
  (∀ (s : State) (g : Nat), needsRegions s = true → victim s = some g → exec (.preemptRequest g) s = .next (requestPre s g))) ∧
  (∀ (s : State) (g h : Nat) (x y : Gang), frising s.gangs = true → victim s = some g → fget s.gangs g = some x →
    2 ≤ x.launch.cls ∧ x.pre = none ∧
    (fget s.gangs h = some y → 2 ≤ y.launch.cls → y.pre = none → y.launch.cls ≤ x.launch.cls ∧
      (y.launch.cls = x.launch.cls → y.started ≤ x.started)))

/-- The drain, the save and the end (R78, R80, R85, R91, R150, R200): neither the save nor the end comes before the region's dirty lines stand
written; the regions of a gang that was aborted, whose lines are under way, stay apart until those are written. -/
def Obligations.DrainAndEndRows : Prop :=
  (∀ (s : State) (r : Nat) (x : Gang) (p : Phase), leaving s r = some x → x.park = none → (s.region r).closed = false →
    (s.region r).ended = false → (s.region r).stopped = some p → exec (.streamClose r) s =
      .next (pauseFills (s.modRegion r (fun y => { y with closed := true, ports := closeBoxes (fun b => b.d.sm != 2) y.ports })) r)) ∧
  (∀ (s : State) (r : Nat) (x : Gang), leaving s r = some x → drainEnds s x r = true → exec (.belvedereQuiescence r) s =
    .next (s.modRegion r (fun y => { y with quiet := true, ports := closeBoxes (fun _ => true) y.ports }))) ∧
  (∀ (s : State) (g t : Nat), let x := s.gang g
    x.pre = some t → x.park = none → x.regions ≠ [] → (∀ r ∈ x.regions, (s.region r).quiet = true ∨ (s.region r).ended = true) →
    (∃ r ∈ x.regions, (s.region r).ended = false) → s.ns ≤ t + x.drain →
    (∀ u, flushWhole s x.regions = (u, true) →
      exec (.saveComplete g) s = .next (requeue (releaseSaved u g (savedLaunch u g)) x (savedLaunch u g))) ∧
    (∀ u, flushWhole s x.regions = (u, false) → exec (.saveComplete g) s = .next u)) ∧
  (∀ (s : State) (g t : Nat), let x := s.gang g
    x.pre = some t → x.regions ≠ [] → t + x.drain ≤ s.ns → exec (.drainTimeout g) s = .next (endGang (gangRecord s g .drainovr) g 3)) ∧
  (∀ (s : State) (r g : Nat) (x : Gang), regionGang s r = some (g, x) → mayEnd s r = true →
    (∀ u, flushWhole s [r] = (u, false) → exec (.regionEnd r) s = .next u) ∧
    ∀ u, flushWhole s [r] = (u, true) →
    let t := u.modRegion r (fun y => { y with ended := true })
    ((∃ q ∈ x.regions, (t.region q).ended = false) → exec (.regionEnd r) s = .next t) ∧
    ((∀ q ∈ x.regions, (t.region q).ended = true) → x.iso = none → exec (.regionEnd r) s = .next (endGang t g 0)) ∧
    (∀ i, (∀ q ∈ x.regions, (t.region q).ended = true) → x.iso = some i → exec (.regionEnd r) s = .next (endActivation t g i))) ∧
  (∀ (s : State) (r : Nat) (p : Parting), regionGang s r = none → s.parting.find? (fun p => p.regions.contains r) = some p →
    (regionsWb s p.regions = true → exec (.regionEnd r) s = .next s) ∧
    (regionsWb s p.regions = false → exec (.regionEnd r) s = .next (finishParting { s with parting := s.parting.erase p } p)))

/-- Faults that become records and traps (R53, R83, R93, R94, R132, R221), and the bell.
A ring of the bell (R39, R53, R235, R251): BELLSQ counts, every region's counters are latched and cleared in the one step; a ring within
200 ns of one that latched merges with it. The fields of records that no rule gives (log 30), what a barrier that waits counts as (log 47), and that all
counters are latched at one instant (log 37) are the model's choices. -/
def Obligations.FaultAndBellRows : Prop :=
  ((∀ (s : State) (r n : Nat) (w : WaitFault) (rest : List WaitFault), (s.region r).gang = some n → (s.region r).faults = w :: rest →
    (s.region r).trap = none → betweenBlocks (s.core (r * 10)) = true → w.cyc < s.cyc → ∃ t, exec (.faultTrap r) s = .next t ∧
      (t.core (r * 10)).phase = .start (s.gang n).trap ∧ (t.core (r * 10)).inTrap = true ∧
      (t.core (r * 10)).pre = (List.range 8).zip w.rcd.words ∧ (t.region r).faults = rest ∧
      (t.region r).trap = some { src := w.src, rcd := w.rcd, resume := resumePhase (s.core (r * 10))
                                 inAction := (s.region r).parser.st == .action } ∧
      t.mem = s.mem ∧ (∀ k, k ≠ r * 10 → t.core k = s.core k) ∧ ∀ q, q ≠ r → t.region q = s.region q) ∧
  (∀ (s : State) (r n : Nat), (s.region r).gang = some n →
    (∀ w ∈ (s.region r).withheld, w.res = .pending → w.since + (s.region r).pglim * 1000 ≤ s.ns) → tokensIn s r = true ∨ barrierWaits (s.region r) = true →
    lastMove (s.region r) + 2 ^ (s.gang n).wdg ≤ s.cyc → faultHeld (s.region r) .wedge = false → exec (.wedgeTimeout r) s =
      .next (raiseRegion s r .wedge { code := 0x0701, mid := regionMid r 40 })) ∧
  (∀ (s : State) (r k slot t : Nat), (s.kiosk r k).run = some (slot, t) → t + 4096 ≤ s.cyc → faultHeld (s.region r) (.taskLong k) = false →
    exec (.taskLongTimeout r k) s = .next (raiseRegion s r (.taskLong k)
      { code := 0x0703, mid := coreMid (r * 10 + 1 + k), tag := ((fget (s.kiosk r k).slots slot).map (·.tt)).getD 0 })) ∧
  (∀ (s : State) (low : Nat) (rest : List Nat), s.inputs.bells = low :: rest →
    let u := { s with inputs := { s.inputs with bells := rest } }
    (20 ≤ low → (∀ t, s.bellLast = some t → t + 1000 ≤ s.ns) → exec .bellPinEdge s = .next (ringBell { u with bellLast := some s.ns })) ∧
    (low < 20 → exec .bellPinEdge s = .next u) ∧
    (∀ t, s.bellLast = some t → s.ns < t + 1000 → exec .bellPinEdge s = .next u))) ∧
  (∀ (s : State),
    (s.ns < s.bellEnd → ringBell s = s) ∧
    (s.bellEnd ≤ s.ns → (∀ r, ((s.region r).crs.ring.bind (·.dump)) = none) →
      let t := ringBell s
      t.bell = (s.bell + 1) % 2 ^ 32 ∧ t.bellEnd = s.ns + 200 ∧ t.mem = s.mem ∧ t.cores = s.cores ∧
      ∀ r < 64, let g := s.region r
      t.region r = { g with
        latSkips := g.skips, skips := []
        crs := { g.crs with
          latRcnt := g.crs.rcnt, latRsum := g.crs.rsum, dups := g.crs.dupsup, latBell := t.bell, rcnt := [], rsum := [], dupsup := 0 } }))

/-! Windows of the Commons. -/

/-- Fills, counted reads, plain accesses, notices, write-back and retirement (R100 to R111, R115). A fill's first bytes arrive before its tile is opened:
its target, and the backing of a prefetch or a win.fill, are checked then. A waiting access is checked once (log 8); a counted access by address
names its tile at each try (log 45); a write to a tile that has no fill acts on its slot (log 22). -/
def Obligations.WindowRows : Prop :=
  (∀ (s u : State) (w : Nat) (f : FillStream) (fs : List FillStream), let x := s.win w
    x.st = .opened → x.fills = f :: fs → f.seq = none → f.want = true → f.paused = false → f.bad = none → f.blocked = none →
    bulkFull f x.head = false →
    (fillArrives s w f = (false, u) → exec (.fillStart w) s = .next u) ∧
    (slotTile x (x.head % x.depth) = none → fillArrives s w f = (true, u) →
      let g := (u.win w).fills.head?.getD f
      exec (.fillStart w) s = .next (fillFirst (openTile u w g) w x.head g))) ∧
  (∀ (s u : State) (w : Nat) (f : FillStream), let x := s.win w
    (f.ok = true → isBulk f = false → fillArrives s w f = (true, s)) ∧
    (f.ok = false → isBulk f = false →
      (tileCheck s w x.head (if f.cnt == 0 then .write else .cfill) f.mid = (true, u) → ∃ z, fillArrives s w f = (true, setHeadFill u w z)) ∧
      (tileCheck s w x.head (if f.cnt == 0 then .write else .cfill) f.mid = (false, u) → fillArrives s w f = (false, fillRefused u w f))) ∧
    (let t := openTile s w f
     (t.win w).head = x.head + 1 ∧ (t.win w).prod = f.mid ∧ fget (t.win w).tiles x.head = some { c := f.cnt, by_ := f.mid } ∧
     (t.win w).fills.head? = some { f with seq := some x.head, want := false, ok := false, first := none, blocked := none } ∧
     t.mem = s.mem ∧ ∀ v, v ≠ w → t.win v = s.win v) ∧
    ((∀ r, f.by_ ≠ .carousel r) → f.first = none → ∀ n, fillFirst s w n f = s)) ∧
  (∀ (s : State) (w n : Nat) (f : FillStream) (fs : List FillStream) (y : Tile), let x := s.win w
    x.fills = f :: fs → f.seq = some n → fget x.tiles n = some y → tileSize x ≤ y.got → (∀ r, f.by_ ≠ .carousel r) →
    let z := noteReadyAll (s.setTile w n { y with st := if y.c == 0 then .res else .cnt })
    let g0 := { f with seq := none, filled := f.filled + 1 }
    let g := { g0 with want := isBulk f && !bulkFull g0 x.head }
    (x.st = .opened → exec (.fillLastByte w) s = .next (egressAll (setHeadFill z w g) w)) ∧
    (x.st ≠ .opened → exec (.fillLastByte w) s = .next (retireFill z w g))) ∧
  (∀ (s : State) (k n die w off : Nat) (a : Access), a.tgt = .win die w off → s.msg k = some (.counted a n) →
    let key := die * 4096 + w
    turnPast s key n a.mid = false → reaches s a.mid a.tgt = true →
    (a.epoch = none ∨ a.epoch = some (s.win key).gen →
      exec (.countedReadDeliver k) s = .next (answer (deliverRead (s.drop k) key n a.mid) a [] false)) ∧
    (∀ g, a.epoch = some g → g ≠ (s.win key).gen → exec (.countedReadDeliver k) s = .next (answer (s.drop k) a [] false))) ∧
  (∀ (s u : State) (k die w off : Nat) (a : Access), a.tgt = .win die w off → s.msg k = some (.crel a) →
    let key := die * 4096 + w
    let n := tileByAddress (s.win key) off
    (countedArrive s a.who key n a.mid = (.ready, u) →
      exec (.countedReadDeliver k) s = .next (answer (deliverRead (beginRead (u.drop k) key n) key n a.mid) a [] false)) ∧
    (countedArrive s a.who key n a.mid = (.over, u) →
      exec (.countedReadDeliver k) s = .next (refuse (u.drop k) a .rdexcess (n % 2 ^ 32)))) ∧
  (∀ (s u : State) (k ma : Nat) (a : Access), s.msg k = some (.plain a) →
    (a.locate s = .at_ u ma →
      (a.kind = .write →
        (descAt ma = none → exec (.tilePlainAccess k) s = .next (served (u.storeMem ma a.data a.poi) k a [] false)) ∧
        (∀ v, u.storeHome a.mid ma a.data a.poi = some v → exec (.tilePlainAccess k) s = .next (served v k a [] false)) ∧
        (u.storeHome a.mid ma a.data a.poi = none → exec (.tilePlainAccess k) s = .next (refuse (u.drop k) a .desc 0))) ∧
      (a.kind ≠ .write → exec (.tilePlainAccess k) s = .next (served u k a (u.loadMem ma a.n).1 (u.loadMem ma a.n).2))) ∧
    (∀ d w c o, a.locate s = .remote u d w c o → exec (.tilePlainAccess k) s = .next (sendOn u k a d w c o)) ∧
    (∀ c cause, a.locate s = .refused u c cause → exec (.tilePlainAccess k) s = .next (refuse (u.drop k) a c cause))) ∧
  (∀ (s : State) (k w n m : Nat) (f : FillStream) (fs : List FillStream), s.msg k = some (.notice w n m) →
    pathUp s (w / 4096) (m / 8192) = true → (s.win w).fills = f :: fs →
    (f.blocked = some n → exec (.freedSlotNotice k) s = .next (setHeadFill (s.drop k) w { f with blocked := none })) ∧
    (f.blocked ≠ some n → exec (.freedSlotNotice k) s = .next (s.drop k))) ∧
  (∀ (s : State) (w n : Nat) (y : Tile), let x := s.win w
    let m := min (tileSize x) (x.blen - n * tileSize x)
    let a := x.bbase + n * tileSize x
    let src := cmnAddr (w / 4096) (slotAddr x n)
    fget x.tiles n = some y → y.st = .wb → x.kind = 1 → exec (.writebackComplete w n) s = .next ((writeOut s w src a m y.by_).freeTile w n) ∧
      (∀ u, 0 < m → a % 4096 + m ≤ 4096 → checkAt s (hbmAddr a) m .write y.by_ = (true, u) →
        let t := (writeOut s w src a m y.by_).freeTile w n
        t.mem = writeBytes s.mem (hbmAddr a) (s.loadMem src m).1 ∧ t.win w = { x with tiles := ferase x.tiles n }) ∧
      (∀ u, 0 < m → a % 4096 + m ≤ 4096 → checkAt s (hbmAddr a) m .write y.by_ = (false, u) →
        (writeOut s w src a m y.by_).mem = s.mem)) ∧
  (∀ (s : State) (w : Nat), let x := s.win w
    x.st = .retiring → x.shortDue = false → ∃ t, exec (.windowRetire w) s = .next t ∧ t.mem = s.mem ∧
      t.win w = { x with tiles := x.tiles.filterMap (fun y =>
        if y.2.st == .cnt || y.2.st == .res then (if y.2.dirty && x.kind != 0 then some (y.1, { y.2 with st := .wb, got := 0 }) else none)
        else some y) } ∧ ∀ v, v ≠ w → t.win v = s.win v) ∧
  (∀ (s : State) (w : Nat), let x := s.win w
    x.st = .retiring → x.shortDue = false → x.tiles = [] → x.fills = [] → fgetD s.wq w [] = [] → exec (.windowClosed w) s =
      .next (s.setWin w { x with st := .closed, head := 0, mkh := 0, mkt := 0, prod := 0xFFFF, closer := .none, closing := false, fills := [] })) ∧
  (∀ (s : State) (w : Nat) (f : FillStream) (fs : List FillStream), let x := s.win w
    x.fills = f :: fs → f.pf = true → f.seq = none → f.bad = none → bulkFull f x.head = true →
    (f.tok = none → exec (.prefetchDone w) s = .next (endHeadFill s w)) ∧
    (∀ r m q tag, f.tok = some (r, m, q, tag) → r < 64 →
      let y := s.site r (mstSite m)
      (fgetD y.q q []).length < 4 → exec (.prefetchDone w) s =
        .next (moved ((endHeadFill s w).setSite r (mstSite m) { y with
          q := fset y.q q (fgetD y.q q [] ++ [{ kind := .ctl, v := BitVec.ofNat 32 f.filled, tag := tag }]) }) r (mstSite m))))

/-- A delivered tile (R105, R106): the count falls by one; at zero the slot is free and one notice is sent to the producer. The
cycle noted is one of the Commons clock (log 39).
What a counted read finds (R100, R107, R110). -/
def Obligations.CountedReads : Prop :=
  (∀ (s : State) (w n mid : Nat) (y : Tile), fget (s.win w).tiles n = some y → y.st = .cnt → (s.win w).mkd = false →
    let t := deliverRead s w n mid
    (2 ≤ y.c → fget (t.win w).tiles n = some { y with c := y.c - 1, rd := y.rd - 1, ev := some (commonsCycle s, mid) } ∧ t.net = s.net) ∧
    (y.c ≤ 1 → t.win w = { s.win w with tiles := ferase (s.win w).tiles n } ∧ t.net = s.net ++ [.notice w n (s.win w).prod]) ∧
    t.mem = s.mem ∧ (∀ m, m ≠ n → frising (s.win w).tiles = true → fget (t.win w).tiles m = fget (s.win w).tiles m)) ∧
  (∀ (x : Window) (n : Nat),
    (x.st ≠ .opened → countedRes x n = .notOpen) ∧
    (x.st = .opened →
      (fget x.tiles n = none → n < x.head → countedRes x n = .over) ∧ (fget x.tiles n = none → x.head ≤ n → countedRes x n = .wait) ∧
      (∀ y, fget x.tiles n = some y →
        (y.st = .fill ∨ y.st = .wb → countedRes x n = .wait) ∧ (y.st = .res → countedRes x n = .over) ∧
        (y.st = .cnt → countedRes x n = (if y.rd < y.c then .ready else .wait)))))

/-- Window commands (R435), each in its turn. -/
def Obligations.WindowCommands : Prop :=
  ∀ (s u : State) (w : Nat) (d : Desc) (ds : List Desc), d.told = false → mayComplete s d = true → winRight s w d = (true, u) →
    let mine := fun (f : FillStream) => f.by_ == .core d.by_.core && f.nt.isSome && f.addr == d.addr.toNat
    let nt := nbits (d.word 4) 31 0
    (winHead s w 0x08 = some (d, ds) → (u.win w).st = .closed → exec (.winOpen w) s = .next (winDone u w d ds 0 (fun s => openWindow s w))) ∧
    (winHead s w 0x08 = some (d, ds) → (u.win w).st = .opened → exec (.winOpen w) s = .next (winRefused u w d ds .winstate)) ∧
    (winHead s w 0x09 = some (d, ds) → (s.win w).fills.find? mine = none → (s.win w).st = .opened → (s.win w).kind ≠ 0 → 0 < nt → ∀ q,
      joinFill u w { by_ := .core d.by_.core, mid := coreMid d.by_.core, cnt := nbits (d.word 4) 39 32, nt := some nt, want := true
                     addr := d.addr.toNat } = some q → exec (.winFill w) s = .next q) ∧
    (∀ f, winHead s w 0x09 = some (d, ds) → (s.win w).fills.find? mine = some f → f.bad = none → f.filled = nt →
      exec (.winFill w) s = .next (winDone s w d ds nt (fun s => endFills s w mine))) ∧
    (winHead s w 0x0A = some (d, ds) → (u.win w).st = .opened → (nbit (d.word 4) 0 = false ∨ ncnt (u.win w) = 0) →
      exec (.winClose w) s = .next ((beginRetire u w (.core d.by_.core)).modWin w (fun x => { x with closing := true }))) ∧
    (winHead s w 0x0A = some (d, ds) → ((u.win w).st = .closed ∨ ((u.win w).st = .retiring ∧ (u.win w).closing = false)) →
      exec (.winClose w) s = .next (winRefused u w d ds .winstate))

/-! Homes: presence, releases and acquires, atomics, chains, translations. -/

/-- Presence words, releases, acquires, line requests and atomics at their homes (R146 to R149, R373, R376, R378). A write tells the reads that wait
for the word what they will answer. -/
def Obligations.HomeRows : Prop :=
  ∀ (s u : State) (k ma : Nat) (a : Access),
    (s.msg k = some (.presence a) → a.kind = .pWrite → a.locate s = .at_ u ma →
      (smem s.full (presWord a.tgt) = false →
        let v := tellDeferred ((u.drop k).storeMem ma a.data a.poi) a
        exec (.presenceWrite k) s = .next (answer { v with full := sinsert v.full (presWord a.tgt) } a [] false)) ∧
      (smem s.full (presWord a.tgt) = true → exec (.presenceWrite k) s = .next (refuse ((endArrival s a.key).drop k) a .presence 0))) ∧
    (s.msg k = some (.presence a) → a.kind = .pRead → a.locate s = .at_ u ma →
      (smem s.full (presWord a.tgt) = true →
        exec (.presenceRead k) s = .next (answer (u.drop k) a (u.loadMem ma 8).1 (u.loadMem ma 8).2)) ∧
      (smem s.full (presWord a.tgt) = false → deferredAt s (presBank s a.tgt) < 64 →
        exec (.presenceRead k) s = .next ((noteArrival u a.key).putMsg k (.deferred a)))) ∧
    (s.msg k = some (.deferred a) → a.data ≠ [] →
      exec (.presenceDeferralEnd k) s = .next (answer ((endArrival s a.key).drop k) a a.data a.poi)) ∧
    (∀ x, NetMsg.deferred x ∈ s.net → presWord x.tgt = presWord a.tgt →
      NetMsg.deferred { x with data := a.data, poi := a.poi } ∈ (tellDeferred s a).net) ∧
    (s.msg k = some (.release a) → a.locate s = .at_ u ma →
      (a.epoch = none → exec (.releaseAtHome k) s = .next (answer ((u.drop k).storeMem ma a.data a.poi) a [] false)) ∧
      (∀ e core i b, a.epoch = some e → a.who = .op core i b → syncRoom s (syncKey a.tgt ma) core = true →
        let t := (u.drop k).storeMem ma a.data a.poi
        let v := syncKey a.tgt ma
        exec (.releaseAtHome k) s =
          .next (answer { t with sync := fset t.sync v (fgetD t.sync v [] ++ [{ core := core, epoch := e, scope := a.scope }]) } a [] false))) ∧
    (∀ core i, s.msg k = some (.acquire a) → a.locate s = .at_ u ma → a.who = .slot core i →
      (scopeWide a.scope = false → exec (.acquireAtHome k) s = .next (answer (u.drop k) a (u.loadMem ma 8).1 (u.loadMem ma 8).2)) ∧
      (scopeWide a.scope = true → let v := acquireClear u (syncKey a.tgt ma) core a.scope
        acquireNeeds v (syncKey a.tgt ma) core a.scope = [] → exec (.acquireAtHome k) s =
          .next ((answer (v.drop k) a (v.loadMem ma 8).1 (v.loadMem ma 8).2).modCore core invalidateClean))) ∧
    (∀ core e var t, s.msg k = some (.lineReq core e var) →
      writeBack s core (fun l => l.dirty != 0 && l.epochs.contains e) false = (t, true) → exec (.lineRequest k) s = .next (t.drop k)) ∧
    (s.msg k = some (.atomic a) → a.locate s = .at_ u ma →
      ((s.loadMem ma a.n).2 = false → exec (.atomicAtHome k) s =
        .next (answer ((u.drop k).storeMem ma
          (leBytes (atomicNew a.fn a.t (BitVec.ofNat 64 (leNat (s.loadMem ma a.n).1)) a.b a.c).toNat a.n) false) a (s.loadMem ma a.n).1 false)) ∧
      ((s.loadMem ma a.n).2 = true → exec (.atomicAtHome k) s = .next (answer ((endArrival s a.key).drop k) a (s.loadMem ma a.n).1 true)))

/-- Chains at their home (R151 to R155): an eligible access with nothing of its chain under way, and no refused one that waits, is forwarded, a null one
is performed at the home, another is held; a performed one, in HBM or in the window's tile, advances its chain and the earliest eligible one held
follows; a chain whose oldest held entry has waited GAPLIM closes, and every held entry is told F_GAP.
A chain's advance (R152): the last forwarded sequence number becomes the access's, and what it names as its successor is what may follow. Chained
accesses of one issuer may arrive in any order (log 9). -/
def Obligations.TurnstileRows : Prop :=
  ((∀ (s u : State) (k : Nat) (a : Access), s.msg k = some (.chain a) →
    let key := chainKey a.gang (chainOf a).ch
    pathUp s (a.mid / 8192) (chainDie s key) = true →
    (∀ b, chainCheck s a = (some b, u) → exec (.chainArrival k) s = .next (chainArrive (u.drop k) key b)) ∧
    (chainCheck s a = (none, u) →
      exec (.chainArrival k) s = .next (refuse (chainRefused (u.drop k) key (fgetD s.chains key {}) a) a .access 0))) ∧
  (∀ (s : State) (key : Nat) (a : Access), let c := fgetD s.chains key {}
    (eligible c a = true → c.flying = false → stuck c = false →
      (nullLink a = false → chainArrive s key a = { s with chains := fset s.chains key { c with flying := true } }.send (.chained a)) ∧
      (nullLink a = true → chainArrive s key a =
        chainPump (answer { s with chains := fset s.chains key (chainAdvance c a) } a [] false) key (c.held.length + 1))) ∧
    ((eligible c a = false ∨ c.flying = true ∨ stuck c = true) →
      (heldAt s (chainHome s key) < 256 → chainArrive s key a =
        { s with chains := fset s.chains key { c with held := c.held ++ [{ a with since := s.ns }] } }) ∧
      (256 ≤ heldAt s (chainHome s key) → chainArrive s key a = refuse s a .tsfull 0))) ∧
  (∀ (s v : State) (k ma : Nat) (a : Access), s.msg k = some (.chained a) → chainAt s a = (.at_ v ma, a.back) →
    let key := chainKey a.gang (chainOf a).ch
    let c := fgetD s.chains key {}
    let u := v.drop k
    let done := fun (v : State) => { v with chains := fset v.chains key { chainAdvance c a with flying := false } }
    pathUp s (chainDie s key) (tgtDie a.tgt) = true →
    (a.kind = .chWrite → exec (.chainPerformed k) s =
      .next (chainPump (answer (done (u.storeMem ma a.data a.poi)) a [] false) key (c.held.length + 1))) ∧
    (a.kind ≠ .chWrite → exec (.chainPerformed k) s =
      .next (chainPump (answer (done u) a (u.loadMem ma a.n).1 (u.loadMem ma a.n).2) key (c.held.length + 1)))) ∧
  (∀ (s : State) (a : Access),
    (∀ p, a.tgt = .hbm p → chainAt s a = (.at_ s (hbmAddr p), false)) ∧
    (∀ d x off n ma, a.tgt = .win d x off → windowRes d (s.win (d * 4096 + x)) off (a.kind == .chWrite) false = .tile n ma →
      (a.kind = .chWrite → chainAt s a = (.at_ (dirtyTile s (d * 4096 + x) n) ma, false)) ∧
      (a.kind ≠ .chWrite → chainAt s a = (.at_ s ma, false)))) ∧
  (∀ (s : State) (key : Nat) (a : Access) (rest : List Access), let c := fgetD s.chains key {}
    c.held = a :: rest → (fgetD s.gangs (key / 256) {}).pre = none → a.since + s.gapLim.getD (chainDie s key) 50 * 1000 ≤ s.ns →
    frising s.chains = true → (∀ b ∈ a :: rest, ∃ core i ba, b.who = .op core i ba) →
    ∃ t, exec (.gapTimeout key) s = .next t ∧ fget t.chains key = gapClosed c ∧ t.mem = s.mem ∧
      t.gaps = s.gaps.set (chainDie s key) ((s.gaps.getD (chainDie s key) 0 + 1) % 65536) ∧
      ∀ b ∈ a :: rest, ∀ core i ba, b.who = .op core i ba → ∃ f, NetMsg.fault core f none ∈ t.net ∧ f.code = FCode.gap.num)) ∧
  (∀ (c : ChainSt) (a : Access) (x : Chain4), a.chain = some x →
    (eligible c a = true ↔ (x.pd = c.l ∧ (c.sl = x.sq ∨ c.sl = 0xFFFFFF)) ∨ (x.pd = 0xFFFFFF ∧ c.sl = x.sq)) ∧
    (x.sc ≠ 0 → chainAdvance c a = { c with l := x.sq, sl := x.sc }) ∧ (x.sc = 0 → chainAdvance c a = { c with l := 0, sl := 0xFFFFFF })) ∧
  ({} : ChainSt).l = 0 ∧ ({} : ChainSt).sl = 0xFFFFFF ∧
  (∀ (s : State) (key n : Nat), let c := fgetD s.chains key {}
    c.flying = false → stuck c = false →
    (c.held.find? (eligible c) = none → chainPump s key (n + 1) = s) ∧
    (∀ a, c.held.find? (eligible c) = some a →
      (nullLink a = false → chainPump s key (n + 1) =
        { s with chains := fset s.chains key { c with held := c.held.erase a, flying := true } }.send (.chained a)) ∧
      (nullLink a = true → chainPump s key (n + 1) =
        chainPump (answer { s with chains := fset s.chains key (chainAdvance { c with held := c.held.erase a } a) } a [] false) key n)))

/-- Translation on the fabric and invalidation (R126 to R136, R245). -/
def Obligations.TranslationRows : Prop :=
  (∀ (s : State) (r t : Nat) (h : Token), let n := tlkSite t
    let x := s.site r n
    t < 8 → tileReady s r n 0xF2 = true → kvMark x = false → kvFull x (s.tlk r t) = false → tlkPinnedFull (s.tlk r t) = false → qHead x 0 = some h →
    (h.kind ≠ .data → exec (.tlkTranslate r t) s = .next (putSite s r n (emitEl (popQ x 0) h))) ∧
    (h.kind = .data → tlkKv x = false → let a := tlkAddr (s.region r).layout x h.tag h.v
      (∀ c cause, tlkLook s r t (s.tlk r t) a = .refuse c cause →
        exec (.tlkTranslate r t) s = .next (putSite (endWalk s r (tlkKey r t) a) r n (emitEl (popQ x 0) (faultTok c cause h.tag)))) ∧
      (∀ i e q, tlkLook s r t (s.tlk r t) a = .hit i e →
        tlkEmit (endWalk s r (tlkKey r t) a) r t (popQ x 0) i e a h.tag h.poi = some q → exec (.tlkTranslate r t) s = .next q) ∧
      (∀ b, tlkLook s r t (s.tlk r t) a = .miss b → walking (s.region r) (tlkKey r t) b = false → (s.region r).walks.length < 16 →
        exec (.tlkTranslate r t) s = .next (s.setRegion r { s.region r with
          walks := (s.region r).walks ++ [(tlkKey r t, b)], miss := ((s.region r).miss + 1) % 2 ^ 32 })) ∧
      (∀ b c, tlkLook s r t (s.tlk r t) a = .miss b → heldRes (s.region r) (tlkKey r t) b = some (.fault c) → (s.tlk r t).walked = none → x.out = [] →
        exec (.tlkTranslate r t) s = .next (if b = a then tlkFail (endWalk s r (tlkKey r t) b) r t .xlate c
          else tlkFail (endWalk s r (tlkKey r t) b) r t .straddle 0)) ∧
      (∀ b c cs, tlkLook s r t (s.tlk r t) a = .miss b → (∀ e, heldRes (s.region r) (tlkKey r t) b ≠ some (.fault e)) → walking (s.region r) (tlkKey r t) b = true →
        laterMisses s r t x (s.tlk r t) = c :: cs → (s.region r).walks.length < 16 →
        exec (.tlkTranslate r t) s = .next (s.setRegion r { s.region r with
          walks := (s.region r).walks ++ [(tlkKey r t, c)], miss := ((s.region r).miss + 1) % 2 ^ 32 })))) ∧
  (∀ (s : State) (r k t : Nat) (a : W64), (s.region r).walks[k]? = some (tlkKey r t, a) → t < 8 →
    exec (.walkComplete r k) s = .next (tlkWalked s r t a)) ∧
  (∀ (s : State) (r k : Nat) (w : Withheld), (s.region r).withheld[k]? = some w →
    (w.last + 2000 ≤ s.ns → w.res = .pending → (s.region r).walks.length < 16 → kvHolds s r w = false →
      exec (.walkerRetry r k) s = .next (retryWithheld (walkedNow s r k w) r w)) ∧
    (s.ns < w.last + 2000 → exec (.walkerRetry r k) s = .next s)) ∧
  (∀ (s : State) (r n : Nat) (w : Withheld), (s.region r).gang = some n →
    (s.region r).withheld.find? (fun w => w.res == .pending && w.since + (s.region r).pglim * 1000 ≤ s.ns) = some w → (s.gang n).park = none →
    ∃ f, exec (.pglimTimeout r) s = .next (regionRecord (requestPre (s.setGang n { s.gang n with park := some f }) n) r f) ∧
      f.code = 0x040B ∧ f.opa = w.va ∧ f.flg = 5) ∧
  (∀ (s : State) (r t : Nat), let n := tlkSite t
    let x := s.site r n
    let k := s.tlk r t
    t < 8 → tileReady s r n 0xF2 = true → kvMark x = true →
    (k.walked = none → kvFull x k = false → exec (.kvRetry r t) s = .next (s.setTlk r t { k with
      walked := some 0, resume := []
      retry := k.resume.map (fun e =>
        (setField (s.region r).layout (iterField x) e.1 (getField (s.region r).layout (iterField x) ((qHead x 0).getD {}).tag), e.2)) })) ∧
    (k.walked ≠ none → k.retry = [] → exec (.kvRetry r t) s =
      .next (putSite (s.setTlk r t { k with walked := none }) r n (emitEl (popQ x 0) ((qHead x 0).getD {}))))) ∧
  (∀ (s : State) (k core lo hi : Nat) (ds : List (Nat × Nat)), s.msg k = some (.inval core lo hi [] false ds) → core < 640 →
    exec (.invalidationStart k) s = .next (s.putMsg k (.inval core lo hi [] true []))) ∧
  (∀ (s : State) (k core lo hi : Nat) (rs : List Nat), s.msg k = some (.inval core lo hi rs true []) →
    exec (.invalidationComplete k) s = .next ((s.drop k).modCore core (fun c => { c with invs := c.invs - 1 })))

/-! The fabric. -/

/-- Tokens on tracks, elements that fire in order and by matching, arc completions (R163 to R170, R176).
The rows of elements, each by its opcodes, all under one rule (R166, R170, R394 to R418): an element that has its operands and no emission
waiting fires, in order or by matching. Of elements that draw from one allocator in one cycle none draws after a higher site (R173): one whose
firing would draw so does not act, and each draw is noted with its cycle and site. That a guard keeps the order is the model's form of it (log 39). -/
def Obligations.FabricRows : Prop :=
  ((∀ (s : State) (r n trk g : Nat), (s.region r).gang = some g → n < 1024 → trk < 8 → leadMark s r n trk = false →
    exec (.tokenHop r n trk) s = .next (hop (countLead s r n trk) r n trk)) ∧
  (∀ (s : State) (r n : Nat), elemReady s r n = true → (s.site r n).act.matched = false → pendingOut (s.site r n) = false →
    exec (.elementFireOrdered r n) s = .next (drawOrder r n s (fireOrdered s r n true true))) ∧
  (∀ (s : State) (r n : Nat), elemReady s r n = true → pendingOut (s.site r n) = true →
    exec (.elementFireOrdered r n) s = .next (drawOrder r n s (firePending s r n))) ∧
  (∀ (s : State) (r n g : Nat), (s.region r).gang = some g → n < 1024 → (s.site r n).frozen = none → siteKind n = .fe →
    (s.site r n).act.matched = true → (s.site r n).act.fop ≠ 0 → exec (.matchedStoreTake r n) s =
      .next (matchedTake s r n 16 (s.site r n).act.arity)) ∧
  (∀ (s : State) (r n : Nat), elemReady s r n = true → (s.site r n).act.matched = true → isMemPort (s.site r n).act.fop = false →
    pendingOut (s.site r n) = false → exec (.matchedIssue r n) s = .next (drawOrder r n s (issueMatched s r n))) ∧
  (∀ (s : State) (k r y : Nat) (t : W64), s.msg k = some (.arc r y t) → isMemPort ((s.drop k).site r (y * 32 + 1)).act.fop = false →
    exec (.arcCompletion k) s =
      .next ((s.drop k).setSite r (y * 32) { (s.drop k).site r (y * 32) with arc := ((s.drop k).site r (y * 32)).arc ++ [t] }))) ∧
  (∀ (s : State) (r n : Nat), elemReady s r n = true →
    let x := s.site r n
    let f := x.act.fop
    let next := fun (q : Bool) (i : Instr) => q = true → exec i s = .next (drawOrder r n s
      (if pendingOut x then firePending s r n else if x.act.matched then issueMatched s r n else fireOrdered s r n true false))
    next (1 ≤ f && f ≤ 0x10) (.elementArith r n) ∧ next (f == 0x11 || f == 0x15) (.elementFmaScl r n) ∧
    next (0x12 ≤ f && f ≤ 0x14) (.elementCompareSelect r n) ∧ next (0x18 ≤ f && f ≤ 0x1A) (.elementConvert r n) ∧
    next (f == 0x1B) (.elementUnpk r n) ∧ next (f == 0x1C) (.elementPack r n) ∧ next (hasAcc f) (.elementAccumulate r n) ∧
    next (f == 0x28) (.elementMrg r n) ∧ next (f == 0x29 || f == 0x2A) (.elementSteerGate r n) ∧ next (f == 0x2B) (.elementRpt r n) ∧
    next (f == 0x30) (.elementTag r n) ∧ next (f == 0x31) (.elementMkgen r n) ∧ next (f == 0x38) (.elementCfw r n)) ∧
  (∀ (s t : State) (r n : Nat),
    ((∀ f ∈ drewOf (s.region r) (t.region r), ∀ c m, fget (s.region r).drawn f = some (c, m) → c = s.cyc → m ≤ n) →
      drawOrder r n s t = noteDraws r n s t) ∧
    (∀ f ∈ drewOf (s.region r) (t.region r), ∀ m, fget (s.region r).drawn f = some (s.cyc, m) → n < m → drawOrder r n s t = s) ∧
    (∀ f ∈ drewOf (s.region r) (t.region r), fget ((noteDraws r n s t).region r).drawn f = some (s.cyc, n)) ∧
    (drewOf (s.region r) (t.region r) = [] → noteDraws r n s t = t))

/-! Memory ports, boxes, tiles. -/

/-- Memory-port elements (R411 to R418): an ordered element takes its data set as one request, and issues the oldest request that has not left;
a fence token at q0 is taken alone; the oldest request's answer is emitted. -/
def Obligations.MemoryPortRows : Prop :=
  (∀ (s v : State) (r n : Nat) (h : Token) (ts : List Token) (o : Site), elemReady s r n = true →
    let u := portSettle s r (n / 32)
    let x := u.site r n
    let f := (s.site r n).act.fop
    x.reqs.length < 16 → qHead x 0 = some h → h.kind = .data → x.act.matched = false → takeOrdered x.act (qHeads x x.act.arity) = .data ts →
    portData u r n (popQs x x.act.arity) (ts.headD {}).tag ts = .go v o →
    elemReady u r n = true →
    let done := Host.Outcome.next (drawOrder r n s (portSettle (issueReq v r n) r (n / 32)))
    ((f = 0x40 ∨ f = 0x41) → exec (.elementMrdMwr r n) s = done) ∧ (f = 0x44 → exec (.elementMrdk r n) s = done) ∧
    ((f = 0x42 ∨ f = 0x43) → exec (.elementMrdcMwrc r n) s = done) ∧ (f = 0x45 → exec (.elementMfen r n) s = done)) ∧
  (∀ (s : State) (r n : Nat) (x : Site) (tag tg : W64) (a b : Token) (u : State), outTag s r x.act tag [a, b] 0 = some (tg, u) → a.poi = false →
    let pin := if portApt x then none else some (portTlk x * 512 + a.v.toNat / 2 ^ 23)
    let q : MemReq := { id := freshReq x, kind := .read, addr := a.v.toNat, tag := tag, otag := tg, val := b.v, pinned := pin }
    (x.act.fop = 0x40 → portData s r n x tag [a, b] = .go (putSite u r n { x with
      cnt := x.cnt + 1, reqs := x.reqs ++ [q] }) (u.site r n)) ∧
    (x.act.fop = 0x41 → portData s r n x tag [a, b] = .go (putSite u r n { x with
      cnt := x.cnt + 1, reqs := x.reqs ++ [{ q with kind := .write, poi := b.poi }] }) (u.site r n)) ∧
    (x.act.fop = 0x44 → portData s r n x tag [a, b] = .go (putSite u r n { x with
      cnt := x.cnt + 1, reqs := x.reqs ++ [{ q with kind := .cread }] }) (u.site r n))) ∧
  (∀ (s : State) (r n : Nat) (h : Token), elemReady s r n = true → isMemPort (s.site r n).act.fop = true → qHead (s.site r n) 0 = some h →
    h.kind = .ctl → h.lvl = 2 → let u := portSettle s r (n / 32)
    elemReady u r n = true → qHead (u.site r n) 0 = some h → (u.site r n).act.fop = (s.site r n).act.fop → (u.site r n).reqs.length < 16 →
    exec (.elementMfen r n) s = .next (drawOrder r n s (portSettle (issueReq (portControl u r n h) r n) r (n / 32)))) ∧
  (∀ (s : State) (r n : Nat) (q : MemReq) (qs : List MemReq) (ws : List (W32 × Bool)), elemReady s r n = true →
    isMemPort (s.site r n).act.fop = true → let u := portSettle s r (n / 32)
    (u.site r n).reqs = q :: qs → q.st = .done ws → (q.sent = true ∨ q.isAccess = false) →
    (q.tile = none → exec (.memoryPortResponse r n) s =
      .next (putSite u r n ((reqTokens q ws).foldl emitEl { u.site r n with reqs := qs }))) ∧
    (∀ w m, q.tile = some (w, m) → exec (.memoryPortResponse r n) s =
      .next ((putSite u r n ((reqTokens q ws).foldl emitEl { u.site r n with reqs := qs })).send (.counted
        { who := .none, kind := .cread, mid := regionMid r (n / 32), tgt := .win (w / 4096) (w % 4096) 0, epoch := some q.gen } m))))

/-- Boxes (R422 to R434): the first chain of a KIND that can move moves. A plain copy reads the element at its source, writes it at its
destination, and counts it; a box that has come to a fault freezes its port; one that has ended completes. What AUX holds of a box's F_XLATE is the model's
reading (log 45). -/
def Obligations.BoxRows : Prop :=
  (∀ (s v : State) (r y k : Nat) (c : BoxChain) (cs : List BoxChain), portReady s r y = true → let u := discardLoose s r y
    (u.pt r y).chains = c :: cs → c.box.d.kind = k → boxMove u r y 0 = (true, v) →
    (k = 1 → exec (.boxCp r y) s = .next (noteAsked v r y 0)) ∧ (k = 2 → exec (.boxGath r y) s = .next (noteAsked v r y 0)) ∧
    (k = 3 → exec (.boxScat r y) s = .next (noteAsked v r y 0)) ∧ (k = 4 → exec (.boxGl r y) s = .next (noteAsked v r y 0))) ∧
  (∀ (s u v : State) (r y : Nat) (b b' b'' : Box) (cs : List BoxChain) (bs : List Byte) (poi : Bool) (p : Option (Nat × Nat)),
    (s.pt r y).chains = { box := b } :: cs → (s.pt r y).asked = b.asked →
    b.ended = false → b.closed = false → b.fault = none → b.started = true → b.committed = false → b.toks = [] → b.skip = 0 → b.got = none →
    b.pos < b.d.total → b.d.isList = false → b.d.sm = 0 → b.d.dm = 0 →
    fetchPlain s r y b = .ok u b' bs poi p → b'.d = b.d → putPlain u r y b' bs poi = .ok v b'' → b''.d = b.d →
    boxMove s r y 0 = (true, setBox (passPlain v b'' p) r y 0 { b'' with
      pos := b''.pos + 1, count := if boxClipped b' then b''.count else b''.count + 1 })) ∧
  (∀ (s : State) (r y : Nat) (c : BoxChain) (cs : List BoxChain) (f : SiteFault), portReady s r y = true → (s.pt r y).chains = c :: cs →
    c.box.fault = some f → c.box.toks = [] → c.box.d.dm ≠ 3 → exec (.boxElementFault r y) s = .next (freezeSite s r (y * 32) f true)) ∧
  (∀ (s : State) (r y : Nat) (c : BoxChain) (cs : List BoxChain), (s.pt r y).chains = c :: cs → c.box.ended = true →
    c.box.d.told = false → mayComplete s c.box.d = true → c.box.d.next = 0 →
    exec (.boxComplete r y) s = .next (dropBox (completeDesc s c.box.d (min c.box.count (2 ^ 32 - 1))) r y 0))

/-- Special function tiles (R174, R242, R243, R249, R250, R268, R269, R421): a call draws the lowest free colour for its set, and a return gives
the caller's tag back and frees it; a value committed in order retires; a complete entry issues, under ordered release by its number; a weight joins
the reservoir's mass and may become its candidate; a transposer collects its group, emits it, and passes marks and control tokens between groups; one that
meets a group begun ends it, or is F_MARKSKEW. -/
def Obligations.TileRows : Prop :=
  ∀ (s : State) (r n : Nat), let x := s.site r n
    let g := s.region r
    (tileReady s r n 0xF5 = true → ∀ ts c f, takeOrdered x.act (qHeads x (nbits (immOf x) 1 0)) = .data ts →
      freeColour g = some c → colourField g.layout = some f → exec (.spawnCall r n) s =
        .next (putSite (s.setRegion r { g with colours := fset g.colours c (ts.headD {}).tag }) r n
          (ts.foldl (fun y t => emitEl y { t with tag := setField g.layout f t.tag c }) (popQs x (nbits (immOf x) 1 0))))) ∧
    (tileReady s r n 0xF5 = true → ∀ t f tag, qHead x 3 = some t → t.kind = .ctl → t.lvl = 4 → colourField g.layout = some f →
      fget g.colours (getField g.layout f t.tag) = some tag →
      let c := getField g.layout f t.tag
      let y := emitSec (popQ x 3) { kind := .data, v := t.v, tag := tag, poi := t.poi }
      (y.out = [] → exec (.spawnReturn r n) s = .next (putSite (s.setRegion r (freeColours g [c])) r n y)) ∧
      (y.out ≠ [] → exec (.spawnReturn r n) s =
        .next (putSite s r n { y with out := y.out.map (fun e => { e with colour := some c }) }))) ∧
    (tileReady s r n 0xF3 = true → ∀ t, takeOrdered x.act (qHeads x 1) = .data [t] →
      let f := extBits x.act 2 0
      let w := fieldWidth g.layout f
      let ret := (fgetD g.allocs f (0, 0)).2
      let iss := (fgetD g.allocs f (0, 0)).1
      let v := getField g.layout f t.tag
      (v = ret → (iss + 2 ^ w - ret) % 2 ^ w ≠ 0 → ret < 2 ^ w → 1 ≤ w → fgetD g.cmt f [] = [] → exec (.commitRetire r n) s =
        .next (putSite (s.setRegion r { g with allocs := fset g.allocs f (iss, (ret + 1) % 2 ^ w), cmt := fset g.cmt f [] }) r n
          (emitEl { popQ x 0 with cnt := x.cnt + 1 }
            { kind := .data, v := BitVec.ofNat 32 ret, tag := setField g.layout f t.tag ret, poi := t.poi }))) ∧
      ((iss + 2 ^ w - ret) % 2 ^ w ≤ (v + 2 ^ w - ret) % 2 ^ w →
        exec (.commitRetire r n) s = .next (freezeHeads s r n FCode.tagskew.num false))) ∧
    (tileReady s r n 0xF7 = true → ∀ e,
      (nbit (extBits x.act 0 0) 0 = false → ∀ es, x.issue = e :: es → exec (.mstOrderedRelease r n) s =
        .next (putSite s r n ((e.slots.filterMap id).foldl (fun y t => emitEl y { t with tag := e.tag }) { x with
          issue := es, cnt := x.cnt + 1 }))) ∧
      (nbit (extBits x.act 0 0) 0 = true →
        x.issue.find? (fun e => getField g.layout (extBits x.act 3 1) e.tag == fgetD x.regs 0 0) = some e → exec (.mstOrderedRelease r n) s =
        .next (putSite s r n ((e.slots.filterMap id).foldl (fun y t => emitEl y { t with tag := e.tag }) { x with
          issue := x.issue.erase e, cnt := x.cnt + 1, regs := fset x.regs 0 (fgetD x.regs 0 0 + 1) })))) ∧
    (tileReady s r n 0xF4 = true → nbit (extBits x.act 131 131) 0 = false →
      (∀ a b, takeOrdered x.act (qHeads x 2) = .data [a, b] → usable a.v.toNat = true →
        let mass := f32Add (rsvMass x) a.v.toNat
        let win := drawWins (BitVec.ofNat 64 (extBits x.act 63 0)) (a.tag &&& BitVec.ofNat 64 (extBits x.act 127 64)) (b.v.setWidth 64) mass a.v.toNat
        exec (.rsvPair r n) s = .next (putSite s r n { popQs x 2 with
          accPoi := x.accPoi || tokPoison [a, b], cnt := x.cnt + 1
          regs := fset (fset x.regs 0 (if win then b.v.toNat else rsvCand x)) 1 mass })) ∧
      (∀ t ts, takeOrdered x.act (qHeads x 2) = .marks (t :: ts) → t.kind = .mark → extBits x.act 130 128 ≤ t.lvl → exec (.rsvMark r n) s =
        .next (putSite s r n { emitEl (emitEl (emitEl (popQs x 2)
          { kind := .data, v := BitVec.ofNat 32 (rsvCand x), tag := t.tag, poi := x.accPoi })
          { kind := .data, v := BitVec.ofNat 32 (rsvMass x), tag := t.tag, poi := x.accPoi })
          { t with poi := tokPoison (t :: ts) } with regs := [], accPoi := false }))) ∧
    (tileReady s r n 0xF6 = true →
      (nbit (extBits x.act 0 0) 0 = false →
        (x.coll.length = 128 → exec (.xpsT2p r n) s = .next (putSite s r n ((t2pTokens (xpsNb x) x.coll).foldl emitEl { x with coll := [] }))) ∧
        (x.coll.length < 128 → ∀ t, qHead x 0 = some t → t.kind = .data →
          exec (.xpsT2p r n) s = .next (putSite s r n { popQ x 0 with coll := x.coll ++ [t] })) ∧
        (∀ t, qHead x 0 = some t → t.kind = .mark ∨ t.kind = .ctl →
          (x.coll = [] → exec (.xpsT2p r n) s = .next (putSite s r n (emitEl (popQ x 0) t))) ∧
          (x.coll ≠ [] → exec (.xpsT2p r n) s = .next (putSite s r n ((t2pTokens (xpsNb x) x.coll).foldl emitEl { x with coll := [] }))))) ∧
      (nbit (extBits x.act 0 0) 0 = true →
        (x.coll.length = 4 * xpsNb x → exec (.xpsP2t r n) s = .next (putSite s r n
          ((p2tTokens (xpsNb x) (extBits x.act 15 8) (nbit (extBits x.act 7 7) 0) x.coll).foldl emitEl { x with coll := [] }))) ∧
        (x.coll.length < 4 * xpsNb x → ∀ t, qHead x 0 = some t →
          (t.kind = .data → exec (.xpsP2t r n) s = .next (putSite s r n { popQ x 0 with coll := x.coll ++ [t] })) ∧
          (t.kind = .mark ∨ t.kind = .ctl → x.coll = [] → exec (.xpsP2t r n) s = .next (putSite s r n (emitEl (popQ x 0) t))) ∧
          (t.kind = .mark ∨ t.kind = .ctl → x.coll ≠ [] →
            exec (.xpsP2t r n) s = .next (freezeHeads s r n FCode.markskew.num false)))))

/-! Planes, barriers, the parser. -/

/-- Planes (R179 to R186): a load writes one shadow record a step, and completes with their number; a swap whose sites hold its PID waits until
its rectangle is still, and then exchanges the planes in one step, if the rectangle is empty or FLUSH drops what stands there; otherwise F_STRAY.
Barriers (R189, R190, R443): a region's barrier waits for a still and empty rectangle, and arrives; once every region of the gang has
arrived at the same barrier, each region's command completes with V = 0. That an arrival waits for the region's faults, and where colours count, are
the model's choices (log 47). -/
def Obligations.PlaneAndBarrierRows : Prop :=
  (∀ (s : State) (r : Nat) (c : CfgCmd) (i : Nat),
    ((s.region r).gang ≠ none → cmdTurn (s.cfg r).q 0x30 (fun c => c.done < c.d.rect.w * c.d.rect.h) = some (i, c) →
      let n := c.d.rect.sites.getD c.done 0
      ∀ u p, loadRecord s r n c.d.pid = .inl (u, p) →
        (recordBad (u.region r).layout n p = none → exec (.cfgLoad r) s =
          .next (setCmd (u.setSite r n { u.site r n with sha := p }) r i { c with done := c.done + 1 })) ∧
        (∀ e, recordBad (u.region r).layout n p = some e → exec (.cfgLoad r) s = .next (loadFault u r i c.d n e 0))) ∧
    (cmdTurn (s.cfg r).q 0x30 (fun c => c.done == c.d.rect.w * c.d.rect.h) = some (i, c) → c.d.told = false → mayComplete s c.d = true →
      c.d.next = 0 → exec (.cfgLoadComplete r) s =
        .next (dropCmd (completeDesc (s.modCfg r (fun x => { x with lpid := c.d.pid })) c.d c.done) r i)) ∧
    ((s.region r).gang ≠ none → cmdTurn (s.cfg r).q 0x31 (fun c => !c.waits && !c.arrived) = some (i, c) →
      ((∀ n ∈ c.d.rect.sites, (s.site r n).sha.pid = c.d.pid) → exec (.cfgSwap r) s = .next (setCmd s r i { c with waits := true })) ∧
      (∀ n ∈ c.d.rect.sites, (s.site r n).sha.pid ≠ c.d.pid → exec (.cfgSwap r) s = .next (rejectDesc (dropCmd s r i) c.d .cfgop 0))) ∧
    (∀ m, (s.region r).moved = some m → m + 64 ≤ s.cyc → exec (.belvedereStill r) s = .next (s.modRegion r (fun g => { g with moved := none }))) ∧
    (cmdTurn (s.cfg r).q 0x31 (fun c => c.waits || c.arrived) = some (i, c) → c.arrived = false → rectStill s r c.d.rect = true →
      noFault s r = true → let l := rectStrays s r c.d.rect
      (l = [] ∨ c.d.flush = true → exec (.swapPerform r) s =
        .next (swapComplete (setCmd ((swapRect s r c.d.rect).modCfg r (fun y => { y with apid := c.d.pid, flsh := (y.flsh + l.length) % 65536 })) r i
          { c with waits := false, arrived := true, v := l.length }) r i { c with waits := false, arrived := true, v := l.length })) ∧
      (∀ x xs, l = x :: xs → c.d.flush = false → exec (.swapPerform r) s =
        .next (raiseRegion (commandEnded (dropCmd s r i) c.d) r .stray (strayRec r x l.length)))) ∧
    (∀ x, (swapSite x).act = x.sha ∧ (swapSite x).sha = x.act ∧ (swapSite x).bufs = [] ∧ (swapSite x).q = [] ∧ (swapSite x).out = [] ∧
      (swapSite x).store = [] ∧ (swapSite x).issue = [])) ∧
  ((∀ (s : State) (r i : Nat) (c : CfgCmd),
    ((s.region r).gang ≠ none → cmdTurn (s.cfg r).q 0x32 (fun c => c.d.told || (!c.waits && !c.arrived)) = some (i, c) → c.d.told = false →
      exec (.bar r) s = .next (setCmd s r i { c with waits := true })) ∧
    (cmdTurn (s.cfg r).q 0x32 (fun c => c.waits) = some (i, c) → rectStill s r c.d.rect = true → noFault s r = true →
      let l := rectStrays s r c.d.rect
      (l = [] → exec (.barrierArrive r) s = .next (setCmd s r i { c with waits := false, arrived := true })) ∧
      (∀ x xs, l = x :: xs → exec (.barrierArrive r) s =
        .next (raiseRegion (commandEnded (dropCmd s r i) c.d) r .stray (strayRec r x l.length))))) ∧
  (∀ (s : State) (g r i : Nat) (c : CfgCmd), (s.gang g).regions = [r] → arrivedBar s r = some (i, c) → c.v = 0 → c.d.barWins = [] →
    let u := setCmd s r i { c with v := 1 }
    mayComplete u c.d = true → c.d.next = 0 → exec (.barrierComplete g) s = .next (dropCmd (completeDesc u c.d 0) r i)))

/-- The parser (R191 to R210): a mark of the lead track enters the queue with the DR before it; a step pops what the head matches, or expands by
the cell of the nonterminal and the head, or starts an action's block; a mismatch discards up to a mark that stops it; a reset cuts the stack back; a
terminal after the end is recorded; settled rises once the entries sent have been delivered; an entry acts at the mark of its ordinal. -/
def Obligations.ParserRows : Prop :=
  (∀ (s : State) (r : Nat), (s.region r).gang ≠ none →
    let g := s.region r
    let n := g.lead.1 * 32
    let t := 2 + g.lead.2
    let mk := fgetD (s.pt r g.lead.1).marks g.lead.2 0
    leadMark s r n t = true →
    (∀ vc h, grantVc s r n t = some vc → srcHead n (s.site r n) t vc = some h →
      let es := drEntry s r g.lead.1 g.lead.2 ((mk + 2 ^ 40 - 1) % 2 ^ 40) ++ [{ term := h.lvl, ord := mk, cnt := 0, pos := g.leadPos }]
      g.parser.mq.length + es.length ≤ 16 → exec (.markEnqueue r) s = .next (hop (enqueueMarks s r g.lead.1 g.lead.2 es) r n t))) ∧
  (∀ (s : State) (r : Nat), parserMoves s r = true → (s.parser r).st = .parse →
    let p := s.parser r
    (p.stack = [] → exec (.parseStep r) s = .next (s.setParser r { p with st := .done })) ∧
    (∀ x st, p.stack = x :: st → 0x400 ≤ x → exec (.parseStep r) s =
      .next ((s.setParser r { p with stack := st, st := .action }).modCore (r * 10)
        (fun c => { c with phase := .start ((grammarOf s r).acts.getD (x - 0x400) 0) }))) ∧
    (∀ x st h hs, p.stack = x :: st → 0x100 ≤ x → x < 0x400 → (needHead p).mq = h :: hs → (needHead p).ovf = false →
      (x = 0x100 + h.term → exec (.parseStep r) s = .next (s.setParser r (matchHead (needHead p) h))) ∧
      (x ≠ 0x100 + h.term → exec (.parseStep r) s = .next (mismatch (s.setParser r (needHead p)) r h))) ∧
    (∀ x st h hs, p.stack = x :: st → x < 0x400 → p.ovf = true → (needHead p).mq = h :: hs →
      exec (.parseStep r) s = .next (mismatch (s.setParser r (needHead p)) r h)) ∧
    (∀ x st, p.stack = x :: st → x < 0x100 → p.ovf = false → let c0 := ((grammarOf s r).cells.getD x []).getD 0 0
      nbit c0 15 = true → nbit c0 14 = true → exec (.parseStep r) s = .next (expand s r (nbits c0 9 0))) ∧
    (∀ x st h hs, p.stack = x :: st → x < 0x100 → let row := (grammarOf s r).cells.getD x []
      (nbit (row.getD 0 0) 15 && nbit (row.getD 0 0) 14) = false → (needHead p).mq = h :: hs → (needHead p).ovf = false →
      (nbit (row.getD h.term 0) 15 = true →
        exec (.parseStep r) s = .next (expand (s.setParser r (needHead p)) r (nbits (row.getD h.term 0) 9 0))) ∧
      (nbit (row.getD h.term 0) 15 = false → exec (.parseStep r) s = .next (mismatch (s.setParser r (needHead p)) r h)))) ∧
  (∀ (s : State) (r : Nat) (h : MqEntry) (hs : List MqEntry), let p := s.parser r
    p.mq = h :: hs →
    (parserMoves s r = true → p.st = .mismatch → p.resetAt = none →
      (h.term = 0 → exec (.mismatchDiscard r) s = .next (s.setParser r { p with mq := hs, afterDr := true })) ∧
      (h.term ≠ 0 → h.term < (grammarOf s r).lvl → exec (.mismatchDiscard r) s =
        .next (settleTo (s.setParser r { p with mq := hs, ord := h.ord, drc := 0, afterDr := false }) r h.ord)) ∧
      (h.term = 7 → (grammarOf s r).lvl ≤ 7 → exec (.mismatchDiscard r) s =
        .next (s.setParser r { p with resetAt := some h.ord, discEnd := true })) ∧
      ((grammarOf s r).lvl ≤ h.term → h.term ≠ 0 → h.term ≠ 7 → exec (.mismatchDiscard r) s =
        .next (s.setParser r { p with mq := hs, ord := h.ord, drc := 0, afterDr := false, resetAt := some h.ord }))) ∧
    ((s.region r).gang ≠ none → (s.region r).trap = none → p.st = .done → let u := regionRecord s r (mismatchRecord s r h false)
      exec (.doneTerminal r) s = .next (u.setParser r { u.parser r with mq := (u.parser r).mq.drop 1 }))) ∧
  (∀ (s : State) (r m : Nat), let p := s.parser r
    p.resetAt = some m → parserMoves s r = true → p.st = .mismatch → p.recovering = false → (grammarOf s r).pois = [] →
    exec (.recoveryReset r) s = .next (s.setParser r { p with stack := cutStack (grammarOf s r) p.stack, recovering := true })) ∧
  (∀ (s : State) (r m : Nat) (ms : List Nat), let p := s.parser r
    (s.region r).gang ≠ none → p.raises = m :: ms → entriesPending s r m = false →
    exec (.settledRaise r) s = .next (s.setParser r { p with settled := some m, raises := ms })) ∧
  (∀ (s : State) (r m : Nat), let p := s.parser r
    (s.region r).gang ≠ none → p.raises = [] → p.recovering = true → p.resetAt = some m → anyPending s r = false →
    exec (.settledRaise r) s = .next (s.setParser r { p.goTo .parse with settled := some m, recovering := false, resetAt := none })) ∧
  (∀ (s : State) (r n : Nat) (e : ActEntry) (net : List NetMsg), s.net = .tact r n e :: net → (s.site r n).frozen = none →
    siteKind n = .fe → (s.site r n).act.fop ≠ 0 → markSync (s.site r n).act = true → let x := (s.drop 0).site r n
    x.frozen = none → x.act = (s.site r n).act → exec (.actionEntryArrive 0) s =
      .next ((s.drop 0).setSite r n (pullEntries { x with aqWait := x.aqWait ++ [e] }))) ∧
  (∀ (s : State) (r n : Nat) (t : Token), let x := s.site r n
    elemReady s r n = true → x.act.arity = 1 → x.act.matched = false → x.act.fop ≠ 0x1C → qHead x 0 = some t → syncSet x.act [t] = true →
    oneKind [t] = true → pendingOut x = false → x.reqs = [] → x.aqWait = [] →
    let l := (s.region r).layout
    let acts := fun (z : Site) => let y := emitMark z (markTok l x.act [t])
      exec (.markSyncApply r n) s = .next (replayNotes (putSite s r n y) r n (y.out.map (·.tok)))
    (∀ u, (s.region r).parser.settled = some u → serialGe u t.v.toNat = false → exec (.markSyncApply r n) s = .next s) ∧
    ((s.region r).parser.settled = none ∨ (∃ u, (s.region r).parser.settled = some u ∧ serialGe u t.v.toNat = true) →
      (x.aq = [] → acts (markSide (popQs x 1) [t])) ∧
      (∀ e, x.aq = [e] → e.ord % 2 ^ 32 = t.v.toNat → acts (applyEntry l [t] (markSide { popQs x 1 with aq := [] } [t]) e)) ∧
      (∀ e, x.aq = [e] → e.ord % 2 ^ 32 ≠ t.v.toNat → serialGe e.ord t.v.toNat = true → acts (markSide (popQs x 1) [t])) ∧
      (∀ e, x.aq = [e] → serialGe e.ord t.v.toNat = false → exec (.markSyncApply r n) s = .next (freezeSite s r n
        { code := FCode.markskew.num, opa := BitVec.ofNat 64 e.ord, opb := BitVec.ofNat 64 t.v.toNat, tag := t.tag, stale := some t.v.toNat } false))))

/-! Blocks, tasks, engines. -/

/-- Blocks and tasks (R219 to R221, R320, R342, R346, R347, R365 to R367): a good block starts with its sources latched; a refused one faults;
a block ends as soon as it can commit or nothing more can fire: with a fault, that of the lowest index; with a register of MASK unwritten, a store of NST or the
branch unfired, F_BLKINC; else it commits: each register takes what the last of its writers in index order gives it, the others stay, and the operations
laid aside leave in index order; a reply fills its register, and a late fault poisons it; a task is armed in the lowest free slot, and the
oldest ready one starts. -/
def Obligations.BlockAndTaskRows : Prop :=
  (∀ (s u : State) (core : CoreId) (a : W64) (ws : List W64), let k := coreKey core
    (s.core k).phase = .start a → postDue k (s.core k) = false → startHeld s k = false → getBlock s k a = .ok u ws false →
    let layout := match keyRegion k with
      | some r => 2 ^ (u.region r).layout.length - 1
      | none => 0
    (∀ b, parseBlock (coreKind core) layout ws = .ok b → exec (.blockStart core) s =
      .next (u.modCore k (fun c => { c with phase := .running, run := newRun u k a b }))) ∧
    (∀ e aux, parseBlock (coreKind core) layout ws = .error (e, aux) →
      exec (.blockStart core) s = .next (startFault u k a (rejectCode e) aux))) ∧
  (∀ (s : State) (core : CoreId), let k := coreKey core
    (s.core k).phase = .running →
    (blockReady (s.core k) = true → exec (.blockCommit core) s = .next (blockEnds s k)) ∧
    (blockReady (s.core k) = false → exec (.blockCommit core) s = .next s)) ∧
  (∀ (s : State) (k : Nat), let c := s.core k
    let r := c.run
    (∀ i < r.slots.length, (r.slot i).fault ≠ none → (∀ j < i, (r.slot j).fault = none) →
      blockEnds s k = exactFault s k (slotRecord s k i (r.slot i))) ∧
    ((∀ i < r.slots.length, (r.slot i).fault = none) →
      (commitAt r = none → ∃ f, blockEnds s k = exactFault s k f ∧ f.code = FCode.blkinc.num) ∧
      (commitAt r ≠ none → overwritesPending c = false → s.inputs.residue = [] →
        let t := blockEnds s k
        t.mem = s.mem ∧ (t.core k).phase = .ending (blockBranch r) ∧ (t.core k).outq = blockOuts r ∧
        (∀ n, (∀ x ∈ r.slots, slotG x ≠ some n) → fget (t.core k).g n = fget c.g n) ∧
        (∀ n x before after, r.slots = before ++ x :: after → slotG x = some n → (∀ y ∈ after, slotG y ≠ some n) →
          ((x.op.bind lateG).isSome = false → fget (t.core k).g n = some { val := x.val, poi := x.poi, pend := false }) ∧
          ((x.op.bind lateG).isSome = true → (fgetD (t.core k).g n {}).pend = true))))) ∧
  (∀ (r : BlockRun), commitAt r ≠ none → wellEnded r = true ∧
    ((List.range r.slots.length).filter (fun j => wordClass (r.slot j).word == .store)).length = r.nst ∧
    (∀ j < r.slots.length, wordClass (r.slot j).word = .store ∨ j = r.slots.length - 1 → (r.slot j).fired = true) ∧
    (∀ n < 64, r.mask.getLsbD n = true → ∃ j < r.slots.length, writesG (r.slot j).word n = true ∧ (r.slot j).fired = true)) ∧
  (∀ (s : State) (core : CoreId) (b : BrAct), let k := coreKey core
    (s.core k).phase = .ending b →
    ((s.core k).outq ≠ [] → exec (.blockCommit core) s = .next (drainOp s k)) ∧
    ((s.core k).outq = [] → exec (.blockCommit core) s =
      .next (takePost (stopAtPoint (takeEffect s k b) k ((s.core k).run.pp && !(s.core k).inTrap)) k))) ∧
  (∀ (s : State) (k core g : Nat) (v : W64) (poi : Bool), s.msg k = some (.reply core g v poi) →
    exec (.afterCommitReply k) s = .next ((s.drop k).modCore core (fun c =>
      if (fgetD c.g g {}).pend then { c with g := fset c.g g { val := v, poi := poi, pend := false } } else c))) ∧
  (∀ (s : State) (k core n : Nat) (f : FaultRec), s.msg k = some (.fault core f (some n)) → n < 64 →
    exec (.postCommitFault k) s = .next (takePost ((s.drop k).modCore core (fun c => { c with
      post := c.post ++ [f], g := fset c.g n { val := 0, poi := true, pend := false } })) core)) ∧
  (∀ (s : State) (r k : Nat) (d : Desc) (q : List Desc), let x := s.kiosk r k
    x.q = d :: q → d.told = false → armBad s r k d = none →
    ∀ n, (List.range 16).find? (fun n => (fget x.slots n).isNone) = some n → mayComplete s d = true → d.next = 0 →
    let u := completeDesc (noteReady (s.setKiosk r k { x with
      slots := fset x.slots n { tt := d.words.getD 4 0, h := d.words.getD 5 0, inputs := d.inputs } }) r) d n
    exec (.taskArm r k) s = .next (u.setKiosk r k { u.kiosk r k with q := q })) ∧
  (∀ (s : State) (r k n : Nat) (t : Task), let x := s.kiosk r k
    let c := r * 10 + 1 + k
    (s.region r).gang ≠ none → k ≤ 8 → x.run = none → (s.core c).phase = .idle → (s.core c).outq = [] → coreHeld s c = false →
    pickTask s r x = some (n, t) →
    exec (.taskReadyStart r k) s =
      .next ((s.setKiosk r k { x with run := some (n, s.cyc) }).modCore c (fun y => { y with phase := .start t.h })))

/-- Engines and their memory nodes (R113, R213 to R217, R222 to R224, R229 to R231, R234, R436, R437). -/
def Obligations.EngineRows : Prop :=
  (∀ (s : State) (r n : Nat) (t : Token), nodeReady s r n = true → qHead (s.site r (nodeSite n)) 0 = some t → t.kind = .data →
    (nodeRepeat s r n = false → ((s.node r n).buf (s.node r n).wr).count = 0 →
      exec (.bufferWrite r n) s = .next (nodePop (nodeFill s r n t) r n)) ∧
    (nodeRepeat s r n = true → panelFull s r n (s.node r n).wr = false →
      exec (.bufferWrite r n) s = .next (nodePop (repeatFill s r n t) r n))) ∧
  (∀ (s : State) (r n : Nat) (t : Token), let x := s.node r n
    let i := nodeSite n
    nodeReady s r n = true → nodeRepeat s r n = true → (x.buf x.rep).count = 0 → qHead (s.site r i) 1 = some t → t.kind = .data → t.poi = false →
    panelWhole s r n x.rep = true → t.v ≠ 0 → exec (.repeatCountToken r n) s =
      .next (noteReady ((putSite s r i (popQ (s.site r i) 1)).setNode r n { x with
        bufs := fset x.bufs x.rep { x.buf x.rep with count := t.v.toNat } }) r)) ∧
  (∀ (s : State) (r j : Nat) (m : MeRun), (s.region r).gang ≠ none → j < 8 → (s.eng r j).frozen = none →
    pairTurn s r (s.eng r j) 0 = some m → exec (.bufferRead r j) s = .next (multiplyPair s r j 0 m)) ∧
  (∀ (s : State) (r j n : Nat) (d : Desc) (rest : List (Nat × Desc)), (s.region r).gang ≠ none → j < 8 → let e := s.eng r j
    e.nexts = [] → e.frozen = none → pickMe e e.q [] = some ((n, d), rest) → bankBad e d = false →
    (d.kind = 0x10 → exec (.meOp r j) s = .next (s.setEng r j (({ e with q := rest }.setBank d.bank
      (if d.clr then { int_ := d.mfmt == 1 } else { e.bank d.bank with frz := false })).setRun d.bank (some { d := d })))) ∧
    (d.kind = 0x11 → e.run 0 = none → e.run 1 = none → exec (.meRd r j) s = .next (s.setEng r j ({ e with q := rest }.setRun d.bank
      (some { d := d, toks := rdTokens (e.bank d.bank) d }))))) ∧
  (∀ (s : State) (r j : Nat) (m : MeRun), let e := s.eng r j
    e.frozen = none → e.nexts = [] → e.run 0 = some m → m.d.kind = 0x10 → (m.stop = true ∨ m.sent = m.d.np) → mayComplete s m.d = true →
    exec (.meOpComplete r j) s = .next (completeDesc (s.setEng r j (e.setRun 0 none)) m.d (if m.stop then 1 else 0))) ∧
  (∀ (s : State) (r j i : Nat) (is : List Nat) (t : Token) (ts : List Token), let e := s.eng r j
    let g := crsRing s r
    (s.region r).gang ≠ none → e.routed = true → e.frozen = none → e.ready = i :: is → e.out = t :: ts →
    injectRoom s r (engSite j 0) 1 g.out g.ovc = true → exec (.slotComplete r j) s =
      .next (inject (s.setEng r j (if ts.isEmpty then freeSlot { e with out := [] } i else { e with out := ts })) r (engSite j 0) 1 g.out g.ovc t)) ∧
  (∀ (s v : State) (r y : Nat), portReady s r y = true →
    (dispatchFirst s r y 4 4 0 = v → exec (.routeDelivery r y) s = .next v) ∧
    (dispatchFirst s r y 5 4 0 = v → exec (.rowDelivery r y) s = .next v))

/-! The Carousel, the Trellis, collectives. -/

/-- The Carousel (R227 to R236): a ring is performed at its turn; a lap starts once every region of the gang has come to it; an engine multiplies
the train that reached it and passes it on, or drops it before its loader's place; a lap ends when every train has been dropped. -/
def Obligations.CarouselRows : Prop :=
  (∀ (s : State) (r : Nat) (d : Desc) (q : List Desc), let x := s.crs r
    x.q = d :: q → d.kind = 0x18 → x.frozen = none → let g := ringOf d
    d.told = false → ringBad s d = none → (leavers s r g.mes = [] ∨ lapRuns s r = false) → enginesBusy s r g.mes = false → mayComplete s d = true →
    d.next = 0 → exec (.crsRing r) s = .next ((completeDesc (ringPerform s r g) d 0).modCrs r (fun x => { x with q := q }))) ∧
  (∀ (s : State) (r n : Nat) (g : Gang) (d : Desc) (q : List Desc), let x := s.crs r
    x.q = d :: q → regionGang s r = some (n, g) → d.kind = 0x19 → d.told = false → x.frozen = none → g.lap = none → x.lapReady = none →
    let rings := g.regions.filterMap (fun r => (s.crs r).ring)
    rings.length = g.regions.length → rings.all (ringsAgree (crsRing s r)) = true →
    (∀ p ∈ (crsRing s r).ldr, p < (ringEngines s g).length) →
    exec (.crsRun r) s = .next (s.modCrs r (fun x => { x with q := q, lapReady := some d }))) ∧
  (∀ (s u : State) (n : Nat) (todo : FMap (List (Nat × Nat × Nat))), let g := s.gang n
    let ring := ringEngines s g
    let ldr := (crsRing s (g.regions.headD 0)).ldr
    g.regions ≠ [] → g.lap = none → (∀ r ∈ g.regions, (s.crs r).lapReady ≠ none) →
    loadTables g ring s ((List.range ldr.length).zip ldr) [] = .inr (u, todo) → exec (.lapStart n) s =
      .next ((ldr.map (fun p => (ring.getD p (0, 0)).1)).foldl (fun s r => s.modCrs r (fun x => { x with lap := true }))
        (u.modGang n (fun g => { g with lap := some { todo := todo } })))) ∧
  (∀ (s : State) (r j n : Nat) (g : Gang) (lap : Lap) (t : Train) (ts : List Train), regionGang s r = some (n, g) → g.lap = some lap →
    let ring := ringEngines s g
    let p := ring.idxOf (r, j)
    p < ring.length → (s.eng r j).frozen = none → takeTrain p lap.trains = some (t, ts) → t.poi = false →
    let next := (p + 1) % ring.length
    exec (.trainAtEngine r j) s = .next (modLap (trainMultiply s r j (crsRing s r) t) n (fun y => { y with
      trains := if next == (crsRing s r).ldr.getD t.grp 0 then ts else ts ++ [{ t with place := next }] }))) ∧
  (∀ (s : State) (n r : Nat) (lap : Lap) (d : Desc), (s.gang n).regions = [r] → (s.gang n).lap = some lap → lap.trains = [] →
    (∀ k ∈ lap.todo, k.2 = []) → (s.crs r).lapReady = some d → d.told = false → mayComplete s d = true → d.next = 0 →
    let u := completeDesc (s.modCrs r (fun x => { x with lapReady := none, lap := false, lerr := lap.err })) d (if lap.err then 1 else 0)
    exec (.lapComplete n) s = .next (if (u.crs r).lapReady.isNone then u.modGang n (fun g => { g with lap := none }) else u))

/-- The Trellis (R255 to R267): a load writes the rest of its records or words and completes with their number; a run takes its planes token by
token, enters once it has them, and emits.
Replay units (R442): the unit is set up from its table; a removal goes ahead of what waits in its queue. -/
def Obligations.TrellisAndReplayRows : Prop :=
  ((∀ (s : State) (r i : Nat) (d : Desc), (s.region r).gang ≠ none → let u := trlRefill s r
    (u.trl r).endAt = none → (u.trl r).frozen = none →
    let go := fun (k : Nat) => (loadTurns (u.trl r).q k).foldl (loadGo k r) u
    let ends := fun (k : Nat) => ((go k).trl r).frozen = none ∧
      (loadTurns (u.trl r).q k).findSome? (fun i => (loadDone (go k) r i).map (fun d => (i, d))) = some (i, d)
    (ends 0x20 → exec (.trlCtx r) s = .next (completeDesc (dropTrlCmd (go 0x20) r i) d d.tnc)) ∧
    ((∀ j ∈ loadTurns (u.trl r).q 0x21, ((u.trl r).q[j]?).any (tabPartial u r) = false) → ends 0x21 →
      exec (.trlTab r) s = .next (completeDesc (dropTrlCmd (go 0x21) r i) d d.tnc))) ∧
  (∀ (s v : State) (r i n : Nat) (c : TrlCmd) (bs : List Byte) (p : Bool), (s.trl r).q[i]? = some c → c.prog < c.d.tnc →
    let next := fun (v : State) => setTrlCmd (noteLoaded v r c.d.tctx) r i { c with prog := c.prog + 1 }
    let key := cellKey c.d.tctx c.d.tlvl (c.d.tc0 + c.prog)
    wiringRead s r (c.d.tsrc + BitVec.ofNat 64 (16 * c.prog)) = .ok v bs p → wiringBad c.d.tlvl (leNat bs) = none →
    ctxGo s r i (n + 1) = ctxGo (next (v.modTrl r (fun t => { t with cells := fset t.cells key { fgetD t.cells key {} with
      sel := (List.range 6).map (fun k => BitVec.ofNat 16 (nbits (leNat bs) (16 * k + 15) (16 * k))), selEcc := p } }))) r i n) ∧
  (∀ (s : State) (r i : Nat) (c : TrlCmd), (s.region r).gang ≠ none → let u := trlEnd (trlRefill (emitRun s r) r) r 0x22
    (u.trl r).endAt = none → (u.trl r).frozen = none → runTurn (u.trl r).q = some i → (u.trl r).q[i]? = some c →
    exec (.trlRun r) s = .next (takeInput u r i c)) ∧
  (∀ (s : State) (r i : Nat) (c : TrlCmd) (h : Token) (hs : List Token), let t := s.trl r
    fgetD t.inq c.d.tiprt [] = h :: hs → t.taken < c.d.tnin → h.kind = .data →
    (t.part.length < 3 → takeInput s r i c = s.modTrl r (fun _ => { t with inq := fset t.inq c.d.tiprt hs, part := t.part ++ [h] })) ∧
    (t.part.length = 3 → takeInput s r i c = s.modTrl r (fun _ => { t with
      inq := fset t.inq c.d.tiprt hs, part := [], taken := t.taken + 1
      store := fset t.store (c.d.tibase + t.taken) (planeOf (t.part ++ [h])) }))) ∧
  (∀ (s : State) (r : Nat) (c : TrlCmd) (q : List TrlCmd), let t := s.trl r
    let d := c.d
    (s.region r).gang ≠ none → t.frozen = none → t.endAt = none → t.q = c :: q → d.kind = 0x22 → t.taken = d.tnin → d.tmkp = false →
    d.tstore = false → let out := (levelOut t d.tctx d.tnl).take d.tnout
    let bad := (out.filter (·.2)).length
    let u := { t with
      q := q, taken := 0, part := [], markIn := none, actx := d.tctx
      outs := t.outs ++ [{ d := d, toks := out.flatMap (planeToks d), v := bad }] }
    eccCell t d = none → exec (.trellisRunEnter r) s = .next (s.modTrl r (fun _ => u)))) ∧
  ((∀ (s v : State) (r u : Nat) (d : Desc) (q : List Desc) (bs : List Byte), let x := s.rep r u
    x.q = d :: q → (s.region r).gang ≠ none → (x.on = false ∨ x.r = 0) → isCfw s r d.trnRoot = true →
    unitReadMany s r (coreMid d.by_.core % 256) .read 2 (2 ^ d.trnLge) (d.words.getD 4 0) = .ok v bs false →
    (∀ e ∈ items 2 bs (2 ^ d.trnLge), e < 2048 ∧ isCfw v r (e % 1024) = true) → d.told = false → mayComplete v d = true →
    d.next = 0 → let w := completeDesc (v.setRep r u
      { on := true, root := d.trnRoot, k := d.trnK, lge := d.trnLge, lvl := d.trnLvl, fld := d.trnFld, lmap := items 2 bs (2 ^ d.trnLge), q := d :: q }) d 0
    exec (.trnSet r u) s = .next (w.setRep r u { w.rep r u with q := q })) ∧
  (∀ (s : State) (k r u n side : Nat) (t : Token), s.net[k]? = some (.removal r u n side t) →
    let x := (s.drop k).site r n
    exec (.replayRemoval k) s = .next (putSite (s.drop k) r n { x with q := fset x.q side (t :: fgetD x.q side []) })))

/-- Collectives (R251, R444 to R446): a participant reads its table, then its source, and its contribution leaves for every participant and
joins those that have arrived, unless the deadline has passed; where every contribution is there the result is written and the command completes, or it
leaves as tokens; past the deadline the instance fails. -/
def Obligations.CollectiveRows : Prop :=
  (∀ (s u : State) (die k : Nat) (c : Coll), let key := collKey die k
    fget s.colls key = some c → k < 16 → c.sent = false → c.out = false → c.d.told = false → (s.region c.r).gang ≠ none →
    let rows := fun (t : State) =>
      (c.d.kind = 0x38 → exec (.collSum die k) s = .next t) ∧ (c.d.kind = 0x39 → exec (.collMax die k) s = .next t) ∧
      (c.d.kind = 0x3A → exec (.collGath die k) s = .next t) ∧ (c.d.kind = 0x3B → exec (.collBcast die k) s = .next t) ∧
      (c.d.kind = 0x3C → exec (.collRsv die k) s = .next t)
    (c.ptab = [] → ∀ bs, unitReadMany s c.r (coreMid c.d.by_.core % 256) .read 8 c.d.npart (c.d.words.getD 5 0) = .ok u bs false →
      tableBad u key c (items 8 bs c.d.npart) = none → rows { u with colls := fset u.colls key { c with ptab := items 8 bs c.d.npart } }) ∧
    (c.ptab ≠ [] → ∀ bs poi, collSource s c = .ok u bs poi →
      let v := c.ptab.foldl (fun s e => contribute s c bs poi e) (gather u key)
      let m := fgetD v.colls key c
      (collLate m v.ns = false → rows { v with colls := fset v.colls key { m with
        rows := bs, sent := true, opened := some (m.opened.getD v.ns), got := fset m.got c.d.idx bs
        bad := if poi then sinsert m.bad c.d.idx else m.bad } }) ∧
      (collLate m v.ns = true → rows { v with colls := fset v.colls key { m with rows := bs, sent := true } }))) ∧
  (∀ (s v : State) (die k : Nat) (c : Coll) (b : List Byte) (p : Bool), let key := collKey die k
    let u := gather s key
    let d := c.d
    fget u.colls key = some c → k < 16 → c.sent = true → c.out = false → c.bad = [] → c.got.length = d.npart →
    (d.dk = true → exec (.collResult die k) s = .next { u with colls := fset u.colls key { c with
      out := true
      fabric := (List.range d.nel).flatMap (fun j =>
        let x := mergeRow d ((List.range d.npart).map (fun i => fgetD c.got i [])) j
        [({ v := BitVec.ofNat 32 x.2.2, tag := x.1, vc := d.covc } : Token),
         ({ v := BitVec.ofNat 32 x.2.1, tag := x.1, vc := (d.covc + 1) % 32 } : Token)]) } }) ∧
    (d.dk = false → d.told = false → mayComplete u d = true →
      let m := if d.cesz = 16 then 8 else d.cesz
      let count := if d.kind = 0x3A then d.nel * d.npart else d.nel
      writePieces u c.r (coreMid d.by_.core % 256) m (count * (d.cesz / m)) (d.words.getD 7 0) (collBytes c) = .ok v b p →
      mayComplete v d = true → d.next = 0 →
      exec (.collResult die k) s = .next (loseColl key (completeDesc (closeColl key v) d d.nel)))) ∧
  (∀ (s : State) (die k t : Nat) (c : Coll), let key := collKey die k
    let u := gather s key
    fget u.colls key = some c → k < 16 → c.opened = some t → c.out = false → t + c.d.tmo ≤ u.ns → c.got.length < c.d.npart →
    exec (.collDeadline die k) s = .next (failColl u key c))

/-- Elements complete (R166 to R173, R280, R394 to R409): an element that is ready and has a data set, in order or matched, takes it under the rule of its
opcode and queues what it emits, with the tag that TAGOP gives; `rows` are the two rows that act for it, its opcode's own and the one of its mode.
Lanes of unpk and copies of rpt leave one an issue. A set of marks is consumed by the policy. MATCHED taking places one token. -/
def Obligations.ElementsComplete : Prop :=
  (∀ (s : State) (r n : Nat) (z : Site) (tag : W64) (ts : List Token), elemReady s r n = true → pendingOut (s.site r n) = false → drawFree s r n →
    dataSet (s.site r n) = some (z, tag, ts) →
    let p := (s.site r n).act
    let a := ts.headD {}
    let b := ts.getD 1 {}
    let y := { z with cnt := z.cnt + 1 }
    let rows := fun (i : Instr) (t : State) => exec i s = .next (noteDraws r n s t) ∧
      (p.matched = false → exec (.elementFireOrdered r n) s = .next (noteDraws r n s t)) ∧
      (p.matched = true → exec (.matchedIssue r n) s = .next (noteDraws r n s t))
    let emits := fun (i : Instr) (v : W32) => ∀ tg u, outTag s r p tag ts 0 = some (tg, u) →
      rows i (putSite u r n (emitEl y { kind := .data, v := v, tag := tg, poi := tokPoison ts }))
    (1 ≤ p.fop → p.fop ≤ 0x10 → emits (.elementArith r n) (computeV p (immOf z) ts)) ∧
    (p.fop = 0x11 ∨ p.fop = 0x15 → emits (.elementFmaScl r n) (computeV p (immOf z) ts)) ∧
    (0x12 ≤ p.fop → p.fop ≤ 0x14 → emits (.elementCompareSelect r n) (computeV p (immOf z) ts)) ∧
    (0x18 ≤ p.fop → p.fop ≤ 0x1A → emits (.elementConvert r n) (computeV p (immOf z) ts)) ∧
    (p.fop = 0x1B → rows (.elementUnpk r n) (putSite s r n { y with
      coll := (List.range (fmtLanes p.ty)).map (fun i =>
        { kind := .data, v := BitVec.ofNat 32 (encLane (p.vc p.ovc) (decLane (p.vc (p.qvc 0)) (laneBits (p.vc (p.qvc 0)).fmt a.v.toNat i)))
          tag := tag, poi := tokPoison ts })
      s0 := some a, copyNo := 0 })) ∧
    (p.fop = 0x1C → let l := z.coll ++ [a]
      (l.length < fmtLanes p.ty → rows (.elementPack r n) (putSite s r n { y with coll := l })) ∧
      (fmtLanes p.ty ≤ l.length → ∀ tg u, outTag s r p (l.headD {}).tag l 0 = some (tg, u) →
        rows (.elementPack r n) (putSite u r n (emitEl { y with coll := [] }
          { kind := .data, tag := tg, poi := tokPoison l
            v := BitVec.ofNat 32 (joinLanes (fmtWidth p.ty)
              (l.map (fun t => encLane (p.vc p.ovc) (decLane (p.vc (p.qvc 0)) (laneBits (p.vc (p.qvc 0)).fmt t.v.toNat 0))))) })))) ∧
    (0x20 ≤ p.fop → p.fop ≤ 0x24 → rows (.elementAccumulate r n) (putSite s r n { y with
      acc := accUpdate p z.acc ts, accPoi := z.accPoi || tokPoison ts })) ∧
    (p.fop = 0x29 → b.poi = false → ∀ tg u, outTag s r p tag ts 0 = some (tg, u) →
      rows (.elementSteerGate r n) (putSite u r n (emitVc y (if b.v == 0 then p.ovc else p.ovc + 1)
        { kind := .data, v := a.v, tag := tg, poi := tokPoison ts }))) ∧
    (p.fop = 0x2A → b.poi = false →
      (b.v = 0 → rows (.elementSteerGate r n) (putSite s r n y)) ∧ (b.v ≠ 0 → emits (.elementSteerGate r n) a.v)) ∧
    (p.fop = 0x2B → b.poi = false →
      (b.v = 0 → rows (.elementRpt r n) (putSite s r n y)) ∧
      (b.v ≠ 0 → rows (.elementRpt r n) (putSite s r n { y with
        s0 := some { a with tag := tag, poi := tokPoison ts }, s1 := some b, copies := b.v.toNat, copyNo := 0 }))) ∧
    (p.fop = 0x30 → ∀ tg u, outTag s r p tag ts 0 = some (tg, u) →
      rows (.elementTag r n) (putSite u r n (emitEl y
        { kind := if nbit (immOf z) 0 then .ctl else .data, lvl := if nbit (immOf z) 0 then 4 else 0, v := a.v, tag := tg, poi := tokPoison ts }))) ∧
    (p.fop = 0x31 → ∀ tg u, outTag s r p tag ts 0 = some (tg, u) →
      let w := emitEl y { kind := .data, v := a.v, tag := tg, poi := tokPoison ts }
      (z.run + 1 < nbits (immOf z) 19 0 → rows (.elementMkgen r n) (putSite u r n { w with run := z.run + 1 })) ∧
      (nbits (immOf z) 19 0 ≤ z.run + 1 → rows (.elementMkgen r n) (putSite u r n (emitEl { w with run := 0, marks := z.marks + 1 }
        { kind := .mark, lvl := nbits (immOf z) 22 20, v := BitVec.ofNat 32 (z.marks + 1), tag := tg }))))) ∧
  (∀ (s u : State) (r n q : Nat) (t : Token) (tg : W64), let x := s.site r n
    let k := x.act.arity
    elemReady s r n = true → pendingOut x = false → drawFree s r n → x.act.matched = false → x.act.fop = 0x28 →
    ((List.range k).map (fun i => (x.last + 1 + i) % k)).find? (fun q => match qHead x q with
      | some t => t.kind == .data || t.kind == .fault
      | none => false) = some q → qHead x q = some t → t.kind = .data →
    outTag s r x.act t.tag ((qHeads x k).map (·.getD {})) 0 = some (tg, u) →
    let v := putSite u r n (emitEl { popQ x q with last := q, cnt := x.cnt + 1 } { t with tag := tg })
    exec (.elementMrg r n) s = .next (noteDraws r n s v) ∧ exec (.elementFireOrdered r n) s = .next (noteDraws r n s v)) ∧
  (∀ (s : State) (r n k : Nat) (t : Token), let x := s.site r n
    elemReady s r n = true → pendingOut x = false → drawFree s r n → x.act.matched = false → x.act.fop = 0x38 → k ≤ 1 →
    qHead x k = some t → t.kind = .data → (k = 1 → qHead x 0 = none) → (∀ h, qHead x (1 - k) = some h → h.kind = .data) →
    let w := popQ x k
    let y := { (if k == 0 then { w with s0 := some t } else { w with s1 := some t }) with cnt := w.cnt + 1 }
    let rows := fun (v : State) => exec (.elementCfw r n) s = .next (noteDraws r n s v) ∧ exec (.elementFireOrdered r n) s = .next (noteDraws r n s v)
    (x.s0 = none → x.s1 = none → rows (putSite s r n y)) ∧
    (∀ a b tg u, y.s0 = some a → y.s1 = some b → let l := (s.region r).layout
      let f := nbits (immOf y) 2 0
      let m := cfwWinner l f a b
      setField l f a.tag 0 = setField l f b.tag 0 → outTag s r x.act m.tag [a, b] 0 = some (tg, u) →
      let z := emitEl y { kind := .data, v := m.v, tag := tg, poi := a.poi || b.poi }
      rows (replayNotes (putSite u r n z) r n (z.out.map (·.tok))))) ∧
  (∀ (s u : State) (r n : Nat) (tg : W64), elemReady s r n = true → drawFree s r n →
    let x := s.site r n
    let rows := fun (v : State) => exec (.elementFireOrdered r n) s = .next (noteDraws r n s v) ∧
      (x.act.fop = 0x2B → exec (.elementRpt r n) s = .next (noteDraws r n s v)) ∧
      (x.act.fop = 0x1B → exec (.elementUnpk r n) s = .next (noteDraws r n s v)) ∧
      (x.act.matched = true → isMemPort x.act.fop = false → exec (.matchedIssue r n) s = .next (noteDraws r n s v))
    (x.copies ≠ 0 → outTag s r x.act (x.s0.getD {}).tag [x.s0.getD {}, x.s1.getD {}] x.copyNo = some (tg, u) →
      let y := { x with copies := x.copies - 1, copyNo := x.copyNo + 1 }
      let y := if y.copies == 0 then { y with s0 := none, s1 := none } else y
      rows (putSite u r n (emitEl y { kind := .data, v := (x.s0.getD {}).v, tag := tg, poi := (x.s0.getD {}).poi }))) ∧
    (∀ t l, x.copies = 0 → x.act.fop = 0x1B → x.coll = t :: l → outTag s r x.act t.tag [x.s0.getD {}] x.copyNo = some (tg, u) →
      rows (putSite u r n (emitEl { x with coll := l, copyNo := x.copyNo + 1, s0 := if l.isEmpty then none else x.s0 } { t with tag := tg })))) ∧
  (∀ (s : State) (r n : Nat) (ts : List Token), elemReady s r n = true → pendingOut (s.site r n) = false → drawFree s r n →
    let x := s.site r n
    x.act.matched = false → x.act.fop ≠ 0x28 → x.act.fop ≠ 0x38 → (x.act.fop = 0x1C → x.coll = []) → x.reqs = [] →
    takeOrdered x.act (qHeads x x.act.arity) = .marks ts → (∀ h, qHead x 0 = some h → h.kind ≠ .fault) → portCtl x = false → syncSet x.act ts = false →
    exec (.elementFireOrdered r n) s = .next (noteDraws r n s (consumeMarks s r n x.act.arity ts))) ∧
  (∀ (s : State) (r n g q : Nat) (t : Token) (st : List MatchEntry) (c : Option MatchEntry), let x := s.site r n
    (s.region r).gang = some g → n < 1024 → x.frozen = none → siteKind n = .fe → x.act.matched = true → x.act.fop ≠ 0 →
    q < x.act.arity → qHead x q = some t → t.kind = .data → (∀ j < x.act.arity, j ≠ q → qHead x j = none) →
    placeTok 16 x.act.arity (heldComplete (s.region r).layout x) x.store q t = .ok st c →
    exec (.matchedStoreTake r n) s = .next (putSite s r n { popQ x q with store := st, issue := x.issue ++ c.toList })) ∧
  (∀ (size k q : Nat) (held store : List MatchEntry) (t : Token), (held.any (fun e => e.tag == t.tag)) = false →
    (store.find? (fun e => e.tag == t.tag) = none → store.length + held.length < size →
      placeTok size k held store q t = .ok (store ++ [{ tag := t.tag, slots := (List.replicate k none).set q (some t) }]) none) ∧
    (∀ e, store.find? (fun e => e.tag == t.tag) = some e → e.slots.getD q none = none →
      (e.slots.set q (some t)).all (·.isSome) = true →
      placeTok size k held store q t = .ok (store.filter (fun x => x.tag != t.tag)) (some { e with slots := e.slots.set q (some t) })))

/-- Tokens, walks, plans, boxes, packets and chained accesses complete (R163 to R165, R174, R314, R126, R130, R132, R229 to R231, R412 to R418, R422,
R428 to R431): a token that has room beyond its track moves there; a walk that finds a leaf leaves it with its TLK, and is the answer to what was withheld; an
object that is accepted is placed, written and queued; a box reads its next element and writes it or sends it; a route entry or a row's element leaves for
its engine, and lands in its slot; a memory port takes a chained access or a fence as its next request. -/
def Obligations.MovementCompletes : Prop :=
  (∀ (s : State) (r n trk g vc : Nat) (t : Token), (s.region r).gang = some g → n < 1024 → trk < 8 → leadMark s r n trk = false →
    let u := countLead s r n trk
    grantVc u r n trk = some vc → srcHead n (u.site r n) trk vc = some t →
    let x := u.site r n
    let y := takeHead n x trk vc
    let v := moved (u.setSite r n (settleSite { y with rr := fset y.rr trk ((vc + 1) % 32) })) r n
    let w := if (coloursOut x y).isEmpty then v else v.modRegion r (fun g => freeColours g (coloursOut x y))
    (∀ m k, farEnd n trk = some (m, k) → exec (.tokenHop r n trk) s = .next (arrive w r m k t)) ∧
    (∀ a, farEnd n trk = none → attachOf n trk = some a → exec (.tokenHop r n trk) s = .next (w.modRegion r (fun g => { g with
      trl := { g.trl with inq := fset g.trl.inq a (fgetD g.trl.inq a [] ++ [t]) } })))) ∧
  (∀ (s u : State) (r t : Nat) (a e : W64) (l1 : Bool) (k : Tlk), t < 8 → doWalk s r a = (u, .leaf e l1) →
    tlkInstall (u.tlk r t) (a.toNat / 65536) e l1 = some k →
    (∀ i, (s.region r).walks[i]? = some (tlkKey r t, a) →
      exec (.walkComplete r i) s = .next ((endWalk u r (tlkKey r t) a).setTlk r t k))) ∧
  (∀ (s u : State) (r i : Nat) (w : Withheld) (e : W64) (l1 : Bool), (s.region r).withheld[i]? = some w → w.last + 2000 ≤ s.ns →
    w.res = .pending → freeWalk s r = true → kvHolds s r w = false → doWalk (walkedNow s r i w) r w.va = (u, .leaf e l1) →
    let v := u.modRegion r (fun g => { g with withheld := g.withheld.map (fun x => if x.is w.key w.va then { x with res := .leaf e l1 } else x) })
    (w.key % 2 = 1 → 200000 ≤ w.key → exec (.walkerRetry r i) s = .next v) ∧
    (w.key % 2 = 0 → exec (.walkerRetry r i) s = .next (v.modCore (w.key / 2) (fun c => { c with
      run := { c.run with slots := c.run.slots.map (fun x => { x with stall := false }) } }))) ∧
    (∀ t k, t < 8 → r < 64 → w.key = tlkKey r t → tlkKv (s.site r (tlkSite t)) = false → tlkInstall (u.tlk r t) (w.va.toNat / 65536) e l1 = some k →
      exec (.walkerRetry r i) s = .next ((endWalk u r w.key w.va).setTlk r t k))) ∧
  (∀ (s s1 : State) (sid : Nat) (c : Cmd) (p : Placed), headCmd s sid 6 = some c → let q := reap s
    let x := q.session sid
    planNo q x.g c.body = none → x.plans.length < 256 → let xs := sectionsOf c.body
    placeAll q sid xs = .ok s1 p →
    let home := if (manifestOf xs).home < 4 then (manifestOf xs).home else 0
    let s2 := (writePlan s1 xs p home).modSession sid (fun y => { y with
      plans := fset y.plans x.nextPh (planOfObject xs p home), nextPh := x.nextPh + 1 })
    exec (.loadplan sid) s = .next (finish (queueRecords s2 sid [] ((List.range (nlaunch xs)).map (recordLaunch xs p home sid x.nextPh)))
      sid c .ok (leBytes x.nextPh 4 ++ leBytes 0 4))) ∧
  (∀ (s v w : State) (r y : Nat) (b b' b'' : Box) (bs : List Byte) (poi : Bool) (p : Option (Nat × Nat)), portReady s r y = true →
    let u := discardLoose s r y
    AtElement u r y b → b.asked = false → b.d.sm = 0 → fetchElem u r y b = .ok v b' bs poi p → b'.d = b.d →
    let rows := fun (t : State) =>
      (b.d.kind = 1 → exec (.boxCp r y) s = .next (noteAsked t r y 0)) ∧ (b.d.kind = 2 → exec (.boxGath r y) s = .next (noteAsked t r y 0)) ∧
      (b.d.kind = 3 → exec (.boxScat r y) s = .next (noteAsked t r y 0)) ∧ (b.d.kind = 4 → exec (.boxGl r y) s = .next (noteAsked t r y 0))
    (b.d.dm = 0 → putPlain v r y b' bs poi = .ok w b'' → b''.d = b.d →
      rows (setBox (passPlain w b'' p) r y 0 { b'' with pos := b''.pos + 1, count := if boxClipped b' then b''.count else b''.count + 1 })) ∧
    (b.d.dm = 3 → (∀ k e, p = some (k, e) → (v.win k).mkd = false) →
      rows (setBox v r y 0 { b' with
        toks := elemTokens b'.d b'.pos [] [] bs poi (elemTag v b'), pos := b'.pos + 1, count := if boxClipped b' then b'.count else b'.count + 1 }))) ∧
  (∀ (s v : State) (r y : Nat) (b b' : Box) (bs : List Byte) (poi : Bool) (p : Option (Nat × Nat)),
    let rows := fun (t : State) => (b.d.dm = 4 → exec (.routeDelivery r y) s = .next t) ∧ (b.d.dm = 5 → exec (.rowDelivery r y) s = .next t)
    AtEngine s r y b.d.dm b →
    (b.pkt = none → b.closed = false → ((s.pt r y).asked = true → b.asked = true) → b.started = true → b.skip = 0 →
      b.later = [] → (b.pos = 0 → dispatchBad s r b.d = false) → slotOpen s r b = true →
      fetchElem s r y b = .ok v b' bs poi p →
      rows (noteAsked ((setBox v r y 0 { b' with pkt := some (bs, poi, p) }).modEng r b.d.me (fun e => { e with drain := e.drain + 1 })) r y 0)) ∧
    (b.pkt = some (bs, poi, p) → countLate s r b = false →
      let u := packetLands s r b.d.me
      let g := crsRing s r
      let c := { b with pkt := none }
      let counts := b.skip == 0 && !boxClipped b
      (b.d.dm = 4 → let x := leNat bs
        let ex := nbits x 39 32
        let i := b.d.slot + b.pos / b.d.kgrp
        let slot := (u.eng r b.d.me).slot i
        nbits x 63 41 = 0 →
        (nbit x 40 = false → exec (.routeDelivery r y) s = .next (dispatchDone u r y 0 c p counts)) ∧
        (nbit x 40 = true → ex < g.nexp → slot.mask.contains ex = false → crsRing u r = g →
          let w := u.modEng r b.d.me (fun e => { e with
            slots := fset e.slots i { slot with mask := slot.mask ++ [ex], gate := fset slot.gate ex (nbits x 31 0) } })
          exec (.routeDelivery r y) s = .next (dispatchDone (w.modRegion r (fun q => { q with crs := { q.crs with
            incr := (w.cyc, b.d.me), rcnt := fset q.crs.rcnt ex (min (fgetD q.crs.rcnt ex 0 + 1) (2 ^ 32 - 1))
            rsum := fset q.crs.rsum ex (f32Add (fgetD q.crs.rsum ex 0) (nbits x 31 0)) } })) r y 0 c p counts))) ∧
      (b.d.dm = 5 → crsRing u r = g → let n := rowLen g
        let j := b.d.slot + b.pos / n
        exec (.rowDelivery r y) s = .next (dispatchDone (u.modEng r b.d.me (fun e => { e with
          slots := fset e.slots j { e.slot j with
            row := putRow (e.slot j).row bs (b.pos % n * b.d.esz), poi := (e.slot j).poi || poi } })) r y 0 c p counts)))) ∧
  (∀ (s : State) (r n : Nat) (z : Site) (tag tg : W64) (ts : List Token) (w : State), elemReady s r n = true →
    let u := portSettle s r (n / 32)
    let f := (s.site r n).act.fop
    elemReady u r n = true → (u.site r n).act.fop = f → (u.site r n).reqs.length < 16 → drawFree s r n → dataSet (u.site r n) = some (z, tag, ts) →
    (∀ h, qHead (u.site r n) 0 = some h → h.kind ≠ .ctl) →
    z.act = (u.site r n).act → outTag u r z.act tag ts 0 = some (tg, w) →
    let a := ts.headD {}
    let b := ts.getD 1 {}
    let pin := if portApt z then none else some (portTlk z * 512 + a.v.toNat / 2 ^ 23)
    let takes := fun (i : Instr) (q : MemReq) =>
      exec i s = .next (noteDraws r n s (portSettle (issueReq (addReq w r n { z with cnt := z.cnt + 1 } q) r n) r (n / 32)))
    let q : MemReq := { id := 0, kind := .chRead, addr := a.v.toNat, tag := tag, otag := tg, val := b.v, pinned := pin }
    (f = 0x42 → a.poi = false → b.poi = false → ∀ c, portChain z b.v = some c → takes (.elementMrdcMwrc r n) { q with chain := some c }) ∧
    (f = 0x43 → a.poi = false → b.poi = false → ∀ c, portChain z b.v = some c → takes (.elementMrdcMwrc r n)
      { q with kind := .chWrite, val := (ts.getD 2 {}).v, poi := (ts.getD 2 {}).poi, chain := some c }) ∧
    (f = 0x45 → takes (.elementMfen r n) { q with kind := .fence false, poi := a.poi, pinned := none }))

/-- halt (R391): it decodes on a Lodge core, and is F_PRIV on another; it stops its core at the commit, which resumes at the next block in section
order when a message reaches one of its mailboxes. -/
def Obligations.HaltAndMailbox : Prop :=
  (∀ (c : DecCtx), decodeAt c 0x5800000000000000#64 = (if c.kind = .lodge then .ok .halt else .error .priv)) ∧
  (∀ (s : State) (t : Nat), Ready s none [] t [] → ∃ s', exec .halt s = .next s' ∧ Branched s s' t .halt ∧ FiresOnly s s' none) ∧
  (∀ (s : State) (core : CoreId), let k := coreKey core
    640 ≤ k → (s.core k).phase = .ending .halt → (s.core k).outq = [] → (s.core k).post = [] →
    exec (.blockCommit core) s = .next (s.modCore k (fun c => { c with phase := .halted c.run.nextAddr }))) ∧
  (∀ (s : State) (c : Nat) (cs : List Nat), s.inputs.mailbox = c :: cs →
    let u := { s with inputs := { s.inputs with mailbox := cs }, mailbox := s.mailbox ++ [c] }
    let k := 640 + c % 8
    exec .mailboxMessage s = .next (u.modCore k (fun x => { x with
      phase := wake x.phase, trapped := x.trapped.map (fun t => { t with resume := wake t.resume }) }))) ∧
  (∀ (a : W64), wake (.halted a) = .start a) ∧ (∀ (p : Phase), (∀ a, p ≠ .halted a) → wake p = p)
end

