-- ==== Sys2Proof/Laws/Memory.lean ====
section
/-! SUPPORT. Finite maps read back what was set; memory keeps its canonical form under every write, and a write changes no other byte. -/

namespace Sys2Proof.Machine

variable {ν : Type}

/- Finite maps. -/

/-- A map answers at a key the value set there. -/
theorem fget_fset_same (m : FMap ν) (a : Nat) (x : ν) : fget (fset m a x) a = some x := by
  induction m with
  | nil => simp [fset, fget]
  | cons c m ih =>
    obtain ⟨k, v⟩ := c
    simp only [fset]
    split
    · simp [fget]
    · split
      · simp [fget]
      · rename_i h1 h2
        simp only [fget, beq_iff_eq] at *
        rw [if_neg h2, if_neg (by omega), ih]

/-- Setting a key leaves every other key alone. -/
theorem fget_fset_other (m : FMap ν) {a b : Nat} (x : ν) (h : b ≠ a) : fget (fset m a x) b = fget m b := by
  induction m with
  | nil => simp [fset, fget]; omega
  | cons c m ih =>
    obtain ⟨k, v⟩ := c
    simp only [fset]
    split
    · rename_i h1
      simp only [fget, beq_iff_eq]
      rw [if_neg (by omega)]
      split
      · rw [if_neg (by omega), if_pos (by omega)]
      · rfl
    · split
      · rename_i h1 h2
        simp only [beq_iff_eq] at h2
        simp only [fget, beq_iff_eq]
        subst h2
        rw [if_neg (Ne.symm h), if_neg (Ne.symm h)]
      · simp only [fget, ih]

/-- Removing a key leaves every other key alone. -/
theorem fget_ferase_other (m : FMap ν) (a b : Nat) (hm : frising m = true) (h : b ≠ a) : fget (ferase m a) b = fget m b := by
  induction m with
  | nil => rfl
  | cons c m ih =>
    obtain ⟨k, v⟩ := c
    have hm' : frising m = true := by
      cases m with
      | nil => rfl
      | cons d m => obtain ⟨k', v'⟩ := d; simp only [frising, Bool.and_eq_true] at hm; exact hm.2
    simp only [ferase]
    split
    · rfl
    · split
      · rename_i h1 h2
        simp only [beq_iff_eq] at h2
        simp only [fget, beq_iff_eq]
        rw [if_neg (by omega)]
        split
        · rename_i h3
          cases m with
          | nil => rfl
          | cons d m =>
            obtain ⟨k', v'⟩ := d
            simp only [frising, Bool.and_eq_true, decide_eq_true_eq] at hm
            simp only [fget, beq_iff_eq]
            rw [if_neg (by omega), if_pos (by omega)]
        · rfl
      · simp only [fget, ih hm']

/-- A key that has been removed is not listed. -/
theorem fget_ferase_same (m : FMap ν) (a : Nat) (hm : frising m = true) : fget (ferase m a) a = none := by
  induction m with
  | nil => rfl
  | cons c m ih =>
    obtain ⟨k, v⟩ := c
    have hm' : frising m = true := by
      cases m with
      | nil => rfl
      | cons d m => obtain ⟨k', v'⟩ := d; simp only [frising, Bool.and_eq_true] at hm; exact hm.2
    simp only [ferase]
    split
    · rename_i h1
      simp only [fget, beq_iff_eq]
      rw [if_neg (by omega), if_pos h1]
    · split
      · rename_i h1 h2
        simp only [beq_iff_eq] at h2
        cases m with
        | nil => rfl
        | cons d m =>
          obtain ⟨k', v'⟩ := d
          simp only [frising, Bool.and_eq_true, decide_eq_true_eq] at hm
          simp only [fget, beq_iff_eq]
          rw [if_neg (by omega), if_pos (by omega)]
      · rename_i h1 h2
        simp only [beq_iff_eq] at h2
        simp only [fget, beq_iff_eq]
        rw [if_neg h2, if_neg (by omega), ih hm']

/-- Every key of the map lies above a. -/
def keysAbove (a : Nat) (m : FMap ν) : Prop := ∀ c ∈ m, a < c.1

theorem frising_cons (k : Nat) (v : ν) (m : FMap ν) : frising ((k, v) :: m) = true ↔ keysAbove k m ∧ frising m = true := by
  induction m generalizing k v with
  | nil => simp [frising, keysAbove]
  | cons d m ih =>
    obtain ⟨k', v'⟩ := d
    simp only [frising, Bool.and_eq_true, decide_eq_true_eq]
    constructor
    · rintro ⟨h1, h2⟩
      refine ⟨?_, h2⟩
      intro c hc
      cases hc with
      | head => exact h1
      | tail _ hc => exact Nat.lt_trans h1 (((ih k' v').mp h2).1 c hc)
    · rintro ⟨h1, h2⟩
      exact ⟨h1 _ (List.mem_cons_self ..), h2⟩

theorem keysAbove_fset {a k : Nat} (x : ν) (m : FMap ν) (h : k < a) (hm : keysAbove k m) :
    keysAbove k (fset m a x) := by
  induction m with
  | nil => intro c hc; simp only [fset, List.mem_singleton] at hc; subst hc; exact h
  | cons d m ih =>
    obtain ⟨k', v'⟩ := d
    have h0 : k < k' := hm _ (List.mem_cons_self ..)
    have h1 : keysAbove k m := fun c hc => hm c (List.mem_cons_of_mem _ hc)
    simp only [fset]
    split
    · intro c hc
      cases hc with
      | head => exact h
      | tail _ hc => exact hm c hc
    · split
      · intro c hc
        cases hc with
        | head => exact h
        | tail _ hc => exact h1 c hc
      · intro c hc
        cases hc with
        | head => exact h0
        | tail _ hc => exact ih h1 c hc

/-- Setting a key keeps the keys rising. -/
theorem frising_fset (m : FMap ν) (a : Nat) (x : ν) (h : frising m = true) : frising (fset m a x) = true := by
  induction m with
  | nil => rfl
  | cons d m ih =>
    obtain ⟨k, v⟩ := d
    obtain ⟨hb, hr⟩ := (frising_cons k v m).mp h
    simp only [fset]
    split
    · rename_i h1
      rw [frising_cons]
      refine ⟨?_, h⟩
      intro c hc
      cases hc with
      | head => exact h1
      | tail _ hc => exact Nat.lt_trans h1 (hb c hc)
    · split
      · rename_i h1 h2
        simp only [beq_iff_eq] at h2
        subst h2
        rw [frising_cons]
        exact ⟨hb, hr⟩
      · rename_i h1 h2
        simp only [beq_iff_eq] at h2
        rw [frising_cons]
        exact ⟨keysAbove_fset x m (by omega) hb, ih hr⟩

theorem mem_ferase {m : FMap ν} {a : Nat} {c : Nat × ν} (h : c ∈ ferase m a) : c ∈ m := by
  induction m with
  | nil => exact h
  | cons d m ih =>
    obtain ⟨k, v⟩ := d
    simp only [ferase] at h
    split at h
    · exact h
    · split at h
      · exact List.mem_cons_of_mem _ h
      · cases h with
        | head => exact List.mem_cons_self ..
        | tail _ h => exact List.mem_cons_of_mem _ (ih h)

theorem mem_fset {m : FMap ν} {a : Nat} {x : ν} {c : Nat × ν} (h : c ∈ fset m a x) : c = (a, x) ∨ c ∈ m := by
  induction m with
  | nil => simp only [fset, List.mem_singleton] at h; exact .inl h
  | cons d m ih =>
    obtain ⟨k, v⟩ := d
    simp only [fset] at h
    split at h
    · cases h with
      | head => exact .inl rfl
      | tail _ h => exact .inr h
    · split at h
      · cases h with
        | head => exact .inl rfl
        | tail _ h => exact .inr (List.mem_cons_of_mem _ h)
      · cases h with
        | head => exact .inr (List.mem_cons_self ..)
        | tail _ h =>
          rcases ih h with h | h
          · exact .inl h
          · exact .inr (List.mem_cons_of_mem _ h)

/-- Removing a key keeps the keys rising. -/
theorem frising_ferase (m : FMap ν) (a : Nat) (h : frising m = true) : frising (ferase m a) = true := by
  induction m with
  | nil => rfl
  | cons d m ih =>
    obtain ⟨k, v⟩ := d
    obtain ⟨hb, hr⟩ := (frising_cons k v m).mp h
    simp only [ferase]
    split
    · exact h
    · split
      · exact hr
      · rw [frising_cons]
        exact ⟨fun c hc => hb c (mem_ferase hc), ih hr⟩

/- Memory. -/

theorem wf_iff (m : Memory) : m.wf = true ↔ frising m = true ∧ ∀ c ∈ m, c.2 ≠ Memory.blank := by
  simp [Memory.wf, List.all_eq_true]

/-- Writing a byte keeps the canonical form. -/
theorem writeByte_wf (m : Memory) (a : Nat) (v : Byte) (h : m.wf = true) : (writeByte m a v).wf = true := by
  obtain ⟨hr, hb⟩ := (wf_iff m).mp h
  rw [wf_iff]
  unfold writeByte
  split
  · exact ⟨frising_ferase m a hr, fun c hc => hb c (mem_ferase hc)⟩
  · rename_i hv
    simp only [beq_iff_eq] at hv
    refine ⟨frising_fset m a v hr, fun c hc => ?_⟩
    rcases mem_fset hc with h | h
    · rw [h]; exact hv
    · exact hb c h

/-- Writing bytes keeps the canonical form. -/
theorem writeBytes_wf (bs : List Byte) : ∀ (m : Memory) (a : Nat), m.wf = true → (writeBytes m a bs).wf = true := by
  induction bs with
  | nil => intro m a h; exact h
  | cons v bs ih => intro m a h; exact ih _ _ (writeByte_wf m a v h)

theorem writeLe_wf (m : Memory) (a n x : Nat) (h : m.wf = true) : (writeLe m a n x).wf = true := writeBytes_wf _ _ _ h

/-- A byte reads as it was written. -/
theorem readByte_writeByte_same (m : Memory) (a : Nat) (v : Byte) (h : m.wf = true) : readByte (writeByte m a v) a = v := by
  unfold readByte writeByte fgetD
  split
  · rename_i hv
    simp only [beq_iff_eq] at hv
    rw [fget_ferase_same m a ((wf_iff m).mp h).1, hv]
    rfl
  · rw [fget_fset_same]
    rfl

/-- A write leaves every other byte alone. -/
theorem readByte_writeByte_other (m : Memory) {a b : Nat} (v : Byte) (h : m.wf = true) (hn : b ≠ a) :
    readByte (writeByte m a v) b = readByte m b := by
  unfold readByte writeByte fgetD
  split
  · rw [fget_ferase_other m a b ((wf_iff m).mp h).1 hn]
  · rw [fget_fset_other m v hn]

/-- A write of bytes leaves every byte outside them alone. -/
theorem readByte_writeBytes_other (bs : List Byte) : ∀ (m : Memory) (a b : Nat), m.wf = true → (b < a ∨ a + bs.length ≤ b) →
    readByte (writeBytes m a bs) b = readByte m b := by
  induction bs with
  | nil => intro m a b _ _; rfl
  | cons v bs ih =>
    intro m a b h hb
    simp only [List.length_cons] at hb
    simp only [writeBytes]
    rw [ih _ _ _ (writeByte_wf m a v h) (by omega), readByte_writeByte_other m v h (by omega)]

/-- Bytes read back as they were written. -/
theorem readBytes_writeBytes_same (bs : List Byte) : ∀ (m : Memory) (a : Nat), m.wf = true →
    readBytes (writeBytes m a bs) a bs.length = bs := by
  induction bs with
  | nil => intro m a _; rfl
  | cons v bs ih =>
    intro m a h
    simp only [writeBytes, List.length_cons, readBytes]
    rw [ih _ _ (writeByte_wf m a v h), readByte_writeBytes_other bs _ _ _ (writeByte_wf m a v h) (by omega),
      readByte_writeByte_same m a v h]

end Sys2Proof.Machine
end

