-- ==== Sys2Proof/Laws/Fire.lean ====
section
/-! SUPPORT. What firing an instruction of a block does: the slot it writes and what it leaves alone, for a value, a fault, an operation laid
aside and a branch. -/

namespace Sys2Proof.Machine

/- Cores. -/

@[simp] theorem core_setCore_same (s : State) (k : Nat) (c : Core) : (s.setCore k c).core k = c := by
  simp [State.core, State.setCore, fgetD, fget_fset_same]

theorem core_setCore_other (s : State) {k j : Nat} (c : Core) (h : j ≠ k) : (s.setCore k c).core j = s.core j := by
  simp [State.core, State.setCore, fgetD, fget_fset_other _ _ h]

@[simp] theorem curKey_setCore (s : State) (k : Nat) (c : Core) : (s.setCore k c).curKey = s.curKey := rfl

@[simp] theorem curCore_setCore (s : State) (c : Core) : (s.setCore s.curKey c).curCore = c := core_setCore_same s _ c

/- Slots. -/

/-- An instruction that can fire has a slot. -/
theorem canFire_slot {s : State} (h : canFire s = true) : s.idx < s.curCore.run.slots.length := by
  simp only [canFire, Bool.and_eq_true] at h
  obtain ⟨-, h⟩ := h
  split at h
  · rename_i x hx
    exact (List.getElem?_eq_some_iff.mp hx).1
  · cases h

@[simp] theorem issue_slots (r : BlockRun) (t : Nat) : (r.issue t).slots = r.slots := by
  unfold BlockRun.issue; split <;> rfl

@[simp] theorem issue_o (r : BlockRun) (t : Nat) : (r.issue t).o = r.o := by
  unfold BlockRun.issue; split <;> rfl

@[simp] theorem issue_cursor (r : BlockRun) (t : Nat) : (r.issue t).cursor = r.cursor := by
  unfold BlockRun.issue; split <;> rfl

/-- Accounting for a firing changes the cycle and the count of its instructions, nothing else. -/
theorem issue_rest (r : BlockRun) (t : Nat) : r.issue t = { r with cyc := (r.issue t).cyc, issued := (r.issue t).issued } := by
  unfold BlockRun.issue; split <;> rfl

/-- The slot of the firing instruction, as fireSlot hands it to its caller. -/
def firing (s : State) (t : Nat) : Slot := { s.curCore.run.slot s.idx with fired := true, at_ := t, stall := false }

/-- The firing instruction's slot is what the caller makes of it. -/
theorem fireSlot_fired {s : State} (h : canFire s = true) (t : Nat) (f : Slot → Slot) : s.fired (fireSlot s t f) = f (firing s t) := by
  have hl := canFire_slot h
  simp only [State.fired, fireSlot, core_setCore_same, BlockRun.slot, BlockRun.setSlot, List.getD_eq_getElem?_getD]
  rw [show s.curCore.run.cursor = s.idx from rfl, List.getElem?_set_self (by simpa using hl)]
  simp [firing, BlockRun.slot]

/-- Firing changes the acting core's block alone: its other slots and its o-slots stay. -/
theorem fireSlot_only (s : State) (t : Nat) (f : Slot → Slot) (d : Option Dst) : FiresOnly s (fireSlot s t f) d := by
  refine ⟨rfl, fun k hk => core_setCore_other s _ hk, ?_⟩
  simp only [fireSlot, core_setCore_same, BlockRun.setSlot]
  refine ⟨trivial, ?_, fun j hj => ?_, fun n _ => ?_⟩
  · conv_lhs => rw [issue_rest]
    conv_rhs => rw [issue_rest]
  · exact (List.getElem?_set_ne (Ne.symm hj)).trans (by simp)
  · simp

/-- A fault whose word claims no o-slot changes the acting core's block alone. -/
theorem fireFault_only_of {s : State} (e : claimO s = s) {t lat : Nat} {c : FCode} {cause : Nat} {a b : Option Operand} {d : Option Dst} :
    FiresOnly s (fireFault s t lat c cause a b) d := by
  rw [fireFault, e]; exact fireSlot_only s t _ d

/-- An o-slot's writer is noted: the acting core's table of o-slots alone changes. -/
theorem noteO_core (s : State) (n : Fin 16) :
    noteO s (.o n) = s.setCore s.curKey { s.curCore with run := { s.curCore.run with o := fset s.curCore.run.o n.val s.idx } } := rfl

theorem noteO_curCore (s : State) (n : Fin 16) :
    (noteO s (.o n)).curCore = { s.curCore with run := { s.curCore.run with o := fset s.curCore.run.o n.val s.idx } } := by
  rw [noteO_core, curCore_setCore]

theorem noteO_idx (s : State) (n : Fin 16) : (noteO s (.o n)).idx = s.idx := by rw [State.idx, noteO_curCore]; rfl

theorem noteO_fired (s t : State) (n : Fin 16) : (noteO s (.o n)).fired t = s.fired t := by
  rw [State.fired, State.fired, noteO_idx, show (noteO s (.o n)).curKey = s.curKey from rfl]

theorem noteO_firing (s : State) (t : Nat) (n : Fin 16) : firing (noteO s (.o n)) t = firing s t := by
  rw [firing, firing, noteO_idx, noteO_curCore]; rfl

theorem noteO_canFire {s : State} (n : Fin 16) (h : canFire s = true) : canFire (noteO s (.o n)) = true := by
  simpa [canFire, noteO_curCore] using h

/-- Firing after an o-slot's writer has been noted. -/
theorem noteO_only {s t : State} (n : Fin 16) (h : FiresOnly (noteO s (.o n)) t none) : FiresOnly s t (some (.o n)) := by
  obtain ⟨h1, h2, h3⟩ := h
  have hk : (noteO s (.o n)).curKey = s.curKey := rfl
  simp only [State.idx, noteO_curCore, hk] at h2 h3
  obtain ⟨h4, h5, h6, h7⟩ := h3
  refine ⟨h1, fun k hk => (h2 k hk).trans ?_, h4, h5, h6, fun m hm => (h7 m (by simp)).trans ?_⟩
  · rw [noteO_core, core_setCore_other _ _ hk]
  · exact fget_fset_other _ _ (fun e => hm (by rw [Fin.ext e]))

/-- What claiming the o-slot of the word can do: its slot is taken already or it names none, and nothing changes; or its writer is noted. -/
theorem claimO_cases (s : State) :
    (claimO s = s ∧ ∀ n, s.dst = some (.o n) → fget s.curCore.run.o n.val = some (fgetD s.curCore.run.o n.val s.idx)) ∨
    ∃ n, s.dst = some (.o n) ∧ fget s.curCore.run.o n.val = none ∧ claimO s = noteO s (.o n) := by
  unfold claimO
  change (_ ∧ ∀ n, wordDst (s.curCore.run.slot s.curCore.run.cursor).word = _ → _) ∨ _
  split
  · rename_i d hd
    cases d with
    | g n => exact .inl ⟨by simp [oTaken, noteO], fun m hm => by rw [hd] at hm; cases hm⟩
    | o n =>
      cases ho : fget s.curCore.run.o n.val with
      | some j =>
        refine .inl ⟨by simp [oTaken, ho], fun m hm => ?_⟩
        rw [hd] at hm; cases hm
        simp [fgetD, ho]
      | none => exact .inr ⟨n, hd, ho, by simp [oTaken, ho]⟩
  · rename_i hd
    exact .inl ⟨rfl, fun m hm => by rw [hd] at hm; cases hm⟩

/-- A fault at fire (R347). -/
theorem fireFault_faulted {s : State} (h : canFire s = true) (t lat : Nat) (c : FCode) (cause : Nat) (a b : Option Operand) :
    Faulted s (fireFault s t lat c cause a b) t c cause := by
  rcases claimO_cases s with ⟨e, ho⟩ | ⟨n, hd, hn, e⟩
  · refine ⟨?_, ?_, ?_, ?_, ?_, fun n hn => ?_, fireFault_only_of e⟩
    all_goals first | (simp [fireFault, e, fireSlot_fired h, firing]; done) | skip
    simp only [fireFault, e]
    exact ((fireSlot_only s t _ none).2.2.2.2.2 n (by simp)).trans (ho n hn)
  · have hf : ∀ f, s.fired (fireSlot (noteO s (.o n)) t f) = f (firing s t) := fun f => by
      rw [← noteO_fired, fireSlot_fired (noteO_canFire n h), noteO_firing]
    refine ⟨?_, ?_, ?_, ?_, ?_, fun m hm => ?_, ?_⟩
    · simp [fireFault, e, hf, firing]
    · simp [fireFault, e, hf, firing]
    · simp [fireFault, e, hf]
    · simp [fireFault, e, hf]
    · simp [fireFault, e, hf]
    · rw [hd] at hm; cases hm
      simp only [fireFault, e]
      refine ((fireSlot_only (noteO s (.o n)) t _ none).2.2.2.2.2 n (by simp)).trans ?_
      rw [noteO_curCore]
      simp [fget_fset_same, fgetD, hn]
    · rw [hd]
      simp only [fireFault, e]
      exact noteO_only n (fireSlot_only _ t _ none)

/-- A result lands where D is free (R343, R345, R364). -/
theorem land_landed {s : State} (h : canFire s = true) (t lat : Nat) (d : Dst) (v : W64) (poi : Bool) (a b : Option Operand)
    (hd : DstFree s d poi) : Landed s (land s t lat d v poi a b) t lat d v poi := by
  obtain ⟨h1, h2⟩ := hd
  cases d with
  | g n =>
    have hp : poi = false := by
      cases poi with
      | false => rfl
      | true => obtain ⟨m, hm⟩ := h2 rfl; cases hm
    subst hp
    simp only [land, h1, Bool.false_eq_true, if_false]
    refine ⟨?_, ?_, ?_, ?_, ?_, ?_, (fun m hm => by cases hm), fireSlot_only s t _ _⟩ <;> simp [fireSlot_fired h, firing]
  | o n =>
    simp only [land, h1, Bool.false_eq_true, if_false]
    have hf : ∀ f, s.fired (fireSlot (noteO s (.o n)) t f) = f (firing s t) := fun f => by
      rw [← noteO_fired, fireSlot_fired (noteO_canFire n h), noteO_firing]
    have h7 := fun f => (fireSlot_only (noteO s (.o n)) t f none).2.2.2.2.2 n (by simp)
    refine ⟨by simp [hf, firing], by simp [hf, firing], by simp [hf], by simp [hf], by simp [hf], by simp [hf, firing], fun m hm => ?_,
      noteO_only n (fireSlot_only _ t _ none)⟩
    cases hm
    exact (h7 _).trans (by rw [noteO_curCore]; exact fget_fset_same _ _ _)

/- Readiness. -/

/-- An instruction that is ready fires with its operands (R344, R345). -/
theorem beginFire_ready {s : State} {p : Option Pred} {srcs : List Src} {t : Nat} {vs : List Operand} (h : Ready s p srcs t vs)
    (d : Option Dst) : beginFire s d p srcs = .go t vs := by
  obtain ⟨h1, ⟨u, h2, rfl⟩, h3⟩ := h
  simp only [State.idx] at h2 h3
  simp [beginFire, h1, h2, h3]

/-- A computing instruction, from the body it is made of: the three ways its result ends. -/
theorem computes_of_execVal {i : Instr} {d : Dst} {p : Option Pred} {srcs : List Src} {lat : Nat} {f : List Operand → W64 × Bool}
    (h : ∀ s, exec i s = .next (execVal d p srcs lat (fun vs => .val (f vs).1 (f vs).2) s)) : Computes i d p srcs lat f := by
  intro s t vs hr
  have hc := hr.1
  rw [h s, execVal, beginFire_ready hr]
  refine ⟨fun hd => ⟨_, rfl, land_landed hc _ _ _ _ _ _ _ hd⟩, fun ho => ⟨_, rfl, ?_⟩, fun n hn hp => ⟨_, rfl, ?_⟩⟩
  · simp only [land, ho, if_true]
    exact fireFault_faulted hc _ _ _ _ _ _
  · subst hn
    simp only [land, oTaken, hp, if_true, Bool.false_eq_true, if_false]
    exact fireFault_faulted hc _ _ _ _ _ _

/-- A computing instruction whose poison is that of its operands. -/
theorem computes_of_execPure {i : Instr} {d : Dst} {p : Option Pred} {srcs : List Src} {lat : Nat} {f : List W64 → W64}
    (h : ∀ s, exec i s = .next (execPure d p srcs lat f s)) : Computes i d p srcs lat (pureOf f) :=
  computes_of_execVal h

/-- Computing with the same function is computing the same. -/
theorem computes_congr {i : Instr} {d : Dst} {p : Option Pred} {srcs : List Src} {lat : Nat} {f g : List Operand → W64 × Bool}
    (h : Computes i d p srcs lat f) (e : ∀ vs, f vs = g vs) : Computes i d p srcs lat g := by
  rw [← funext e]; exact h

/- Operations laid aside, and branches. -/

/-- An operation laid aside (R365). -/
theorem layAside_aside {s : State} (h : canFire s = true) (t : Nat) (op : OutOp) (a b : Option Operand) :
    LaidAside s (layAside s t op a b) t op := by
  refine ⟨?_, ?_, ?_, ?_, fireSlot_only s t _ none⟩ <;> simp [layAside, fireSlot_fired h, firing]

end Sys2Proof.Machine
end

