-- ==== Sys2Proof/Laws/State.lean ====
section
/-! SUPPORT. Each field of the state after each update of the state: one lemma per field and update. -/

namespace Sys2Proof.Machine

variable (s : State)

/- State.setCore. -/

@[simp] theorem State.setCore_ns (k : Nat) (c : Core) : (s.setCore k c).ns = s.ns := rfl
@[simp] theorem State.setCore_cyc (k : Nat) (c : Core) : (s.setCore k c).cyc = s.cyc := rfl
@[simp] theorem State.setCore_free (k : Nat) (c : Core) : (s.setCore k c).free = s.free := rfl
@[simp] theorem State.setCore_agenda (k : Nat) (c : Core) : (s.setCore k c).agenda = s.agenda := rfl
@[simp] theorem State.setCore_cur (k : Nat) (c : Core) : (s.setCore k c).cur = s.cur := rfl
@[simp] theorem State.setCore_inputs (k : Nat) (c : Core) : (s.setCore k c).inputs = s.inputs := rfl
@[simp] theorem State.setCore_mem (k : Nat) (c : Core) : (s.setCore k c).mem = s.mem := rfl
@[simp] theorem State.setCore_poison (k : Nat) (c : Core) : (s.setCore k c).poison = s.poison := rfl
@[simp] theorem State.setCore_full (k : Nat) (c : Core) : (s.setCore k c).full = s.full := rfl
@[simp] theorem State.setCore_wins (k : Nat) (c : Core) : (s.setCore k c).wins = s.wins := rfl
@[simp] theorem State.setCore_wq (k : Nat) (c : Core) : (s.setCore k c).wq = s.wq := rfl
@[simp] theorem State.setCore_access (k : Nat) (c : Core) : (s.setCore k c).access = s.access := rfl
@[simp] theorem State.setCore_ceil (k : Nat) (c : Core) : (s.setCore k c).ceil = s.ceil := rfl
@[simp] theorem State.setCore_ceilx (k : Nat) (c : Core) : (s.setCore k c).ceilx = s.ceilx := rfl
@[simp] theorem State.setCore_refusals (k : Nat) (c : Core) : (s.setCore k c).refusals = s.refusals := rfl
@[simp] theorem State.setCore_refLost (k : Nat) (c : Core) : (s.setCore k c).refLost = s.refLost := rfl
@[simp] theorem State.setCore_cores (k : Nat) (c : Core) : (s.setCore k c).cores = fset s.cores k c := rfl
@[simp] theorem State.setCore_regions (k : Nat) (c : Core) : (s.setCore k c).regions = s.regions := rfl
@[simp] theorem State.setCore_gangs (k : Nat) (c : Core) : (s.setCore k c).gangs = s.gangs := rfl
@[simp] theorem State.setCore_nextGang (k : Nat) (c : Core) : (s.setCore k c).nextGang = s.nextGang := rfl
@[simp] theorem State.setCore_queues (k : Nat) (c : Core) : (s.setCore k c).queues = s.queues := rfl
@[simp] theorem State.setCore_rrq (k : Nat) (c : Core) : (s.setCore k c).rrq = s.rrq := rfl
@[simp] theorem State.setCore_groups (k : Nat) (c : Core) : (s.setCore k c).groups = s.groups := rfl
@[simp] theorem State.setCore_chains (k : Nat) (c : Core) : (s.setCore k c).chains = s.chains := rfl
@[simp] theorem State.setCore_gapLim (k : Nat) (c : Core) : (s.setCore k c).gapLim = s.gapLim := rfl
@[simp] theorem State.setCore_gaps (k : Nat) (c : Core) : (s.setCore k c).gaps = s.gaps := rfl
@[simp] theorem State.setCore_sync (k : Nat) (c : Core) : (s.setCore k c).sync = s.sync := rfl
@[simp] theorem State.setCore_net (k : Nat) (c : Core) : (s.setCore k c).net = s.net := rfl
@[simp] theorem State.setCore_colls (k : Nat) (c : Core) : (s.setCore k c).colls = s.colls := rfl
@[simp] theorem State.setCore_collClosed (k : Nat) (c : Core) : (s.setCore k c).collClosed = s.collClosed := rfl
@[simp] theorem State.setCore_clamp (k : Nat) (c : Core) : (s.setCore k c).clamp = s.clamp := rfl
@[simp] theorem State.setCore_boot (k : Nat) (c : Core) : (s.setCore k c).boot = s.boot := rfl
@[simp] theorem State.setCore_keys (k : Nat) (c : Core) : (s.setCore k c).keys = s.keys := rfl
@[simp] theorem State.setCore_ports (k : Nat) (c : Core) : (s.setCore k c).ports = s.ports := rfl
@[simp] theorem State.setCore_links (k : Nat) (c : Core) : (s.setCore k c).links = s.links := rfl
@[simp] theorem State.setCore_mctpOut (k : Nat) (c : Core) : (s.setCore k c).mctpOut = s.mctpOut := rfl
@[simp] theorem State.setCore_sessions (k : Nat) (c : Core) : (s.setCore k c).sessions = s.sessions := rfl
@[simp] theorem State.setCore_chans (k : Nat) (c : Core) : (s.setCore k c).chans = s.chans := rfl
@[simp] theorem State.setCore_policy (k : Nat) (c : Core) : (s.setCore k c).policy = s.policy := rfl
@[simp] theorem State.setCore_wire (k : Nat) (c : Core) : (s.setCore k c).wire = s.wire := rfl
@[simp] theorem State.setCore_bell (k : Nat) (c : Core) : (s.setCore k c).bell = s.bell := rfl
@[simp] theorem State.setCore_bellLast (k : Nat) (c : Core) : (s.setCore k c).bellLast = s.bellLast := rfl
@[simp] theorem State.setCore_bellEnd (k : Nat) (c : Core) : (s.setCore k c).bellEnd = s.bellEnd := rfl
@[simp] theorem State.setCore_commons (k : Nat) (c : Core) : (s.setCore k c).commons = s.commons := rfl
@[simp] theorem State.setCore_hbm (k : Nat) (c : Core) : (s.setCore k c).hbm = s.hbm := rfl
@[simp] theorem State.setCore_mailbox (k : Nat) (c : Core) : (s.setCore k c).mailbox = s.mailbox := rfl
@[simp] theorem State.setCore_egress (k : Nat) (c : Core) : (s.setCore k c).egress = s.egress := rfl
@[simp] theorem State.setCore_clampEvents (k : Nat) (c : Core) : (s.setCore k c).clampEvents = s.clampEvents := rfl
@[simp] theorem State.setCore_eccCounts (k : Nat) (c : Core) : (s.setCore k c).eccCounts = s.eccCounts := rfl
@[simp] theorem State.setCore_lodgeFaults (k : Nat) (c : Core) : (s.setCore k c).lodgeFaults = s.lodgeFaults := rfl
@[simp] theorem State.setCore_parting (k : Nat) (c : Core) : (s.setCore k c).parting = s.parting := rfl
@[simp] theorem State.setCore_arrived (k : Nat) (c : Core) : (s.setCore k c).arrived = s.arrived := rfl

/- State.setRegion. -/

@[simp] theorem State.setRegion_ns (r : Nat) (x : Region) : (s.setRegion r x).ns = s.ns := rfl
@[simp] theorem State.setRegion_cyc (r : Nat) (x : Region) : (s.setRegion r x).cyc = s.cyc := rfl
@[simp] theorem State.setRegion_free (r : Nat) (x : Region) : (s.setRegion r x).free = s.free := rfl
@[simp] theorem State.setRegion_agenda (r : Nat) (x : Region) : (s.setRegion r x).agenda = s.agenda := rfl
@[simp] theorem State.setRegion_cur (r : Nat) (x : Region) : (s.setRegion r x).cur = s.cur := rfl
@[simp] theorem State.setRegion_inputs (r : Nat) (x : Region) : (s.setRegion r x).inputs = s.inputs := rfl
@[simp] theorem State.setRegion_mem (r : Nat) (x : Region) : (s.setRegion r x).mem = s.mem := rfl
@[simp] theorem State.setRegion_poison (r : Nat) (x : Region) : (s.setRegion r x).poison = s.poison := rfl
@[simp] theorem State.setRegion_full (r : Nat) (x : Region) : (s.setRegion r x).full = s.full := rfl
@[simp] theorem State.setRegion_wins (r : Nat) (x : Region) : (s.setRegion r x).wins = s.wins := rfl
@[simp] theorem State.setRegion_wq (r : Nat) (x : Region) : (s.setRegion r x).wq = s.wq := rfl
@[simp] theorem State.setRegion_access (r : Nat) (x : Region) : (s.setRegion r x).access = s.access := rfl
@[simp] theorem State.setRegion_ceil (r : Nat) (x : Region) : (s.setRegion r x).ceil = s.ceil := rfl
@[simp] theorem State.setRegion_ceilx (r : Nat) (x : Region) : (s.setRegion r x).ceilx = s.ceilx := rfl
@[simp] theorem State.setRegion_refusals (r : Nat) (x : Region) : (s.setRegion r x).refusals = s.refusals := rfl
@[simp] theorem State.setRegion_refLost (r : Nat) (x : Region) : (s.setRegion r x).refLost = s.refLost := rfl
@[simp] theorem State.setRegion_cores (r : Nat) (x : Region) : (s.setRegion r x).cores = s.cores := rfl
@[simp] theorem State.setRegion_regions (r : Nat) (x : Region) : (s.setRegion r x).regions = fset s.regions r x := rfl
@[simp] theorem State.setRegion_gangs (r : Nat) (x : Region) : (s.setRegion r x).gangs = s.gangs := rfl
@[simp] theorem State.setRegion_nextGang (r : Nat) (x : Region) : (s.setRegion r x).nextGang = s.nextGang := rfl
@[simp] theorem State.setRegion_queues (r : Nat) (x : Region) : (s.setRegion r x).queues = s.queues := rfl
@[simp] theorem State.setRegion_rrq (r : Nat) (x : Region) : (s.setRegion r x).rrq = s.rrq := rfl
@[simp] theorem State.setRegion_groups (r : Nat) (x : Region) : (s.setRegion r x).groups = s.groups := rfl
@[simp] theorem State.setRegion_chains (r : Nat) (x : Region) : (s.setRegion r x).chains = s.chains := rfl
@[simp] theorem State.setRegion_gapLim (r : Nat) (x : Region) : (s.setRegion r x).gapLim = s.gapLim := rfl
@[simp] theorem State.setRegion_gaps (r : Nat) (x : Region) : (s.setRegion r x).gaps = s.gaps := rfl
@[simp] theorem State.setRegion_sync (r : Nat) (x : Region) : (s.setRegion r x).sync = s.sync := rfl
@[simp] theorem State.setRegion_net (r : Nat) (x : Region) : (s.setRegion r x).net = s.net := rfl
@[simp] theorem State.setRegion_colls (r : Nat) (x : Region) : (s.setRegion r x).colls = s.colls := rfl
@[simp] theorem State.setRegion_collClosed (r : Nat) (x : Region) : (s.setRegion r x).collClosed = s.collClosed := rfl
@[simp] theorem State.setRegion_clamp (r : Nat) (x : Region) : (s.setRegion r x).clamp = s.clamp := rfl
@[simp] theorem State.setRegion_boot (r : Nat) (x : Region) : (s.setRegion r x).boot = s.boot := rfl
@[simp] theorem State.setRegion_keys (r : Nat) (x : Region) : (s.setRegion r x).keys = s.keys := rfl
@[simp] theorem State.setRegion_ports (r : Nat) (x : Region) : (s.setRegion r x).ports = s.ports := rfl
@[simp] theorem State.setRegion_links (r : Nat) (x : Region) : (s.setRegion r x).links = s.links := rfl
@[simp] theorem State.setRegion_mctpOut (r : Nat) (x : Region) : (s.setRegion r x).mctpOut = s.mctpOut := rfl
@[simp] theorem State.setRegion_sessions (r : Nat) (x : Region) : (s.setRegion r x).sessions = s.sessions := rfl
@[simp] theorem State.setRegion_chans (r : Nat) (x : Region) : (s.setRegion r x).chans = s.chans := rfl
@[simp] theorem State.setRegion_policy (r : Nat) (x : Region) : (s.setRegion r x).policy = s.policy := rfl
@[simp] theorem State.setRegion_wire (r : Nat) (x : Region) : (s.setRegion r x).wire = s.wire := rfl
@[simp] theorem State.setRegion_bell (r : Nat) (x : Region) : (s.setRegion r x).bell = s.bell := rfl
@[simp] theorem State.setRegion_bellLast (r : Nat) (x : Region) : (s.setRegion r x).bellLast = s.bellLast := rfl
@[simp] theorem State.setRegion_bellEnd (r : Nat) (x : Region) : (s.setRegion r x).bellEnd = s.bellEnd := rfl
@[simp] theorem State.setRegion_commons (r : Nat) (x : Region) : (s.setRegion r x).commons = s.commons := rfl
@[simp] theorem State.setRegion_hbm (r : Nat) (x : Region) : (s.setRegion r x).hbm = s.hbm := rfl
@[simp] theorem State.setRegion_mailbox (r : Nat) (x : Region) : (s.setRegion r x).mailbox = s.mailbox := rfl
@[simp] theorem State.setRegion_egress (r : Nat) (x : Region) : (s.setRegion r x).egress = s.egress := rfl
@[simp] theorem State.setRegion_clampEvents (r : Nat) (x : Region) : (s.setRegion r x).clampEvents = s.clampEvents := rfl
@[simp] theorem State.setRegion_eccCounts (r : Nat) (x : Region) : (s.setRegion r x).eccCounts = s.eccCounts := rfl
@[simp] theorem State.setRegion_lodgeFaults (r : Nat) (x : Region) : (s.setRegion r x).lodgeFaults = s.lodgeFaults := rfl
@[simp] theorem State.setRegion_parting (r : Nat) (x : Region) : (s.setRegion r x).parting = s.parting := rfl
@[simp] theorem State.setRegion_arrived (r : Nat) (x : Region) : (s.setRegion r x).arrived = s.arrived := rfl

/- State.setWin. -/

@[simp] theorem State.setWin_ns (w : Nat) (x : Window) : (s.setWin w x).ns = s.ns := rfl
@[simp] theorem State.setWin_cyc (w : Nat) (x : Window) : (s.setWin w x).cyc = s.cyc := rfl
@[simp] theorem State.setWin_free (w : Nat) (x : Window) : (s.setWin w x).free = s.free := rfl
@[simp] theorem State.setWin_agenda (w : Nat) (x : Window) : (s.setWin w x).agenda = s.agenda := rfl
@[simp] theorem State.setWin_cur (w : Nat) (x : Window) : (s.setWin w x).cur = s.cur := rfl
@[simp] theorem State.setWin_inputs (w : Nat) (x : Window) : (s.setWin w x).inputs = s.inputs := rfl
@[simp] theorem State.setWin_mem (w : Nat) (x : Window) : (s.setWin w x).mem = s.mem := rfl
@[simp] theorem State.setWin_poison (w : Nat) (x : Window) : (s.setWin w x).poison = s.poison := rfl
@[simp] theorem State.setWin_full (w : Nat) (x : Window) : (s.setWin w x).full = s.full := rfl
@[simp] theorem State.setWin_wins (w : Nat) (x : Window) : (s.setWin w x).wins = fset s.wins w x := rfl
@[simp] theorem State.setWin_wq (w : Nat) (x : Window) : (s.setWin w x).wq = s.wq := rfl
@[simp] theorem State.setWin_access (w : Nat) (x : Window) : (s.setWin w x).access = s.access := rfl
@[simp] theorem State.setWin_ceil (w : Nat) (x : Window) : (s.setWin w x).ceil = s.ceil := rfl
@[simp] theorem State.setWin_ceilx (w : Nat) (x : Window) : (s.setWin w x).ceilx = s.ceilx := rfl
@[simp] theorem State.setWin_refusals (w : Nat) (x : Window) : (s.setWin w x).refusals = s.refusals := rfl
@[simp] theorem State.setWin_refLost (w : Nat) (x : Window) : (s.setWin w x).refLost = s.refLost := rfl
@[simp] theorem State.setWin_cores (w : Nat) (x : Window) : (s.setWin w x).cores = s.cores := rfl
@[simp] theorem State.setWin_regions (w : Nat) (x : Window) : (s.setWin w x).regions = s.regions := rfl
@[simp] theorem State.setWin_gangs (w : Nat) (x : Window) : (s.setWin w x).gangs = s.gangs := rfl
@[simp] theorem State.setWin_nextGang (w : Nat) (x : Window) : (s.setWin w x).nextGang = s.nextGang := rfl
@[simp] theorem State.setWin_queues (w : Nat) (x : Window) : (s.setWin w x).queues = s.queues := rfl
@[simp] theorem State.setWin_rrq (w : Nat) (x : Window) : (s.setWin w x).rrq = s.rrq := rfl
@[simp] theorem State.setWin_groups (w : Nat) (x : Window) : (s.setWin w x).groups = s.groups := rfl
@[simp] theorem State.setWin_chains (w : Nat) (x : Window) : (s.setWin w x).chains = s.chains := rfl
@[simp] theorem State.setWin_gapLim (w : Nat) (x : Window) : (s.setWin w x).gapLim = s.gapLim := rfl
@[simp] theorem State.setWin_gaps (w : Nat) (x : Window) : (s.setWin w x).gaps = s.gaps := rfl
@[simp] theorem State.setWin_sync (w : Nat) (x : Window) : (s.setWin w x).sync = s.sync := rfl
@[simp] theorem State.setWin_net (w : Nat) (x : Window) : (s.setWin w x).net = s.net := rfl
@[simp] theorem State.setWin_colls (w : Nat) (x : Window) : (s.setWin w x).colls = s.colls := rfl
@[simp] theorem State.setWin_collClosed (w : Nat) (x : Window) : (s.setWin w x).collClosed = s.collClosed := rfl
@[simp] theorem State.setWin_clamp (w : Nat) (x : Window) : (s.setWin w x).clamp = s.clamp := rfl
@[simp] theorem State.setWin_boot (w : Nat) (x : Window) : (s.setWin w x).boot = s.boot := rfl
@[simp] theorem State.setWin_keys (w : Nat) (x : Window) : (s.setWin w x).keys = s.keys := rfl
@[simp] theorem State.setWin_ports (w : Nat) (x : Window) : (s.setWin w x).ports = s.ports := rfl
@[simp] theorem State.setWin_links (w : Nat) (x : Window) : (s.setWin w x).links = s.links := rfl
@[simp] theorem State.setWin_mctpOut (w : Nat) (x : Window) : (s.setWin w x).mctpOut = s.mctpOut := rfl
@[simp] theorem State.setWin_sessions (w : Nat) (x : Window) : (s.setWin w x).sessions = s.sessions := rfl
@[simp] theorem State.setWin_chans (w : Nat) (x : Window) : (s.setWin w x).chans = s.chans := rfl
@[simp] theorem State.setWin_policy (w : Nat) (x : Window) : (s.setWin w x).policy = s.policy := rfl
@[simp] theorem State.setWin_wire (w : Nat) (x : Window) : (s.setWin w x).wire = s.wire := rfl
@[simp] theorem State.setWin_bell (w : Nat) (x : Window) : (s.setWin w x).bell = s.bell := rfl
@[simp] theorem State.setWin_bellLast (w : Nat) (x : Window) : (s.setWin w x).bellLast = s.bellLast := rfl
@[simp] theorem State.setWin_bellEnd (w : Nat) (x : Window) : (s.setWin w x).bellEnd = s.bellEnd := rfl
@[simp] theorem State.setWin_commons (w : Nat) (x : Window) : (s.setWin w x).commons = s.commons := rfl
@[simp] theorem State.setWin_hbm (w : Nat) (x : Window) : (s.setWin w x).hbm = s.hbm := rfl
@[simp] theorem State.setWin_mailbox (w : Nat) (x : Window) : (s.setWin w x).mailbox = s.mailbox := rfl
@[simp] theorem State.setWin_egress (w : Nat) (x : Window) : (s.setWin w x).egress = s.egress := rfl
@[simp] theorem State.setWin_clampEvents (w : Nat) (x : Window) : (s.setWin w x).clampEvents = s.clampEvents := rfl
@[simp] theorem State.setWin_eccCounts (w : Nat) (x : Window) : (s.setWin w x).eccCounts = s.eccCounts := rfl
@[simp] theorem State.setWin_lodgeFaults (w : Nat) (x : Window) : (s.setWin w x).lodgeFaults = s.lodgeFaults := rfl
@[simp] theorem State.setWin_parting (w : Nat) (x : Window) : (s.setWin w x).parting = s.parting := rfl
@[simp] theorem State.setWin_arrived (w : Nat) (x : Window) : (s.setWin w x).arrived = s.arrived := rfl

/- State.setGang. -/

@[simp] theorem State.setGang_ns (g : Nat) (x : Gang) : (s.setGang g x).ns = s.ns := rfl
@[simp] theorem State.setGang_cyc (g : Nat) (x : Gang) : (s.setGang g x).cyc = s.cyc := rfl
@[simp] theorem State.setGang_free (g : Nat) (x : Gang) : (s.setGang g x).free = s.free := rfl
@[simp] theorem State.setGang_agenda (g : Nat) (x : Gang) : (s.setGang g x).agenda = s.agenda := rfl
@[simp] theorem State.setGang_cur (g : Nat) (x : Gang) : (s.setGang g x).cur = s.cur := rfl
@[simp] theorem State.setGang_inputs (g : Nat) (x : Gang) : (s.setGang g x).inputs = s.inputs := rfl
@[simp] theorem State.setGang_mem (g : Nat) (x : Gang) : (s.setGang g x).mem = s.mem := rfl
@[simp] theorem State.setGang_poison (g : Nat) (x : Gang) : (s.setGang g x).poison = s.poison := rfl
@[simp] theorem State.setGang_full (g : Nat) (x : Gang) : (s.setGang g x).full = s.full := rfl
@[simp] theorem State.setGang_wins (g : Nat) (x : Gang) : (s.setGang g x).wins = s.wins := rfl
@[simp] theorem State.setGang_wq (g : Nat) (x : Gang) : (s.setGang g x).wq = s.wq := rfl
@[simp] theorem State.setGang_access (g : Nat) (x : Gang) : (s.setGang g x).access = s.access := rfl
@[simp] theorem State.setGang_ceil (g : Nat) (x : Gang) : (s.setGang g x).ceil = s.ceil := rfl
@[simp] theorem State.setGang_ceilx (g : Nat) (x : Gang) : (s.setGang g x).ceilx = s.ceilx := rfl
@[simp] theorem State.setGang_refusals (g : Nat) (x : Gang) : (s.setGang g x).refusals = s.refusals := rfl
@[simp] theorem State.setGang_refLost (g : Nat) (x : Gang) : (s.setGang g x).refLost = s.refLost := rfl
@[simp] theorem State.setGang_cores (g : Nat) (x : Gang) : (s.setGang g x).cores = s.cores := rfl
@[simp] theorem State.setGang_regions (g : Nat) (x : Gang) : (s.setGang g x).regions = s.regions := rfl
@[simp] theorem State.setGang_gangs (g : Nat) (x : Gang) : (s.setGang g x).gangs = fset s.gangs g x := rfl
@[simp] theorem State.setGang_nextGang (g : Nat) (x : Gang) : (s.setGang g x).nextGang = s.nextGang := rfl
@[simp] theorem State.setGang_queues (g : Nat) (x : Gang) : (s.setGang g x).queues = s.queues := rfl
@[simp] theorem State.setGang_rrq (g : Nat) (x : Gang) : (s.setGang g x).rrq = s.rrq := rfl
@[simp] theorem State.setGang_groups (g : Nat) (x : Gang) : (s.setGang g x).groups = s.groups := rfl
@[simp] theorem State.setGang_chains (g : Nat) (x : Gang) : (s.setGang g x).chains = s.chains := rfl
@[simp] theorem State.setGang_gapLim (g : Nat) (x : Gang) : (s.setGang g x).gapLim = s.gapLim := rfl
@[simp] theorem State.setGang_gaps (g : Nat) (x : Gang) : (s.setGang g x).gaps = s.gaps := rfl
@[simp] theorem State.setGang_sync (g : Nat) (x : Gang) : (s.setGang g x).sync = s.sync := rfl
@[simp] theorem State.setGang_net (g : Nat) (x : Gang) : (s.setGang g x).net = s.net := rfl
@[simp] theorem State.setGang_colls (g : Nat) (x : Gang) : (s.setGang g x).colls = s.colls := rfl
@[simp] theorem State.setGang_collClosed (g : Nat) (x : Gang) : (s.setGang g x).collClosed = s.collClosed := rfl
@[simp] theorem State.setGang_clamp (g : Nat) (x : Gang) : (s.setGang g x).clamp = s.clamp := rfl
@[simp] theorem State.setGang_boot (g : Nat) (x : Gang) : (s.setGang g x).boot = s.boot := rfl
@[simp] theorem State.setGang_keys (g : Nat) (x : Gang) : (s.setGang g x).keys = s.keys := rfl
@[simp] theorem State.setGang_ports (g : Nat) (x : Gang) : (s.setGang g x).ports = s.ports := rfl
@[simp] theorem State.setGang_links (g : Nat) (x : Gang) : (s.setGang g x).links = s.links := rfl
@[simp] theorem State.setGang_mctpOut (g : Nat) (x : Gang) : (s.setGang g x).mctpOut = s.mctpOut := rfl
@[simp] theorem State.setGang_sessions (g : Nat) (x : Gang) : (s.setGang g x).sessions = s.sessions := rfl
@[simp] theorem State.setGang_chans (g : Nat) (x : Gang) : (s.setGang g x).chans = s.chans := rfl
@[simp] theorem State.setGang_policy (g : Nat) (x : Gang) : (s.setGang g x).policy = s.policy := rfl
@[simp] theorem State.setGang_wire (g : Nat) (x : Gang) : (s.setGang g x).wire = s.wire := rfl
@[simp] theorem State.setGang_bell (g : Nat) (x : Gang) : (s.setGang g x).bell = s.bell := rfl
@[simp] theorem State.setGang_bellLast (g : Nat) (x : Gang) : (s.setGang g x).bellLast = s.bellLast := rfl
@[simp] theorem State.setGang_bellEnd (g : Nat) (x : Gang) : (s.setGang g x).bellEnd = s.bellEnd := rfl
@[simp] theorem State.setGang_commons (g : Nat) (x : Gang) : (s.setGang g x).commons = s.commons := rfl
@[simp] theorem State.setGang_hbm (g : Nat) (x : Gang) : (s.setGang g x).hbm = s.hbm := rfl
@[simp] theorem State.setGang_mailbox (g : Nat) (x : Gang) : (s.setGang g x).mailbox = s.mailbox := rfl
@[simp] theorem State.setGang_egress (g : Nat) (x : Gang) : (s.setGang g x).egress = s.egress := rfl
@[simp] theorem State.setGang_clampEvents (g : Nat) (x : Gang) : (s.setGang g x).clampEvents = s.clampEvents := rfl
@[simp] theorem State.setGang_eccCounts (g : Nat) (x : Gang) : (s.setGang g x).eccCounts = s.eccCounts := rfl
@[simp] theorem State.setGang_lodgeFaults (g : Nat) (x : Gang) : (s.setGang g x).lodgeFaults = s.lodgeFaults := rfl
@[simp] theorem State.setGang_parting (g : Nat) (x : Gang) : (s.setGang g x).parting = s.parting := rfl
@[simp] theorem State.setGang_arrived (g : Nat) (x : Gang) : (s.setGang g x).arrived = s.arrived := rfl

/- State.setSession. -/

@[simp] theorem State.setSession_ns (i : Nat) (x : Session) : (s.setSession i x).ns = s.ns := rfl
@[simp] theorem State.setSession_cyc (i : Nat) (x : Session) : (s.setSession i x).cyc = s.cyc := rfl
@[simp] theorem State.setSession_free (i : Nat) (x : Session) : (s.setSession i x).free = s.free := rfl
@[simp] theorem State.setSession_agenda (i : Nat) (x : Session) : (s.setSession i x).agenda = s.agenda := rfl
@[simp] theorem State.setSession_cur (i : Nat) (x : Session) : (s.setSession i x).cur = s.cur := rfl
@[simp] theorem State.setSession_inputs (i : Nat) (x : Session) : (s.setSession i x).inputs = s.inputs := rfl
@[simp] theorem State.setSession_mem (i : Nat) (x : Session) : (s.setSession i x).mem = s.mem := rfl
@[simp] theorem State.setSession_poison (i : Nat) (x : Session) : (s.setSession i x).poison = s.poison := rfl
@[simp] theorem State.setSession_full (i : Nat) (x : Session) : (s.setSession i x).full = s.full := rfl
@[simp] theorem State.setSession_wins (i : Nat) (x : Session) : (s.setSession i x).wins = s.wins := rfl
@[simp] theorem State.setSession_wq (i : Nat) (x : Session) : (s.setSession i x).wq = s.wq := rfl
@[simp] theorem State.setSession_access (i : Nat) (x : Session) : (s.setSession i x).access = s.access := rfl
@[simp] theorem State.setSession_ceil (i : Nat) (x : Session) : (s.setSession i x).ceil = s.ceil := rfl
@[simp] theorem State.setSession_ceilx (i : Nat) (x : Session) : (s.setSession i x).ceilx = s.ceilx := rfl
@[simp] theorem State.setSession_refusals (i : Nat) (x : Session) : (s.setSession i x).refusals = s.refusals := rfl
@[simp] theorem State.setSession_refLost (i : Nat) (x : Session) : (s.setSession i x).refLost = s.refLost := rfl
@[simp] theorem State.setSession_cores (i : Nat) (x : Session) : (s.setSession i x).cores = s.cores := rfl
@[simp] theorem State.setSession_regions (i : Nat) (x : Session) : (s.setSession i x).regions = s.regions := rfl
@[simp] theorem State.setSession_gangs (i : Nat) (x : Session) : (s.setSession i x).gangs = s.gangs := rfl
@[simp] theorem State.setSession_nextGang (i : Nat) (x : Session) : (s.setSession i x).nextGang = s.nextGang := rfl
@[simp] theorem State.setSession_queues (i : Nat) (x : Session) : (s.setSession i x).queues = s.queues := rfl
@[simp] theorem State.setSession_rrq (i : Nat) (x : Session) : (s.setSession i x).rrq = s.rrq := rfl
@[simp] theorem State.setSession_groups (i : Nat) (x : Session) : (s.setSession i x).groups = s.groups := rfl
@[simp] theorem State.setSession_chains (i : Nat) (x : Session) : (s.setSession i x).chains = s.chains := rfl
@[simp] theorem State.setSession_gapLim (i : Nat) (x : Session) : (s.setSession i x).gapLim = s.gapLim := rfl
@[simp] theorem State.setSession_gaps (i : Nat) (x : Session) : (s.setSession i x).gaps = s.gaps := rfl
@[simp] theorem State.setSession_sync (i : Nat) (x : Session) : (s.setSession i x).sync = s.sync := rfl
@[simp] theorem State.setSession_net (i : Nat) (x : Session) : (s.setSession i x).net = s.net := rfl
@[simp] theorem State.setSession_colls (i : Nat) (x : Session) : (s.setSession i x).colls = s.colls := rfl
@[simp] theorem State.setSession_collClosed (i : Nat) (x : Session) : (s.setSession i x).collClosed = s.collClosed := rfl
@[simp] theorem State.setSession_clamp (i : Nat) (x : Session) : (s.setSession i x).clamp = s.clamp := rfl
@[simp] theorem State.setSession_boot (i : Nat) (x : Session) : (s.setSession i x).boot = s.boot := rfl
@[simp] theorem State.setSession_keys (i : Nat) (x : Session) : (s.setSession i x).keys = s.keys := rfl
@[simp] theorem State.setSession_ports (i : Nat) (x : Session) : (s.setSession i x).ports = s.ports := rfl
@[simp] theorem State.setSession_links (i : Nat) (x : Session) : (s.setSession i x).links = s.links := rfl
@[simp] theorem State.setSession_mctpOut (i : Nat) (x : Session) : (s.setSession i x).mctpOut = s.mctpOut := rfl
@[simp] theorem State.setSession_sessions (i : Nat) (x : Session) : (s.setSession i x).sessions = fset s.sessions i x := rfl
@[simp] theorem State.setSession_chans (i : Nat) (x : Session) : (s.setSession i x).chans = s.chans := rfl
@[simp] theorem State.setSession_policy (i : Nat) (x : Session) : (s.setSession i x).policy = s.policy := rfl
@[simp] theorem State.setSession_wire (i : Nat) (x : Session) : (s.setSession i x).wire = s.wire := rfl
@[simp] theorem State.setSession_bell (i : Nat) (x : Session) : (s.setSession i x).bell = s.bell := rfl
@[simp] theorem State.setSession_bellLast (i : Nat) (x : Session) : (s.setSession i x).bellLast = s.bellLast := rfl
@[simp] theorem State.setSession_bellEnd (i : Nat) (x : Session) : (s.setSession i x).bellEnd = s.bellEnd := rfl
@[simp] theorem State.setSession_commons (i : Nat) (x : Session) : (s.setSession i x).commons = s.commons := rfl
@[simp] theorem State.setSession_hbm (i : Nat) (x : Session) : (s.setSession i x).hbm = s.hbm := rfl
@[simp] theorem State.setSession_mailbox (i : Nat) (x : Session) : (s.setSession i x).mailbox = s.mailbox := rfl
@[simp] theorem State.setSession_egress (i : Nat) (x : Session) : (s.setSession i x).egress = s.egress := rfl
@[simp] theorem State.setSession_clampEvents (i : Nat) (x : Session) : (s.setSession i x).clampEvents = s.clampEvents := rfl
@[simp] theorem State.setSession_eccCounts (i : Nat) (x : Session) : (s.setSession i x).eccCounts = s.eccCounts := rfl
@[simp] theorem State.setSession_lodgeFaults (i : Nat) (x : Session) : (s.setSession i x).lodgeFaults = s.lodgeFaults := rfl
@[simp] theorem State.setSession_parting (i : Nat) (x : Session) : (s.setSession i x).parting = s.parting := rfl
@[simp] theorem State.setSession_arrived (i : Nat) (x : Session) : (s.setSession i x).arrived = s.arrived := rfl

/- State.setChan. -/

@[simp] theorem State.setChan_ns (k : Nat) (c : Chan) : (s.setChan k c).ns = s.ns := rfl
@[simp] theorem State.setChan_cyc (k : Nat) (c : Chan) : (s.setChan k c).cyc = s.cyc := rfl
@[simp] theorem State.setChan_free (k : Nat) (c : Chan) : (s.setChan k c).free = s.free := rfl
@[simp] theorem State.setChan_agenda (k : Nat) (c : Chan) : (s.setChan k c).agenda = s.agenda := rfl
@[simp] theorem State.setChan_cur (k : Nat) (c : Chan) : (s.setChan k c).cur = s.cur := rfl
@[simp] theorem State.setChan_inputs (k : Nat) (c : Chan) : (s.setChan k c).inputs = s.inputs := rfl
@[simp] theorem State.setChan_mem (k : Nat) (c : Chan) : (s.setChan k c).mem = s.mem := rfl
@[simp] theorem State.setChan_poison (k : Nat) (c : Chan) : (s.setChan k c).poison = s.poison := rfl
@[simp] theorem State.setChan_full (k : Nat) (c : Chan) : (s.setChan k c).full = s.full := rfl
@[simp] theorem State.setChan_wins (k : Nat) (c : Chan) : (s.setChan k c).wins = s.wins := rfl
@[simp] theorem State.setChan_wq (k : Nat) (c : Chan) : (s.setChan k c).wq = s.wq := rfl
@[simp] theorem State.setChan_access (k : Nat) (c : Chan) : (s.setChan k c).access = s.access := rfl
@[simp] theorem State.setChan_ceil (k : Nat) (c : Chan) : (s.setChan k c).ceil = s.ceil := rfl
@[simp] theorem State.setChan_ceilx (k : Nat) (c : Chan) : (s.setChan k c).ceilx = s.ceilx := rfl
@[simp] theorem State.setChan_refusals (k : Nat) (c : Chan) : (s.setChan k c).refusals = s.refusals := rfl
@[simp] theorem State.setChan_refLost (k : Nat) (c : Chan) : (s.setChan k c).refLost = s.refLost := rfl
@[simp] theorem State.setChan_cores (k : Nat) (c : Chan) : (s.setChan k c).cores = s.cores := rfl
@[simp] theorem State.setChan_regions (k : Nat) (c : Chan) : (s.setChan k c).regions = s.regions := rfl
@[simp] theorem State.setChan_gangs (k : Nat) (c : Chan) : (s.setChan k c).gangs = s.gangs := rfl
@[simp] theorem State.setChan_nextGang (k : Nat) (c : Chan) : (s.setChan k c).nextGang = s.nextGang := rfl
@[simp] theorem State.setChan_queues (k : Nat) (c : Chan) : (s.setChan k c).queues = s.queues := rfl
@[simp] theorem State.setChan_rrq (k : Nat) (c : Chan) : (s.setChan k c).rrq = s.rrq := rfl
@[simp] theorem State.setChan_groups (k : Nat) (c : Chan) : (s.setChan k c).groups = s.groups := rfl
@[simp] theorem State.setChan_chains (k : Nat) (c : Chan) : (s.setChan k c).chains = s.chains := rfl
@[simp] theorem State.setChan_gapLim (k : Nat) (c : Chan) : (s.setChan k c).gapLim = s.gapLim := rfl
@[simp] theorem State.setChan_gaps (k : Nat) (c : Chan) : (s.setChan k c).gaps = s.gaps := rfl
@[simp] theorem State.setChan_sync (k : Nat) (c : Chan) : (s.setChan k c).sync = s.sync := rfl
@[simp] theorem State.setChan_net (k : Nat) (c : Chan) : (s.setChan k c).net = s.net := rfl
@[simp] theorem State.setChan_colls (k : Nat) (c : Chan) : (s.setChan k c).colls = s.colls := rfl
@[simp] theorem State.setChan_collClosed (k : Nat) (c : Chan) : (s.setChan k c).collClosed = s.collClosed := rfl
@[simp] theorem State.setChan_clamp (k : Nat) (c : Chan) : (s.setChan k c).clamp = s.clamp := rfl
@[simp] theorem State.setChan_boot (k : Nat) (c : Chan) : (s.setChan k c).boot = s.boot := rfl
@[simp] theorem State.setChan_keys (k : Nat) (c : Chan) : (s.setChan k c).keys = s.keys := rfl
@[simp] theorem State.setChan_ports (k : Nat) (c : Chan) : (s.setChan k c).ports = s.ports := rfl
@[simp] theorem State.setChan_links (k : Nat) (c : Chan) : (s.setChan k c).links = s.links := rfl
@[simp] theorem State.setChan_mctpOut (k : Nat) (c : Chan) : (s.setChan k c).mctpOut = s.mctpOut := rfl
@[simp] theorem State.setChan_sessions (k : Nat) (c : Chan) : (s.setChan k c).sessions = s.sessions := rfl
@[simp] theorem State.setChan_chans (k : Nat) (c : Chan) : (s.setChan k c).chans = fset s.chans k c := rfl
@[simp] theorem State.setChan_policy (k : Nat) (c : Chan) : (s.setChan k c).policy = s.policy := rfl
@[simp] theorem State.setChan_wire (k : Nat) (c : Chan) : (s.setChan k c).wire = s.wire := rfl
@[simp] theorem State.setChan_bell (k : Nat) (c : Chan) : (s.setChan k c).bell = s.bell := rfl
@[simp] theorem State.setChan_bellLast (k : Nat) (c : Chan) : (s.setChan k c).bellLast = s.bellLast := rfl
@[simp] theorem State.setChan_bellEnd (k : Nat) (c : Chan) : (s.setChan k c).bellEnd = s.bellEnd := rfl
@[simp] theorem State.setChan_commons (k : Nat) (c : Chan) : (s.setChan k c).commons = s.commons := rfl
@[simp] theorem State.setChan_hbm (k : Nat) (c : Chan) : (s.setChan k c).hbm = s.hbm := rfl
@[simp] theorem State.setChan_mailbox (k : Nat) (c : Chan) : (s.setChan k c).mailbox = s.mailbox := rfl
@[simp] theorem State.setChan_egress (k : Nat) (c : Chan) : (s.setChan k c).egress = s.egress := rfl
@[simp] theorem State.setChan_clampEvents (k : Nat) (c : Chan) : (s.setChan k c).clampEvents = s.clampEvents := rfl
@[simp] theorem State.setChan_eccCounts (k : Nat) (c : Chan) : (s.setChan k c).eccCounts = s.eccCounts := rfl
@[simp] theorem State.setChan_lodgeFaults (k : Nat) (c : Chan) : (s.setChan k c).lodgeFaults = s.lodgeFaults := rfl
@[simp] theorem State.setChan_parting (k : Nat) (c : Chan) : (s.setChan k c).parting = s.parting := rfl
@[simp] theorem State.setChan_arrived (k : Nat) (c : Chan) : (s.setChan k c).arrived = s.arrived := rfl

/- State.setLink. -/

@[simp] theorem State.setLink_ns (n : Nat) (x : Link) : (s.setLink n x).ns = s.ns := rfl
@[simp] theorem State.setLink_cyc (n : Nat) (x : Link) : (s.setLink n x).cyc = s.cyc := rfl
@[simp] theorem State.setLink_free (n : Nat) (x : Link) : (s.setLink n x).free = s.free := rfl
@[simp] theorem State.setLink_agenda (n : Nat) (x : Link) : (s.setLink n x).agenda = s.agenda := rfl
@[simp] theorem State.setLink_cur (n : Nat) (x : Link) : (s.setLink n x).cur = s.cur := rfl
@[simp] theorem State.setLink_inputs (n : Nat) (x : Link) : (s.setLink n x).inputs = s.inputs := rfl
@[simp] theorem State.setLink_mem (n : Nat) (x : Link) : (s.setLink n x).mem = s.mem := rfl
@[simp] theorem State.setLink_poison (n : Nat) (x : Link) : (s.setLink n x).poison = s.poison := rfl
@[simp] theorem State.setLink_full (n : Nat) (x : Link) : (s.setLink n x).full = s.full := rfl
@[simp] theorem State.setLink_wins (n : Nat) (x : Link) : (s.setLink n x).wins = s.wins := rfl
@[simp] theorem State.setLink_wq (n : Nat) (x : Link) : (s.setLink n x).wq = s.wq := rfl
@[simp] theorem State.setLink_access (n : Nat) (x : Link) : (s.setLink n x).access = s.access := rfl
@[simp] theorem State.setLink_ceil (n : Nat) (x : Link) : (s.setLink n x).ceil = s.ceil := rfl
@[simp] theorem State.setLink_ceilx (n : Nat) (x : Link) : (s.setLink n x).ceilx = s.ceilx := rfl
@[simp] theorem State.setLink_refusals (n : Nat) (x : Link) : (s.setLink n x).refusals = s.refusals := rfl
@[simp] theorem State.setLink_refLost (n : Nat) (x : Link) : (s.setLink n x).refLost = s.refLost := rfl
@[simp] theorem State.setLink_cores (n : Nat) (x : Link) : (s.setLink n x).cores = s.cores := rfl
@[simp] theorem State.setLink_regions (n : Nat) (x : Link) : (s.setLink n x).regions = s.regions := rfl
@[simp] theorem State.setLink_gangs (n : Nat) (x : Link) : (s.setLink n x).gangs = s.gangs := rfl
@[simp] theorem State.setLink_nextGang (n : Nat) (x : Link) : (s.setLink n x).nextGang = s.nextGang := rfl
@[simp] theorem State.setLink_queues (n : Nat) (x : Link) : (s.setLink n x).queues = s.queues := rfl
@[simp] theorem State.setLink_rrq (n : Nat) (x : Link) : (s.setLink n x).rrq = s.rrq := rfl
@[simp] theorem State.setLink_groups (n : Nat) (x : Link) : (s.setLink n x).groups = s.groups := rfl
@[simp] theorem State.setLink_chains (n : Nat) (x : Link) : (s.setLink n x).chains = s.chains := rfl
@[simp] theorem State.setLink_gapLim (n : Nat) (x : Link) : (s.setLink n x).gapLim = s.gapLim := rfl
@[simp] theorem State.setLink_gaps (n : Nat) (x : Link) : (s.setLink n x).gaps = s.gaps := rfl
@[simp] theorem State.setLink_sync (n : Nat) (x : Link) : (s.setLink n x).sync = s.sync := rfl
@[simp] theorem State.setLink_net (n : Nat) (x : Link) : (s.setLink n x).net = s.net := rfl
@[simp] theorem State.setLink_colls (n : Nat) (x : Link) : (s.setLink n x).colls = s.colls := rfl
@[simp] theorem State.setLink_collClosed (n : Nat) (x : Link) : (s.setLink n x).collClosed = s.collClosed := rfl
@[simp] theorem State.setLink_clamp (n : Nat) (x : Link) : (s.setLink n x).clamp = s.clamp := rfl
@[simp] theorem State.setLink_boot (n : Nat) (x : Link) : (s.setLink n x).boot = s.boot := rfl
@[simp] theorem State.setLink_keys (n : Nat) (x : Link) : (s.setLink n x).keys = s.keys := rfl
@[simp] theorem State.setLink_ports (n : Nat) (x : Link) : (s.setLink n x).ports = s.ports := rfl
@[simp] theorem State.setLink_links (n : Nat) (x : Link) : (s.setLink n x).links = fset s.links n x := rfl
@[simp] theorem State.setLink_mctpOut (n : Nat) (x : Link) : (s.setLink n x).mctpOut = s.mctpOut := rfl
@[simp] theorem State.setLink_sessions (n : Nat) (x : Link) : (s.setLink n x).sessions = s.sessions := rfl
@[simp] theorem State.setLink_chans (n : Nat) (x : Link) : (s.setLink n x).chans = s.chans := rfl
@[simp] theorem State.setLink_policy (n : Nat) (x : Link) : (s.setLink n x).policy = s.policy := rfl
@[simp] theorem State.setLink_wire (n : Nat) (x : Link) : (s.setLink n x).wire = s.wire := rfl
@[simp] theorem State.setLink_bell (n : Nat) (x : Link) : (s.setLink n x).bell = s.bell := rfl
@[simp] theorem State.setLink_bellLast (n : Nat) (x : Link) : (s.setLink n x).bellLast = s.bellLast := rfl
@[simp] theorem State.setLink_bellEnd (n : Nat) (x : Link) : (s.setLink n x).bellEnd = s.bellEnd := rfl
@[simp] theorem State.setLink_commons (n : Nat) (x : Link) : (s.setLink n x).commons = s.commons := rfl
@[simp] theorem State.setLink_hbm (n : Nat) (x : Link) : (s.setLink n x).hbm = s.hbm := rfl
@[simp] theorem State.setLink_mailbox (n : Nat) (x : Link) : (s.setLink n x).mailbox = s.mailbox := rfl
@[simp] theorem State.setLink_egress (n : Nat) (x : Link) : (s.setLink n x).egress = s.egress := rfl
@[simp] theorem State.setLink_clampEvents (n : Nat) (x : Link) : (s.setLink n x).clampEvents = s.clampEvents := rfl
@[simp] theorem State.setLink_eccCounts (n : Nat) (x : Link) : (s.setLink n x).eccCounts = s.eccCounts := rfl
@[simp] theorem State.setLink_lodgeFaults (n : Nat) (x : Link) : (s.setLink n x).lodgeFaults = s.lodgeFaults := rfl
@[simp] theorem State.setLink_parting (n : Nat) (x : Link) : (s.setLink n x).parting = s.parting := rfl
@[simp] theorem State.setLink_arrived (n : Nat) (x : Link) : (s.setLink n x).arrived = s.arrived := rfl

/- State.modPort. -/

@[simp] theorem State.modPort_ns (p : Nat) (f : Port → Port) : (s.modPort p f).ns = s.ns := rfl
@[simp] theorem State.modPort_cyc (p : Nat) (f : Port → Port) : (s.modPort p f).cyc = s.cyc := rfl
@[simp] theorem State.modPort_free (p : Nat) (f : Port → Port) : (s.modPort p f).free = s.free := rfl
@[simp] theorem State.modPort_agenda (p : Nat) (f : Port → Port) : (s.modPort p f).agenda = s.agenda := rfl
@[simp] theorem State.modPort_cur (p : Nat) (f : Port → Port) : (s.modPort p f).cur = s.cur := rfl
@[simp] theorem State.modPort_inputs (p : Nat) (f : Port → Port) : (s.modPort p f).inputs = s.inputs := rfl
@[simp] theorem State.modPort_mem (p : Nat) (f : Port → Port) : (s.modPort p f).mem = s.mem := rfl
@[simp] theorem State.modPort_poison (p : Nat) (f : Port → Port) : (s.modPort p f).poison = s.poison := rfl
@[simp] theorem State.modPort_full (p : Nat) (f : Port → Port) : (s.modPort p f).full = s.full := rfl
@[simp] theorem State.modPort_wins (p : Nat) (f : Port → Port) : (s.modPort p f).wins = s.wins := rfl
@[simp] theorem State.modPort_wq (p : Nat) (f : Port → Port) : (s.modPort p f).wq = s.wq := rfl
@[simp] theorem State.modPort_access (p : Nat) (f : Port → Port) : (s.modPort p f).access = s.access := rfl
@[simp] theorem State.modPort_ceil (p : Nat) (f : Port → Port) : (s.modPort p f).ceil = s.ceil := rfl
@[simp] theorem State.modPort_ceilx (p : Nat) (f : Port → Port) : (s.modPort p f).ceilx = s.ceilx := rfl
@[simp] theorem State.modPort_refusals (p : Nat) (f : Port → Port) : (s.modPort p f).refusals = s.refusals := rfl
@[simp] theorem State.modPort_refLost (p : Nat) (f : Port → Port) : (s.modPort p f).refLost = s.refLost := rfl
@[simp] theorem State.modPort_cores (p : Nat) (f : Port → Port) : (s.modPort p f).cores = s.cores := rfl
@[simp] theorem State.modPort_regions (p : Nat) (f : Port → Port) : (s.modPort p f).regions = s.regions := rfl
@[simp] theorem State.modPort_gangs (p : Nat) (f : Port → Port) : (s.modPort p f).gangs = s.gangs := rfl
@[simp] theorem State.modPort_nextGang (p : Nat) (f : Port → Port) : (s.modPort p f).nextGang = s.nextGang := rfl
@[simp] theorem State.modPort_queues (p : Nat) (f : Port → Port) : (s.modPort p f).queues = s.queues := rfl
@[simp] theorem State.modPort_rrq (p : Nat) (f : Port → Port) : (s.modPort p f).rrq = s.rrq := rfl
@[simp] theorem State.modPort_groups (p : Nat) (f : Port → Port) : (s.modPort p f).groups = s.groups := rfl
@[simp] theorem State.modPort_chains (p : Nat) (f : Port → Port) : (s.modPort p f).chains = s.chains := rfl
@[simp] theorem State.modPort_gapLim (p : Nat) (f : Port → Port) : (s.modPort p f).gapLim = s.gapLim := rfl
@[simp] theorem State.modPort_gaps (p : Nat) (f : Port → Port) : (s.modPort p f).gaps = s.gaps := rfl
@[simp] theorem State.modPort_sync (p : Nat) (f : Port → Port) : (s.modPort p f).sync = s.sync := rfl
@[simp] theorem State.modPort_net (p : Nat) (f : Port → Port) : (s.modPort p f).net = s.net := rfl
@[simp] theorem State.modPort_colls (p : Nat) (f : Port → Port) : (s.modPort p f).colls = s.colls := rfl
@[simp] theorem State.modPort_collClosed (p : Nat) (f : Port → Port) : (s.modPort p f).collClosed = s.collClosed := rfl
@[simp] theorem State.modPort_clamp (p : Nat) (f : Port → Port) : (s.modPort p f).clamp = s.clamp := rfl
@[simp] theorem State.modPort_boot (p : Nat) (f : Port → Port) : (s.modPort p f).boot = s.boot := rfl
@[simp] theorem State.modPort_keys (p : Nat) (f : Port → Port) : (s.modPort p f).keys = s.keys := rfl
@[simp] theorem State.modPort_ports (p : Nat) (f : Port → Port) : (s.modPort p f).ports = s.ports.set (p % 4) (f (s.portOf p)) := rfl
@[simp] theorem State.modPort_links (p : Nat) (f : Port → Port) : (s.modPort p f).links = s.links := rfl
@[simp] theorem State.modPort_mctpOut (p : Nat) (f : Port → Port) : (s.modPort p f).mctpOut = s.mctpOut := rfl
@[simp] theorem State.modPort_sessions (p : Nat) (f : Port → Port) : (s.modPort p f).sessions = s.sessions := rfl
@[simp] theorem State.modPort_chans (p : Nat) (f : Port → Port) : (s.modPort p f).chans = s.chans := rfl
@[simp] theorem State.modPort_policy (p : Nat) (f : Port → Port) : (s.modPort p f).policy = s.policy := rfl
@[simp] theorem State.modPort_wire (p : Nat) (f : Port → Port) : (s.modPort p f).wire = s.wire := rfl
@[simp] theorem State.modPort_bell (p : Nat) (f : Port → Port) : (s.modPort p f).bell = s.bell := rfl
@[simp] theorem State.modPort_bellLast (p : Nat) (f : Port → Port) : (s.modPort p f).bellLast = s.bellLast := rfl
@[simp] theorem State.modPort_bellEnd (p : Nat) (f : Port → Port) : (s.modPort p f).bellEnd = s.bellEnd := rfl
@[simp] theorem State.modPort_commons (p : Nat) (f : Port → Port) : (s.modPort p f).commons = s.commons := rfl
@[simp] theorem State.modPort_hbm (p : Nat) (f : Port → Port) : (s.modPort p f).hbm = s.hbm := rfl
@[simp] theorem State.modPort_mailbox (p : Nat) (f : Port → Port) : (s.modPort p f).mailbox = s.mailbox := rfl
@[simp] theorem State.modPort_egress (p : Nat) (f : Port → Port) : (s.modPort p f).egress = s.egress := rfl
@[simp] theorem State.modPort_clampEvents (p : Nat) (f : Port → Port) : (s.modPort p f).clampEvents = s.clampEvents := rfl
@[simp] theorem State.modPort_eccCounts (p : Nat) (f : Port → Port) : (s.modPort p f).eccCounts = s.eccCounts := rfl
@[simp] theorem State.modPort_lodgeFaults (p : Nat) (f : Port → Port) : (s.modPort p f).lodgeFaults = s.lodgeFaults := rfl
@[simp] theorem State.modPort_parting (p : Nat) (f : Port → Port) : (s.modPort p f).parting = s.parting := rfl
@[simp] theorem State.modPort_arrived (p : Nat) (f : Port → Port) : (s.modPort p f).arrived = s.arrived := rfl

/- State.send. -/

@[simp] theorem State.send_ns (m : NetMsg) : (s.send m).ns = s.ns := rfl
@[simp] theorem State.send_cyc (m : NetMsg) : (s.send m).cyc = s.cyc := rfl
@[simp] theorem State.send_free (m : NetMsg) : (s.send m).free = s.free := rfl
@[simp] theorem State.send_agenda (m : NetMsg) : (s.send m).agenda = s.agenda := rfl
@[simp] theorem State.send_cur (m : NetMsg) : (s.send m).cur = s.cur := rfl
@[simp] theorem State.send_inputs (m : NetMsg) : (s.send m).inputs = s.inputs := rfl
@[simp] theorem State.send_mem (m : NetMsg) : (s.send m).mem = s.mem := rfl
@[simp] theorem State.send_poison (m : NetMsg) : (s.send m).poison = s.poison := rfl
@[simp] theorem State.send_full (m : NetMsg) : (s.send m).full = s.full := rfl
@[simp] theorem State.send_wins (m : NetMsg) : (s.send m).wins = s.wins := rfl
@[simp] theorem State.send_wq (m : NetMsg) : (s.send m).wq = s.wq := rfl
@[simp] theorem State.send_access (m : NetMsg) : (s.send m).access = s.access := rfl
@[simp] theorem State.send_ceil (m : NetMsg) : (s.send m).ceil = s.ceil := rfl
@[simp] theorem State.send_ceilx (m : NetMsg) : (s.send m).ceilx = s.ceilx := rfl
@[simp] theorem State.send_refusals (m : NetMsg) : (s.send m).refusals = s.refusals := rfl
@[simp] theorem State.send_refLost (m : NetMsg) : (s.send m).refLost = s.refLost := rfl
@[simp] theorem State.send_cores (m : NetMsg) : (s.send m).cores = s.cores := rfl
@[simp] theorem State.send_regions (m : NetMsg) : (s.send m).regions = s.regions := rfl
@[simp] theorem State.send_gangs (m : NetMsg) : (s.send m).gangs = s.gangs := rfl
@[simp] theorem State.send_nextGang (m : NetMsg) : (s.send m).nextGang = s.nextGang := rfl
@[simp] theorem State.send_queues (m : NetMsg) : (s.send m).queues = s.queues := rfl
@[simp] theorem State.send_rrq (m : NetMsg) : (s.send m).rrq = s.rrq := rfl
@[simp] theorem State.send_groups (m : NetMsg) : (s.send m).groups = s.groups := rfl
@[simp] theorem State.send_chains (m : NetMsg) : (s.send m).chains = s.chains := rfl
@[simp] theorem State.send_gapLim (m : NetMsg) : (s.send m).gapLim = s.gapLim := rfl
@[simp] theorem State.send_gaps (m : NetMsg) : (s.send m).gaps = s.gaps := rfl
@[simp] theorem State.send_sync (m : NetMsg) : (s.send m).sync = s.sync := rfl
@[simp] theorem State.send_net (m : NetMsg) : (s.send m).net = s.net ++ [m] := rfl
@[simp] theorem State.send_colls (m : NetMsg) : (s.send m).colls = s.colls := rfl
@[simp] theorem State.send_collClosed (m : NetMsg) : (s.send m).collClosed = s.collClosed := rfl
@[simp] theorem State.send_clamp (m : NetMsg) : (s.send m).clamp = s.clamp := rfl
@[simp] theorem State.send_boot (m : NetMsg) : (s.send m).boot = s.boot := rfl
@[simp] theorem State.send_keys (m : NetMsg) : (s.send m).keys = s.keys := rfl
@[simp] theorem State.send_ports (m : NetMsg) : (s.send m).ports = s.ports := rfl
@[simp] theorem State.send_links (m : NetMsg) : (s.send m).links = s.links := rfl
@[simp] theorem State.send_mctpOut (m : NetMsg) : (s.send m).mctpOut = s.mctpOut := rfl
@[simp] theorem State.send_sessions (m : NetMsg) : (s.send m).sessions = s.sessions := rfl
@[simp] theorem State.send_chans (m : NetMsg) : (s.send m).chans = s.chans := rfl
@[simp] theorem State.send_policy (m : NetMsg) : (s.send m).policy = s.policy := rfl
@[simp] theorem State.send_wire (m : NetMsg) : (s.send m).wire = s.wire := rfl
@[simp] theorem State.send_bell (m : NetMsg) : (s.send m).bell = s.bell := rfl
@[simp] theorem State.send_bellLast (m : NetMsg) : (s.send m).bellLast = s.bellLast := rfl
@[simp] theorem State.send_bellEnd (m : NetMsg) : (s.send m).bellEnd = s.bellEnd := rfl
@[simp] theorem State.send_commons (m : NetMsg) : (s.send m).commons = s.commons := rfl
@[simp] theorem State.send_hbm (m : NetMsg) : (s.send m).hbm = s.hbm := rfl
@[simp] theorem State.send_mailbox (m : NetMsg) : (s.send m).mailbox = s.mailbox := rfl
@[simp] theorem State.send_egress (m : NetMsg) : (s.send m).egress = s.egress := rfl
@[simp] theorem State.send_clampEvents (m : NetMsg) : (s.send m).clampEvents = s.clampEvents := rfl
@[simp] theorem State.send_eccCounts (m : NetMsg) : (s.send m).eccCounts = s.eccCounts := rfl
@[simp] theorem State.send_lodgeFaults (m : NetMsg) : (s.send m).lodgeFaults = s.lodgeFaults := rfl
@[simp] theorem State.send_parting (m : NetMsg) : (s.send m).parting = s.parting := rfl
@[simp] theorem State.send_arrived (m : NetMsg) : (s.send m).arrived = s.arrived := rfl

/- State.drop. -/

@[simp] theorem State.drop_ns (k : Nat) : (s.drop k).ns = s.ns := rfl
@[simp] theorem State.drop_cyc (k : Nat) : (s.drop k).cyc = s.cyc := rfl
@[simp] theorem State.drop_free (k : Nat) : (s.drop k).free = s.free := rfl
@[simp] theorem State.drop_agenda (k : Nat) : (s.drop k).agenda = s.agenda := rfl
@[simp] theorem State.drop_cur (k : Nat) : (s.drop k).cur = s.cur := rfl
@[simp] theorem State.drop_inputs (k : Nat) : (s.drop k).inputs = s.inputs := rfl
@[simp] theorem State.drop_mem (k : Nat) : (s.drop k).mem = s.mem := rfl
@[simp] theorem State.drop_poison (k : Nat) : (s.drop k).poison = s.poison := rfl
@[simp] theorem State.drop_full (k : Nat) : (s.drop k).full = s.full := rfl
@[simp] theorem State.drop_wins (k : Nat) : (s.drop k).wins = s.wins := rfl
@[simp] theorem State.drop_wq (k : Nat) : (s.drop k).wq = s.wq := rfl
@[simp] theorem State.drop_access (k : Nat) : (s.drop k).access = s.access := rfl
@[simp] theorem State.drop_ceil (k : Nat) : (s.drop k).ceil = s.ceil := rfl
@[simp] theorem State.drop_ceilx (k : Nat) : (s.drop k).ceilx = s.ceilx := rfl
@[simp] theorem State.drop_refusals (k : Nat) : (s.drop k).refusals = s.refusals := rfl
@[simp] theorem State.drop_refLost (k : Nat) : (s.drop k).refLost = s.refLost := rfl
@[simp] theorem State.drop_cores (k : Nat) : (s.drop k).cores = s.cores := rfl
@[simp] theorem State.drop_regions (k : Nat) : (s.drop k).regions = s.regions := rfl
@[simp] theorem State.drop_gangs (k : Nat) : (s.drop k).gangs = s.gangs := rfl
@[simp] theorem State.drop_nextGang (k : Nat) : (s.drop k).nextGang = s.nextGang := rfl
@[simp] theorem State.drop_queues (k : Nat) : (s.drop k).queues = s.queues := rfl
@[simp] theorem State.drop_rrq (k : Nat) : (s.drop k).rrq = s.rrq := rfl
@[simp] theorem State.drop_groups (k : Nat) : (s.drop k).groups = s.groups := rfl
@[simp] theorem State.drop_chains (k : Nat) : (s.drop k).chains = s.chains := rfl
@[simp] theorem State.drop_gapLim (k : Nat) : (s.drop k).gapLim = s.gapLim := rfl
@[simp] theorem State.drop_gaps (k : Nat) : (s.drop k).gaps = s.gaps := rfl
@[simp] theorem State.drop_sync (k : Nat) : (s.drop k).sync = s.sync := rfl
@[simp] theorem State.drop_net (k : Nat) : (s.drop k).net = s.net.eraseIdx k := rfl
@[simp] theorem State.drop_colls (k : Nat) : (s.drop k).colls = s.colls := rfl
@[simp] theorem State.drop_collClosed (k : Nat) : (s.drop k).collClosed = s.collClosed := rfl
@[simp] theorem State.drop_clamp (k : Nat) : (s.drop k).clamp = s.clamp := rfl
@[simp] theorem State.drop_boot (k : Nat) : (s.drop k).boot = s.boot := rfl
@[simp] theorem State.drop_keys (k : Nat) : (s.drop k).keys = s.keys := rfl
@[simp] theorem State.drop_ports (k : Nat) : (s.drop k).ports = s.ports := rfl
@[simp] theorem State.drop_links (k : Nat) : (s.drop k).links = s.links := rfl
@[simp] theorem State.drop_mctpOut (k : Nat) : (s.drop k).mctpOut = s.mctpOut := rfl
@[simp] theorem State.drop_sessions (k : Nat) : (s.drop k).sessions = s.sessions := rfl
@[simp] theorem State.drop_chans (k : Nat) : (s.drop k).chans = s.chans := rfl
@[simp] theorem State.drop_policy (k : Nat) : (s.drop k).policy = s.policy := rfl
@[simp] theorem State.drop_wire (k : Nat) : (s.drop k).wire = s.wire := rfl
@[simp] theorem State.drop_bell (k : Nat) : (s.drop k).bell = s.bell := rfl
@[simp] theorem State.drop_bellLast (k : Nat) : (s.drop k).bellLast = s.bellLast := rfl
@[simp] theorem State.drop_bellEnd (k : Nat) : (s.drop k).bellEnd = s.bellEnd := rfl
@[simp] theorem State.drop_commons (k : Nat) : (s.drop k).commons = s.commons := rfl
@[simp] theorem State.drop_hbm (k : Nat) : (s.drop k).hbm = s.hbm := rfl
@[simp] theorem State.drop_mailbox (k : Nat) : (s.drop k).mailbox = s.mailbox := rfl
@[simp] theorem State.drop_egress (k : Nat) : (s.drop k).egress = s.egress := rfl
@[simp] theorem State.drop_clampEvents (k : Nat) : (s.drop k).clampEvents = s.clampEvents := rfl
@[simp] theorem State.drop_eccCounts (k : Nat) : (s.drop k).eccCounts = s.eccCounts := rfl
@[simp] theorem State.drop_lodgeFaults (k : Nat) : (s.drop k).lodgeFaults = s.lodgeFaults := rfl
@[simp] theorem State.drop_parting (k : Nat) : (s.drop k).parting = s.parting := rfl
@[simp] theorem State.drop_arrived (k : Nat) : (s.drop k).arrived = s.arrived := rfl

/- State.putMsg. -/

@[simp] theorem State.putMsg_ns (k : Nat) (m : NetMsg) : (s.putMsg k m).ns = s.ns := rfl
@[simp] theorem State.putMsg_cyc (k : Nat) (m : NetMsg) : (s.putMsg k m).cyc = s.cyc := rfl
@[simp] theorem State.putMsg_free (k : Nat) (m : NetMsg) : (s.putMsg k m).free = s.free := rfl
@[simp] theorem State.putMsg_agenda (k : Nat) (m : NetMsg) : (s.putMsg k m).agenda = s.agenda := rfl
@[simp] theorem State.putMsg_cur (k : Nat) (m : NetMsg) : (s.putMsg k m).cur = s.cur := rfl
@[simp] theorem State.putMsg_inputs (k : Nat) (m : NetMsg) : (s.putMsg k m).inputs = s.inputs := rfl
@[simp] theorem State.putMsg_mem (k : Nat) (m : NetMsg) : (s.putMsg k m).mem = s.mem := rfl
@[simp] theorem State.putMsg_poison (k : Nat) (m : NetMsg) : (s.putMsg k m).poison = s.poison := rfl
@[simp] theorem State.putMsg_full (k : Nat) (m : NetMsg) : (s.putMsg k m).full = s.full := rfl
@[simp] theorem State.putMsg_wins (k : Nat) (m : NetMsg) : (s.putMsg k m).wins = s.wins := rfl
@[simp] theorem State.putMsg_wq (k : Nat) (m : NetMsg) : (s.putMsg k m).wq = s.wq := rfl
@[simp] theorem State.putMsg_access (k : Nat) (m : NetMsg) : (s.putMsg k m).access = s.access := rfl
@[simp] theorem State.putMsg_ceil (k : Nat) (m : NetMsg) : (s.putMsg k m).ceil = s.ceil := rfl
@[simp] theorem State.putMsg_ceilx (k : Nat) (m : NetMsg) : (s.putMsg k m).ceilx = s.ceilx := rfl
@[simp] theorem State.putMsg_refusals (k : Nat) (m : NetMsg) : (s.putMsg k m).refusals = s.refusals := rfl
@[simp] theorem State.putMsg_refLost (k : Nat) (m : NetMsg) : (s.putMsg k m).refLost = s.refLost := rfl
@[simp] theorem State.putMsg_cores (k : Nat) (m : NetMsg) : (s.putMsg k m).cores = s.cores := rfl
@[simp] theorem State.putMsg_regions (k : Nat) (m : NetMsg) : (s.putMsg k m).regions = s.regions := rfl
@[simp] theorem State.putMsg_gangs (k : Nat) (m : NetMsg) : (s.putMsg k m).gangs = s.gangs := rfl
@[simp] theorem State.putMsg_nextGang (k : Nat) (m : NetMsg) : (s.putMsg k m).nextGang = s.nextGang := rfl
@[simp] theorem State.putMsg_queues (k : Nat) (m : NetMsg) : (s.putMsg k m).queues = s.queues := rfl
@[simp] theorem State.putMsg_rrq (k : Nat) (m : NetMsg) : (s.putMsg k m).rrq = s.rrq := rfl
@[simp] theorem State.putMsg_groups (k : Nat) (m : NetMsg) : (s.putMsg k m).groups = s.groups := rfl
@[simp] theorem State.putMsg_chains (k : Nat) (m : NetMsg) : (s.putMsg k m).chains = s.chains := rfl
@[simp] theorem State.putMsg_gapLim (k : Nat) (m : NetMsg) : (s.putMsg k m).gapLim = s.gapLim := rfl
@[simp] theorem State.putMsg_gaps (k : Nat) (m : NetMsg) : (s.putMsg k m).gaps = s.gaps := rfl
@[simp] theorem State.putMsg_sync (k : Nat) (m : NetMsg) : (s.putMsg k m).sync = s.sync := rfl
@[simp] theorem State.putMsg_net (k : Nat) (m : NetMsg) : (s.putMsg k m).net = s.net.set k m := rfl
@[simp] theorem State.putMsg_colls (k : Nat) (m : NetMsg) : (s.putMsg k m).colls = s.colls := rfl
@[simp] theorem State.putMsg_collClosed (k : Nat) (m : NetMsg) : (s.putMsg k m).collClosed = s.collClosed := rfl
@[simp] theorem State.putMsg_clamp (k : Nat) (m : NetMsg) : (s.putMsg k m).clamp = s.clamp := rfl
@[simp] theorem State.putMsg_boot (k : Nat) (m : NetMsg) : (s.putMsg k m).boot = s.boot := rfl
@[simp] theorem State.putMsg_keys (k : Nat) (m : NetMsg) : (s.putMsg k m).keys = s.keys := rfl
@[simp] theorem State.putMsg_ports (k : Nat) (m : NetMsg) : (s.putMsg k m).ports = s.ports := rfl
@[simp] theorem State.putMsg_links (k : Nat) (m : NetMsg) : (s.putMsg k m).links = s.links := rfl
@[simp] theorem State.putMsg_mctpOut (k : Nat) (m : NetMsg) : (s.putMsg k m).mctpOut = s.mctpOut := rfl
@[simp] theorem State.putMsg_sessions (k : Nat) (m : NetMsg) : (s.putMsg k m).sessions = s.sessions := rfl
@[simp] theorem State.putMsg_chans (k : Nat) (m : NetMsg) : (s.putMsg k m).chans = s.chans := rfl
@[simp] theorem State.putMsg_policy (k : Nat) (m : NetMsg) : (s.putMsg k m).policy = s.policy := rfl
@[simp] theorem State.putMsg_wire (k : Nat) (m : NetMsg) : (s.putMsg k m).wire = s.wire := rfl
@[simp] theorem State.putMsg_bell (k : Nat) (m : NetMsg) : (s.putMsg k m).bell = s.bell := rfl
@[simp] theorem State.putMsg_bellLast (k : Nat) (m : NetMsg) : (s.putMsg k m).bellLast = s.bellLast := rfl
@[simp] theorem State.putMsg_bellEnd (k : Nat) (m : NetMsg) : (s.putMsg k m).bellEnd = s.bellEnd := rfl
@[simp] theorem State.putMsg_commons (k : Nat) (m : NetMsg) : (s.putMsg k m).commons = s.commons := rfl
@[simp] theorem State.putMsg_hbm (k : Nat) (m : NetMsg) : (s.putMsg k m).hbm = s.hbm := rfl
@[simp] theorem State.putMsg_mailbox (k : Nat) (m : NetMsg) : (s.putMsg k m).mailbox = s.mailbox := rfl
@[simp] theorem State.putMsg_egress (k : Nat) (m : NetMsg) : (s.putMsg k m).egress = s.egress := rfl
@[simp] theorem State.putMsg_clampEvents (k : Nat) (m : NetMsg) : (s.putMsg k m).clampEvents = s.clampEvents := rfl
@[simp] theorem State.putMsg_eccCounts (k : Nat) (m : NetMsg) : (s.putMsg k m).eccCounts = s.eccCounts := rfl
@[simp] theorem State.putMsg_lodgeFaults (k : Nat) (m : NetMsg) : (s.putMsg k m).lodgeFaults = s.lodgeFaults := rfl
@[simp] theorem State.putMsg_parting (k : Nat) (m : NetMsg) : (s.putMsg k m).parting = s.parting := rfl
@[simp] theorem State.putMsg_arrived (k : Nat) (m : NetMsg) : (s.putMsg k m).arrived = s.arrived := rfl

/- State.tick. -/

@[simp] theorem State.tick_ns : (s.tick).ns = s.ns := rfl
@[simp] theorem State.tick_cyc : (s.tick).cyc = s.cyc := rfl
@[simp] theorem State.tick_free : (s.tick).free = s.free + 1 := rfl
@[simp] theorem State.tick_agenda : (s.tick).agenda = s.agenda := rfl
@[simp] theorem State.tick_cur : (s.tick).cur = s.cur := rfl
@[simp] theorem State.tick_inputs : (s.tick).inputs = s.inputs := rfl
@[simp] theorem State.tick_mem : (s.tick).mem = s.mem := rfl
@[simp] theorem State.tick_poison : (s.tick).poison = s.poison := rfl
@[simp] theorem State.tick_full : (s.tick).full = s.full := rfl
@[simp] theorem State.tick_wins : (s.tick).wins = s.wins := rfl
@[simp] theorem State.tick_wq : (s.tick).wq = s.wq := rfl
@[simp] theorem State.tick_access : (s.tick).access = s.access := rfl
@[simp] theorem State.tick_ceil : (s.tick).ceil = s.ceil := rfl
@[simp] theorem State.tick_ceilx : (s.tick).ceilx = s.ceilx := rfl
@[simp] theorem State.tick_refusals : (s.tick).refusals = s.refusals := rfl
@[simp] theorem State.tick_refLost : (s.tick).refLost = s.refLost := rfl
@[simp] theorem State.tick_cores : (s.tick).cores = s.cores := rfl
@[simp] theorem State.tick_regions : (s.tick).regions = s.regions := rfl
@[simp] theorem State.tick_gangs : (s.tick).gangs = s.gangs := rfl
@[simp] theorem State.tick_nextGang : (s.tick).nextGang = s.nextGang := rfl
@[simp] theorem State.tick_queues : (s.tick).queues = s.queues := rfl
@[simp] theorem State.tick_rrq : (s.tick).rrq = s.rrq := rfl
@[simp] theorem State.tick_groups : (s.tick).groups = s.groups := rfl
@[simp] theorem State.tick_chains : (s.tick).chains = s.chains := rfl
@[simp] theorem State.tick_gapLim : (s.tick).gapLim = s.gapLim := rfl
@[simp] theorem State.tick_gaps : (s.tick).gaps = s.gaps := rfl
@[simp] theorem State.tick_sync : (s.tick).sync = s.sync := rfl
@[simp] theorem State.tick_net : (s.tick).net = s.net := rfl
@[simp] theorem State.tick_colls : (s.tick).colls = s.colls := rfl
@[simp] theorem State.tick_collClosed : (s.tick).collClosed = s.collClosed := rfl
@[simp] theorem State.tick_clamp : (s.tick).clamp = s.clamp := rfl
@[simp] theorem State.tick_boot : (s.tick).boot = s.boot := rfl
@[simp] theorem State.tick_keys : (s.tick).keys = s.keys := rfl
@[simp] theorem State.tick_ports : (s.tick).ports = s.ports := rfl
@[simp] theorem State.tick_links : (s.tick).links = s.links := rfl
@[simp] theorem State.tick_mctpOut : (s.tick).mctpOut = s.mctpOut := rfl
@[simp] theorem State.tick_sessions : (s.tick).sessions = s.sessions := rfl
@[simp] theorem State.tick_chans : (s.tick).chans = s.chans := rfl
@[simp] theorem State.tick_policy : (s.tick).policy = s.policy := rfl
@[simp] theorem State.tick_wire : (s.tick).wire = s.wire := rfl
@[simp] theorem State.tick_bell : (s.tick).bell = s.bell := rfl
@[simp] theorem State.tick_bellLast : (s.tick).bellLast = s.bellLast := rfl
@[simp] theorem State.tick_bellEnd : (s.tick).bellEnd = s.bellEnd := rfl
@[simp] theorem State.tick_commons : (s.tick).commons = s.commons := rfl
@[simp] theorem State.tick_hbm : (s.tick).hbm = s.hbm := rfl
@[simp] theorem State.tick_mailbox : (s.tick).mailbox = s.mailbox := rfl
@[simp] theorem State.tick_egress : (s.tick).egress = s.egress := rfl
@[simp] theorem State.tick_clampEvents : (s.tick).clampEvents = s.clampEvents := rfl
@[simp] theorem State.tick_eccCounts : (s.tick).eccCounts = s.eccCounts := rfl
@[simp] theorem State.tick_lodgeFaults : (s.tick).lodgeFaults = s.lodgeFaults := rfl
@[simp] theorem State.tick_parting : (s.tick).parting = s.parting := rfl
@[simp] theorem State.tick_arrived : (s.tick).arrived = s.arrived := rfl

/- State.storeMem. -/

@[simp] theorem State.storeMem_ns (a : Nat) (bs : List Byte) (p : Bool) : (s.storeMem a bs p).ns = s.ns := rfl
@[simp] theorem State.storeMem_cyc (a : Nat) (bs : List Byte) (p : Bool) : (s.storeMem a bs p).cyc = s.cyc := rfl
@[simp] theorem State.storeMem_free (a : Nat) (bs : List Byte) (p : Bool) : (s.storeMem a bs p).free = s.free := rfl
@[simp] theorem State.storeMem_agenda (a : Nat) (bs : List Byte) (p : Bool) : (s.storeMem a bs p).agenda = s.agenda := rfl
@[simp] theorem State.storeMem_cur (a : Nat) (bs : List Byte) (p : Bool) : (s.storeMem a bs p).cur = s.cur := rfl
@[simp] theorem State.storeMem_inputs (a : Nat) (bs : List Byte) (p : Bool) : (s.storeMem a bs p).inputs = s.inputs := rfl
@[simp] theorem State.storeMem_mem (a : Nat) (bs : List Byte) (p : Bool) : (s.storeMem a bs p).mem = writeBytes s.mem a bs := rfl
@[simp] theorem State.storeMem_poison (a : Nat) (bs : List Byte) (p : Bool) : (s.storeMem a bs p).poison = poisonWrite s.poison a bs.length p := rfl
@[simp] theorem State.storeMem_full (a : Nat) (bs : List Byte) (p : Bool) : (s.storeMem a bs p).full = s.full := rfl
@[simp] theorem State.storeMem_wins (a : Nat) (bs : List Byte) (p : Bool) : (s.storeMem a bs p).wins = s.wins := rfl
@[simp] theorem State.storeMem_wq (a : Nat) (bs : List Byte) (p : Bool) : (s.storeMem a bs p).wq = s.wq := rfl
@[simp] theorem State.storeMem_access (a : Nat) (bs : List Byte) (p : Bool) : (s.storeMem a bs p).access = s.access := rfl
@[simp] theorem State.storeMem_ceil (a : Nat) (bs : List Byte) (p : Bool) : (s.storeMem a bs p).ceil = s.ceil := rfl
@[simp] theorem State.storeMem_ceilx (a : Nat) (bs : List Byte) (p : Bool) : (s.storeMem a bs p).ceilx = s.ceilx := rfl
@[simp] theorem State.storeMem_refusals (a : Nat) (bs : List Byte) (p : Bool) : (s.storeMem a bs p).refusals = s.refusals := rfl
@[simp] theorem State.storeMem_refLost (a : Nat) (bs : List Byte) (p : Bool) : (s.storeMem a bs p).refLost = s.refLost := rfl
@[simp] theorem State.storeMem_cores (a : Nat) (bs : List Byte) (p : Bool) : (s.storeMem a bs p).cores = s.cores := rfl
@[simp] theorem State.storeMem_regions (a : Nat) (bs : List Byte) (p : Bool) : (s.storeMem a bs p).regions = s.regions := rfl
@[simp] theorem State.storeMem_gangs (a : Nat) (bs : List Byte) (p : Bool) : (s.storeMem a bs p).gangs = s.gangs := rfl
@[simp] theorem State.storeMem_nextGang (a : Nat) (bs : List Byte) (p : Bool) : (s.storeMem a bs p).nextGang = s.nextGang := rfl
@[simp] theorem State.storeMem_queues (a : Nat) (bs : List Byte) (p : Bool) : (s.storeMem a bs p).queues = s.queues := rfl
@[simp] theorem State.storeMem_rrq (a : Nat) (bs : List Byte) (p : Bool) : (s.storeMem a bs p).rrq = s.rrq := rfl
@[simp] theorem State.storeMem_groups (a : Nat) (bs : List Byte) (p : Bool) : (s.storeMem a bs p).groups = s.groups := rfl
@[simp] theorem State.storeMem_chains (a : Nat) (bs : List Byte) (p : Bool) : (s.storeMem a bs p).chains = s.chains := rfl
@[simp] theorem State.storeMem_gapLim (a : Nat) (bs : List Byte) (p : Bool) : (s.storeMem a bs p).gapLim = s.gapLim := rfl
@[simp] theorem State.storeMem_gaps (a : Nat) (bs : List Byte) (p : Bool) : (s.storeMem a bs p).gaps = s.gaps := rfl
@[simp] theorem State.storeMem_sync (a : Nat) (bs : List Byte) (p : Bool) : (s.storeMem a bs p).sync = s.sync := rfl
@[simp] theorem State.storeMem_net (a : Nat) (bs : List Byte) (p : Bool) : (s.storeMem a bs p).net = s.net := rfl
@[simp] theorem State.storeMem_colls (a : Nat) (bs : List Byte) (p : Bool) : (s.storeMem a bs p).colls = s.colls := rfl
@[simp] theorem State.storeMem_collClosed (a : Nat) (bs : List Byte) (p : Bool) : (s.storeMem a bs p).collClosed = s.collClosed := rfl
@[simp] theorem State.storeMem_clamp (a : Nat) (bs : List Byte) (p : Bool) : (s.storeMem a bs p).clamp = s.clamp := rfl
@[simp] theorem State.storeMem_boot (a : Nat) (bs : List Byte) (p : Bool) : (s.storeMem a bs p).boot = s.boot := rfl
@[simp] theorem State.storeMem_keys (a : Nat) (bs : List Byte) (p : Bool) : (s.storeMem a bs p).keys = s.keys := rfl
@[simp] theorem State.storeMem_ports (a : Nat) (bs : List Byte) (p : Bool) : (s.storeMem a bs p).ports = s.ports := rfl
@[simp] theorem State.storeMem_links (a : Nat) (bs : List Byte) (p : Bool) : (s.storeMem a bs p).links = s.links := rfl
@[simp] theorem State.storeMem_mctpOut (a : Nat) (bs : List Byte) (p : Bool) : (s.storeMem a bs p).mctpOut = s.mctpOut := rfl
@[simp] theorem State.storeMem_sessions (a : Nat) (bs : List Byte) (p : Bool) : (s.storeMem a bs p).sessions = s.sessions := rfl
@[simp] theorem State.storeMem_chans (a : Nat) (bs : List Byte) (p : Bool) : (s.storeMem a bs p).chans = s.chans := rfl
@[simp] theorem State.storeMem_policy (a : Nat) (bs : List Byte) (p : Bool) : (s.storeMem a bs p).policy = s.policy := rfl
@[simp] theorem State.storeMem_wire (a : Nat) (bs : List Byte) (p : Bool) : (s.storeMem a bs p).wire = s.wire := rfl
@[simp] theorem State.storeMem_bell (a : Nat) (bs : List Byte) (p : Bool) : (s.storeMem a bs p).bell = s.bell := rfl
@[simp] theorem State.storeMem_bellLast (a : Nat) (bs : List Byte) (p : Bool) : (s.storeMem a bs p).bellLast = s.bellLast := rfl
@[simp] theorem State.storeMem_bellEnd (a : Nat) (bs : List Byte) (p : Bool) : (s.storeMem a bs p).bellEnd = s.bellEnd := rfl
@[simp] theorem State.storeMem_commons (a : Nat) (bs : List Byte) (p : Bool) : (s.storeMem a bs p).commons = s.commons := rfl
@[simp] theorem State.storeMem_hbm (a : Nat) (bs : List Byte) (p : Bool) : (s.storeMem a bs p).hbm = s.hbm := rfl
@[simp] theorem State.storeMem_mailbox (a : Nat) (bs : List Byte) (p : Bool) : (s.storeMem a bs p).mailbox = s.mailbox := rfl
@[simp] theorem State.storeMem_egress (a : Nat) (bs : List Byte) (p : Bool) : (s.storeMem a bs p).egress = s.egress := rfl
@[simp] theorem State.storeMem_clampEvents (a : Nat) (bs : List Byte) (p : Bool) : (s.storeMem a bs p).clampEvents = s.clampEvents := rfl
@[simp] theorem State.storeMem_eccCounts (a : Nat) (bs : List Byte) (p : Bool) : (s.storeMem a bs p).eccCounts = s.eccCounts := rfl
@[simp] theorem State.storeMem_lodgeFaults (a : Nat) (bs : List Byte) (p : Bool) : (s.storeMem a bs p).lodgeFaults = s.lodgeFaults := rfl
@[simp] theorem State.storeMem_parting (a : Nat) (bs : List Byte) (p : Bool) : (s.storeMem a bs p).parting = s.parting := rfl
@[simp] theorem State.storeMem_arrived (a : Nat) (bs : List Byte) (p : Bool) : (s.storeMem a bs p).arrived = s.arrived := rfl

/- The derived updates. -/

theorem State.modCore_eq (k : Nat) (f : Core → Core) : s.modCore k f = s.setCore k (f (s.core k)) := rfl
theorem State.modRegion_eq (r : Nat) (f : Region → Region) : s.modRegion r f = s.setRegion r (f (s.region r)) := rfl
theorem State.modWin_eq (w : Nat) (f : Window → Window) : s.modWin w f = s.setWin w (f (s.win w)) := rfl
theorem State.setSite_eq (r n : Nat) (x : Site) :
    s.setSite r n x = s.setRegion r { s.region r with sites := fset (s.region r).sites n x } := rfl

end Sys2Proof.Machine
end

