-- ==== Sys2Proof/Tests/Slice0.lean ====
section
/-! SUPPORT. The model's own tests: words of every block instruction, ill-formed instructions, for every statement with hypotheses a state and operands
that meet them, and single steps on small states. -/

namespace Sys2Proof.Tests

open Sys2Proof Sys2Proof.Machine

/-! Decoding: words written out from the tables of R322 to R328 and the worked encodings of 18_encodings.md. -/

/-- Every word of a table decodes to the instruction beside it. -/
def reads (l : List (Nat × Instr)) : Bool := l.all (fun x => decodeTableWord 64 x.1 == some x.2)

theorem test_words_worked : reads [
    (0x010304058300C200, .add .i64 (.g 4) (.g 5) (.imm 3) (some ⟨true, .o 2⟩)),
    (0x0103415006008200, .add .i64 (.o 1) (.l 0) (.g 6) (some ⟨false, .o 2⟩)),
    (0x60070A50F8000000, .ld .n64 (.g 10) (.l 0) (.imm (-8)) none),
    (0x6907090500000005, .acq .n64 (.g 9) (.g 5) .stn none),
    (0x6B00000000000002, .fence .rg none),
    (0x7000000100000000, .eng (.g 1) 0 none),
    (0x5100000000305080, .beq .i64 0 (.l 0) (.imm 0)),
    (0x510000001B300380, .beq .i64 27 (.g 3) (.imm 0)),
    (0x5100FFFFF6325003, .blt .i64 (-10) (.l 0) (.g 3)),
    (0x7A0100815C000000, .tact .emit (.imm 1) (.spec .mord) (.g 0) none),
    (0x010305055D000000, .add .i64 (.g 5) (.g 5) (.spec .drc) none)] = true := by decide

theorem test_words_arithmetic : reads [
    (0x0100010203000000, .add .i8 (.g 1) (.g 2) (.g 3) none), (0x0201010203000000, .sub .i16 (.g 1) (.g 2) (.g 3) none),
    (0x0302010203000000, .mul .i32 (.g 1) (.g 2) (.g 3) none), (0x0404010203000000, .mulh .n8 (.g 1) (.g 2) (.g 3) none),
    (0x0505010203000000, .div .n16 (.g 1) (.g 2) (.g 3) none), (0x0606010203000000, .rem .n32 (.g 1) (.g 2) (.g 3) none),
    (0x0707010203000000, .min .n64 (.g 1) (.g 2) (.g 3) none), (0x0803010203000000, .max .i64 (.g 1) (.g 2) (.g 3) none),
    (0x0900010203000000, .adds .i8 (.g 1) (.g 2) (.g 3) none), (0x0A00010203000000, .subs .i8 (.g 1) (.g 2) (.g 3) none),
    (0x0B034F3F0000D700, .abs .i64 (.o 15) (.g 63) (some ⟨true, .l 7⟩)), (0x0C03405A00000000, .neg .i64 (.o 0) (.spec .ttl) none)] = true := by
  decide

theorem test_words_bits : reads [
    (0x1000010203000000, .and .i8 (.g 1) (.g 2) (.g 3) none), (0x1100010203000000, .or .i8 (.g 1) (.g 2) (.g 3) none),
    (0x1200010203000000, .xor .i8 (.g 1) (.g 2) (.g 3) none), (0x1300010200000000, .notb .i8 (.g 1) (.g 2) none),
    (0x1400010203000000, .shl .i8 (.g 1) (.g 2) (.g 3) none), (0x1500010203000000, .shr .i8 (.g 1) (.g 2) (.g 3) none),
    (0x1600010203000000, .rotl .i8 (.g 1) (.g 2) (.g 3) none), (0x1700010200000000, .clz .i8 (.g 1) (.g 2) none),
    (0x1800010200000000, .popc .i8 (.g 1) (.g 2) none), (0x1900010203040000, .bext .i8 (.g 1) (.g 2) (.g 3) (.g 4) none),
    (0x1A00010203040000, .bins .i8 (.g 1) (.g 2) (.g 3) (.g 4) none)] = true := by decide

theorem test_words_compare : reads [
    (0x2003010203000000, .cmpeq .i64 (.g 1) (.g 2) (.g 3) none), (0x2103010203000000, .cmpne .i64 (.g 1) (.g 2) (.g 3) none),
    (0x2203010203000000, .cmplt .i64 (.g 1) (.g 2) (.g 3) none), (0x2303010203000000, .cmple .i64 (.g 1) (.g 2) (.g 3) none),
    (0x240A010203040000, .sel .t8 (.g 1) (.g 2) (.g 3) (.g 4) none), (0x2801800000010000, .ldiI64 (.g 1) 0x80000001),
    (0x2901800000010000, .ldiN64 (.g 1) 0x80000001), (0x2A01800000010000, .ldhiN64 (.g 1) 0x80000001),
    (0x2B030102FFFF0000, .addi .i64 (.g 1) (.g 2) 0xFFFF none), (0x2C07010203000006, .lea (.g 1) (.g 2) (.g 3) 6 none)] = true := by decide

theorem test_words_float : reads [
    (0x3008010203000000, .fadd (.g 1) (.g 2) (.g 3) none), (0x3108010203000000, .fsub (.g 1) (.g 2) (.g 3) none),
    (0x3208010203000000, .fmul (.g 1) (.g 2) (.g 3) none), (0x3308010203040000, .fma (.g 1) (.g 2) (.g 3) (.g 4) none),
    (0x3408010203000000, .fmin (.g 1) (.g 2) (.g 3) none), (0x3508010203000000, .fmax (.g 1) (.g 2) (.g 3) none),
    (0x3608010200000000, .fabs (.g 1) (.g 2) none), (0x3708010200000000, .fneg (.g 1) (.g 2) none),
    (0x3808010203000000, .fcmpeq (.g 1) (.g 2) (.g 3) none), (0x3908010203000000, .fcmplt (.g 1) (.g 2) (.g 3) none),
    (0x3A08010203000000, .fcmple (.g 1) (.g 2) (.g 3) none), (0x3B08010200000000, .frsqs (.g 1) (.g 2) none),
    (0x3C08010200000000, .frcps (.g 1) (.g 2) none), (0x4009010200000000, .cvti .bf16 (.g 1) (.g 2) none),
    (0x4108010200000000, .cvtn .f32 (.g 1) (.g 2) none), (0x4202010200000000, .cvtt .i32 (.g 1) (.g 2) none),
    (0x4307010200000000, .cvte .n64 (.g 1) (.g 2) none), (0x4409010200000000, .cvtb .bf16 (.g 1) (.g 2) none),
    (0x450A010203000001, .cvtq .t8 (.g 1) (.g 2) (.g 3) true none), (0x4807010200000007, .tfx (.g 1) (.g 2) 7 none),
    (0x4907010203000005, .tfi (.g 1) (.g 2) (.g 3) 5 none)] = true := by decide

theorem test_words_control : reads [
    (0x5000800000000000, .br 0x800000), (0x5100000001310203, .bne .i64 1 (.g 2) (.g 3)), (0x5100000001330203, .bge .i64 1 (.g 2) (.g 3)),
    (0x5100000001840203, .ble .f32 1 (.g 2) (.g 3)), (0x5100000001850203, .bgt .f32 1 (.g 2) (.g 3)), (0x5241000003000000, .call (.o 1) 3),
    (0x5300000200000000, .ret (.g 2)), (0x5400000000000000, .aret), (0x5500000000000000, .tend), (0x5600000200000001, .tret (.g 2) true),
    (0x5700000000000000, .abort), (0x5800000000000000, .halt)] = true := by decide

theorem test_words_memory : reads [
    (0x6108000203040000, .st .f32 (.g 2) (.g 3) (.g 4) none), (0x6207010200040000, .ldc .n64 1 (.g 2) (.g 4) .next none),
    (0x6307000203040008, .stc .n64 (.g 2) (.g 3) (.g 4) .zero none), (0x6400000000040010, .cnull (.g 4) .ones none),
    (0x6500000203000000, .crel (.g 2) (.g 3) none), (0x6603010203000000, .ldp .i64 (.g 1) (.g 2) (.g 3) none),
    (0x6703000203040000, .stp .i64 (.g 2) (.g 3) (.g 4) none), (0x6A03000203000000, .rel .i64 (.g 2) (.g 3) .site none),
    (0x6C0000020304000D, .pf (.g 2) (.g 3) (.g 4) 5 true none), (0x6D00000203000005, .inv (.g 2) (.g 3) .stn none),
    (0x70000002FFFF0000, .eng (.g 2) 0xFFFF none), (0x7100010200000000, .launchInstruction 1 (.g 2) none), (0x7200000000000000, .snap none),
    (0x7400010001000000, .rsr (.g 1) 0x0100 none), (0x7500000201900000, .wsr (.g 2) 0x0190 none),
    (0x7A00000203000000, .tact .reset (.g 2) (.g 3) (.g 0) none), (0x7A02000203040000, .tact .setimm (.g 2) (.g 3) (.g 4) none)] = true := by decide

theorem test_words_atomic : reads [
    (0x6820010203000000, .aadd .i32 1 (.g 2) (.g 3) none), (0x6821010203000000, .aand .i32 1 (.g 2) (.g 3) none),
    (0x6832010203000000, .aor .i64 1 (.g 2) (.g 3) none), (0x6833010203000000, .axor .i64 1 (.g 2) (.g 3) none),
    (0x6864010203000000, .amin .n32 1 (.g 2) (.g 3) none), (0x6865010203000000, .amax .n32 1 (.g 2) (.g 3) none),
    (0x6876010203000000, .aswp .n64 1 (.g 2) (.g 3) none), (0x6877010203040000, .acas .n64 1 (.g 2) (.g 3) (.g 4) none),
    (0x6878010200000000, .pcatt 1 (.g 2) none), (0x6879010200000000, .pcdet 1 (.g 2) none), (0x687A010200000000, .pcevt 1 (.g 2) none),
    (0x687B010200000000, .pcfree 1 (.g 2) none), (0x687C010200000000, .pcpub 1 (.g 2) none)] = true := by decide

/-- Reserved encodings are refused by name: an unassigned OP, a type code past .t8, a specifier between 0x60 and 0x7F, an X bit no row names, a
register that no core has, a prefix-cache function under another type, SCK 3, a snap with a predicate (R323 to R328, R385). -/
theorem test_words_refused :
    [0x0000000000000000, 0x0D03010203000000, 0x600B0A50F8000000, 0x0103046003000000, 0x0103040503000001, 0x7400010002000000, 0x6838010200000000,
     0x6400000000040018, 0x720000000000C000].map (fun w => (decodeTableWord 64 w).isNone) = List.replicate 9 true := by decide

/-- Well-formedness refuses what has no encoding and what names no place (R14, R325 to R328, R386). -/
theorem test_wf_refuses :
    [(Instr.add .f32 (.g 0) (.g 0) (.g 0) none).wf, (Instr.aadd .i8 0 (.g 0) (.g 0) none).wf, (Instr.cmpeq .t8 (.g 0) (.g 0) (.g 0) none).wf,
     (Instr.ldp .i32 (.g 0) (.g 0) (.g 0) none).wf, (Instr.cvti .i64 (.g 0) (.g 0) none).wf, (Instr.cvtq .f32 (.g 0) (.g 0) (.g 0) true none).wf,
     (Instr.cvtt .i8 (.g 0) (.g 0) none).wf, (Instr.lea (.g 0) (.g 0) (.g 0) 7 none).wf, (Instr.inv (.g 0) (.g 0) .cl none).wf,
     (Instr.pf (.g 0) (.g 0) (.g 0) 6 false none).wf, (Instr.tact .emit (.g 0) (.g 0) (.g 1) none).wf, (Instr.rsr (.g 0) 0x0102 none).wf,
     (Instr.beq .bf16 0 (.g 0) (.g 0)).wf, (Instr.gangGrant 4 0).wf, (Instr.streamClose 64).wf, (Instr.elementArith 0 1024).wf, (Instr.boxCp 0 32).wf,
     (Instr.meOp 0 8).wf, (Instr.taskArm 0 9).wf, (Instr.bufferWrite 0 128).wf, (Instr.tlkTranslate 0 8).wf, (Instr.trnSet 0 4).wf,
     (Instr.blockStart (.lodge 8)).wf, (Instr.collSum 0 16).wf, (Instr.mstOrderedRelease 64 0).wf] = List.replicate 25 false := by decide

/-! States and operands that meet the hypotheses of the statements about block instructions. -/

/-- A Pergola that runs a block of one instruction, with g-registers given. -/
def blk (g : FMap GReg) : State :=
  { boot := { done := true }, cores := [(0, { phase := .running, g := g, run := { slots := [{ word := 0 }], spec := { baddr := 0x10000 } } })] }

/-- The same with values in g1, g2 and g3. -/
def blk3 (a b c : W64) : State := blk [(1, { val := a }), (2, { val := b }), (3, { val := c })]

/-- The same with the o-slot 0 written. -/
def taken : State :=
  { boot := { done := true }, cores := [(0, { phase := .running, run := { slots := [{ word := 0 }], o := [(0, 0)] } })] }

/-- The operand a g-register gives. -/
def op (v : W64) : Operand := { val := v, poi := false, from_ := 0 }
def bad (v : W64) : Operand := { val := v, poi := true, from_ := 0 }

def readyB (s : State) (p : Option Pred) (srcs : List Src) (vs : List Operand) : Bool :=
  canFire s && readPred s.curCore s.idx p == .on 0 && readSrcs s.curCore s.idx srcs == some vs && latest vs == 0 && fireCycle s.curCore.run 0 == 0

theorem ready_of {s : State} {p : Option Pred} {srcs : List Src} {vs : List Operand} (h : readyB s p srcs vs = true) : Ready s p srcs 0 vs := by
  simp only [readyB, Bool.and_eq_true, beq_iff_eq] at h
  obtain ⟨⟨⟨⟨h1, h2⟩, h3⟩, h4⟩, h5⟩ := h
  exact ⟨h1, ⟨0, h2, by simp [h4, h5]⟩, h3⟩

/-- An address check that passes with a target of which f holds, or that faults. -/
def passes (r : AddrRes) (f : State → Tgt → Bool) : Bool :=
  match r with
  | .ok s t => f s t
  | _ => false
def refuses (r : AddrRes) : Bool :=
  match r with
  | .fault _ _ _ => true
  | _ => false

theorem ok_of {r : AddrRes} {f : State → Tgt → Bool} (h : passes r f = true) : ∃ s t, r = .ok s t ∧ f s t = true := by
  cases r <;> simp_all [passes]
theorem fault_of {r : AddrRes} (h : refuses r = true) : ∃ s c cause, r = .fault s c cause := by
  cases r <;> simp_all [refuses]

/-- D takes a value without poison. -/
theorem free_of {s : State} {d : Dst} (h : oTaken s.curCore d = false) : DstFree s d false := ⟨h, by simp⟩

theorem witness_DecodeEncode : (Instr.add .i64 (.g 63) (.l 7) (.imm (-64)) (some ⟨false, .l 7⟩)).wf = true ∧
    inBlock (.add .i64 (.g 63) (.l 7) (.imm (-64)) (some ⟨false, .l 7⟩)) = true ∧
    encode (.add .i64 (.g 63) (.l 7) (.imm (-64)) (some ⟨false, .l 7⟩)) = some 0x01033F57C0009700 := by decide

theorem witness_EncodeDecode : decodeWord 0x0103040583000000 = some (.add .i64 (.g 4) (.g 5) (.imm 3) none) := by decide

theorem witness_StepRunsDecoded :
    let s := State.reset.withFetchWord 64 0x0103040583000000
    s.agenda = [] ∧ s.clamp.st ≠ 3 ∧ s.boot.done = true ∧ s.curCore.phase = .running ∧ pickNext s.curCore = some (0, 8) ∧
    decodeWord (s.curCore.run.slot 8).word = some (.add .i64 (.g 4) (.g 5) (.imm 3) none) := by decide

theorem witness_StepOrder :
    let s : State := { agenda := [(5, 9, .snap none)] }
    let u : State := { agenda := [(5, 9, .snap none)], clamp := { st := 3 } }
    s.clamp.st ≠ 3 ∧ u.clamp.st = 3 ∧ Instr.snap none ≠ .powerCycle := by decide

theorem witness_StepKeepsInv : State.reset.Inv ∧ step State.reset = exec .bootSequence State.reset := ⟨rfl, rfl⟩

/-- Computes: D free; an o-slot written twice; poison bound for a g-register. -/
theorem witness_Computes : Ready (blk3 7 3 1) none [.g 1, .g 2] 0 [op 7, op 3] ∧ DstFree (blk3 7 3 1) (.o 0) false ∧
    Ready taken none [.imm 1, .imm 2] 0 [op 1, op 2] ∧ oTaken taken.curCore (.o 0) = true ∧
    Ready (blk [(1, { val := 7, poi := true })]) none [.g 1] 0 [bad 7] :=
  ⟨ready_of (by decide), free_of (by decide), ready_of (by decide), by decide, ready_of (by decide)⟩

/-- Under a predicate that holds. -/
theorem witness_Computes_predicate :
    Ready { blk3 7 3 1 with cores := [(0, { phase := .running, run := { slots := [{ word := 0 }], pre := [(0, 5)] } })] } (some ⟨true, .o 0⟩) [.imm 1] 0
      [op 1] := ready_of (by decide)

theorem witness_IntegerArithmetic :
    Ready (blk3 7 3 1) none [.g 1, .g 2] 0 [op 7, op 3] ∧ intOf .i64 (low .i64 3) ≠ 0 ∧ DstFree (blk3 7 3 1) (.o 0) false ∧
    divFrom (blk3 7 3 1).curCore (blk3 7 3 1).idx 64 (some (op 3)) = some 0 ∧
    Ready (blk3 7 0 1) none [.g 1, .g 2] 0 [op 7, op 0] ∧ intOf .i64 (low .i64 0) = 0 ∧
    decodeAt (openCtx .pergola) 0x0103040583000000 = .ok (.add .i64 (.g 4) (.g 5) (.imm 3) none) :=
  ⟨ready_of (by decide), by decide, free_of (by decide), by decide, ready_of (by decide), by decide, by decide⟩

theorem witness_BitsAndFields : Ready (blk3 7 63 64) none [.g 1, .g 2, .g 3] 0 [op 7, op 63, op 64] ∧ DstFree (blk3 7 63 64) (.g 0) false ∧
    decodeAt (openCtx .pergola) 0x1A00010203040000 = .ok (.bins .i8 (.g 1) (.g 2) (.g 3) (.g 4) none) :=
  ⟨ready_of (by decide), free_of (by decide), by decide⟩

theorem witness_CompareAndSelect : Ready (blk3 7 63 64) none [.g 1, .g 2, .g 3] 0 [op 7, op 63, op 64] ∧
    decodeAt (openCtx .pergola) 0x240A010203040000 = .ok (.sel .t8 (.g 1) (.g 2) (.g 3) (.g 4) none) ∧ opByte 0x240A010203040000 = 0x24 :=
  ⟨ready_of (by decide), by decide, by decide⟩

theorem witness_ConstantsAndAddresses : Ready (blk3 7 63 64) none [] 0 [] ∧
    decodeAt (openCtx .pergola) 0x2A01800000010000 = .ok (.ldhiN64 (.g 1) 0x80000001) ∧
    decodeAt (openCtx .pergola) 0x2B030102FFFF0000 = .ok (.addi .i64 (.g 1) (.g 2) 0xFFFF none) ∧
    decodeAt (openCtx .pergola) 0x2C07010203000006 = .ok (.lea (.g 1) (.g 2) (.g 3) 6 none) :=
  ⟨ready_of (by decide), by decide, by decide, by decide⟩

theorem witness_FloatingPoint : Ready (blk3 0x3F800000 0x80000000 0x7FC00000) none [.g 1, .g 2, .g 3] 0 [op 0x3F800000, op 0x80000000, op 0x7FC00000] ∧
    (decF32 0x7FC00000).isNan = true ∧ (decF32 0x80000000).isNan = false := ⟨ready_of (by decide), by decide, by decide⟩

/-- A layout of two fields, the second at the top of the tag. -/
def tagged : State := { blk3 7 63 64 with regions := [(0, { layout := [⟨32, false, false⟩, ⟨32, false, false⟩] })] }

theorem witness_TagFields : 0 < fieldWidth (curLayout tagged) 1 ∧ ((((curLayout tagged).take 2).map (·.width)).sum ≤ 64) ∧
    Ready tagged none [.g 1, .g 2] 0 [op 7, op 63] ∧ Ready tagged none [.g 1] 0 [op 7] ∧ DstFree tagged (.o 0) false :=
  ⟨by decide, by decide, ready_of (by decide), ready_of (by decide), free_of (by decide)⟩

/-- A block whose o-slot 0 is given as v. -/
def given (v : W64) : State :=
  { boot := { done := true }, cores := [(0, { phase := .running, run := { slots := [{ word := 0 }], pre := [(0, v)] } })] }

/-- A predicate that is off; one that names a poisoned l-slot. -/
theorem witness_Predicates : canFire (given 0) = true ∧ readPred (given 0).curCore (given 0).idx (some ⟨true, .o 0⟩) = .off 0 ∧
    predRow (.fence .rg (some ⟨true, .o 0⟩)) = some (some ⟨true, .o 0⟩, none) ∧
    (let s : State := { blk [] with cores := [(0, { phase := .running, run := { slots := [{ word := 0, fired := true, ready := some 0, poi := true }, { word := 0 }], cursor := 1 } })] }
     canFire s = true ∧ readPred s.curCore s.idx (some ⟨true, .l 0⟩) = .bad 0) := by decide

theorem witness_Branches : let s := blk3 7 7 0x8000000000000000
    let t := blk [(1, { val := 7, poi := true }), (2, { val := 3 })]
    Ready s none [] 0 [] ∧ Ready s none [.g 1, .g 2] 0 [op 7, op 7] ∧ Ready s none [.g 1, .g 3] 0 [op 7, op 0x8000000000000000] ∧
    Ready t none [.g 1, .g 2] 0 [bad 7, op 3] ∧ branchTaken .i64 .eq 7 7 = true ∧ branchTaken .i64 .eq 7 0x8000000000000000 = false ∧
    canonical (s.curCore.run.spec.baddr + (0x7FFFFF : BitVec 24).signExtend 64 * 16) 16 = true ∧
    canonical ((0x7FFFFFFFFFF0 : W64) + (1 : BitVec 24).signExtend 64 * 16) 16 = false ∧ (decF32 0x7FC00000).isNan = true :=
  ⟨ready_of (by decide), ready_of (by decide), ready_of (by decide), ready_of (by decide), by decide, by decide, by decide, by decide, by decide⟩

/-- A branch out of the lower half. -/
theorem witness_Branches_noncanon :
    let s : State := { blk [] with cores := [(0, { phase := .running, run := { slots := [{ word := 0 }], spec := { baddr := 0x7FFFFFFFFFF0 } } })] }
    Ready s none [] 0 [] ∧ canonical (s.curCore.run.spec.baddr + (1 : BitVec 24).signExtend 64 * 16) 16 = false :=
  ⟨ready_of (by decide), by decide⟩

theorem witness_CallAndReturn : let s := blk3 0x10010 0x10008 0x800000000000
    Ready s none [] 0 [] ∧ DstFree s (.g 4) false ∧ Ready s none [.g 1] 0 [op 0x10010] ∧ canonical 0x10010 16 = true ∧
    Ready s none [.g 2] 0 [op 0x10008] ∧ Ready s none [.g 3] 0 [op 0x800000000000] ∧ canonical 0x800000000000 16 = false ∧
    Ready (blk [(1, { val := 7, poi := true })]) none [.g 1] 0 [bad 7] ∧
    decodeAt (openCtx .pergola) 0x5241000003000000 = .ok (.call (.o 1) 3) :=
  ⟨ready_of (by decide), free_of (by decide), ready_of (by decide), by decide, ready_of (by decide), ready_of (by decide), by decide,
    ready_of (by decide), by decide⟩

/-- A trap block that runs. -/
def trapBlk : State :=
  { boot := { done := true }, cores := [(0, { phase := .running, g := [(1, { val := 0x10010 }), (2, { val := 9, poi := true })], inTrap := true
                                              run := { slots := [{ word := 0 }], trap := true } })] }

theorem witness_BlockEnders : Ready trapBlk none [] 0 [] ∧ trapBlk.curCore.run.trap = true ∧ Ready trapBlk none [.g 1] 0 [op 0x10010] ∧
    targetBad 0x10010 false = none ∧ coreTrap trapBlk = false ∧ Ready trapBlk none [.g 2] 0 [bad 9] :=
  ⟨ready_of (by decide), by decide, ready_of (by decide), by decide, by decide, ready_of (by decide)⟩

/-- A block whose core's translation cache maps the page at 0x10000 to window 0 with every right, and the page at 0x20000 with none. The window is of
kind 0, open, with presence bits and one tile that fills; the bank permits everything. -/
def windowed (g : FMap GReg) (prs : Bool) (tiles : FMap Tile) : State :=
  { boot := { done := true }, access := [(0, (0xFF, 0xFFFFFFFFF000))], wins := [(0, { st := .opened, prs := prs, tiles := tiles })], regions := [(0, { xroot := 1 })]
    cores := [(0, { phase := .running, g := g, run := { slots := [{ word := 0 }] }
                    tcache := [{ page := 1, leaf := 0xFD, l1 := false }, { page := 2, leaf := 0x01, l1 := false }] })] }

def at3 (a b c : W64) : State := windowed [(1, { val := a }), (2, { val := b }), (3, { val := c })] true []

theorem witness_StoresWaitForCommit : let s := at3 0x10000 0 5
    Ready s none [.g 1, .g 2, .g 3] 0 [op 0x10000, op 0, op 5] ∧ Ready s none [.g 1, .g 2] 0 [op 0x10000, op 0] ∧
    (∃ u t, addrCheck s .write false 0x10000 8 = .ok u t ∧ syncOk t = true) ∧ (∃ u t, addrCheck s .pWrite false 0x10000 8 = .ok u t ∧ presenceOk u t = true) ∧
    (∃ u t, addrCheck s .cread false 0x10000 1 = .ok u t ∧ (match t with
      | .win die w off => let n := tileSize (u.win (die * 4096 + w))
        off % n == 0 && passes (addrReach (unstall u 0x10000) .cread 0x10000 n) (fun _ _ => true)
      | _ => false) = true) :=
  ⟨ready_of (by decide), ready_of (by decide), ok_of (by decide), ok_of (by decide), ok_of (by decide)⟩

/-- SQ 1, PD 0, CH 0, DLT 1. -/
theorem witness_ChainedAccessesWait : let s := at3 0x10000 7 0x0100000000000001
    Ready s none [.g 1, .g 3] 0 [op 0x10000, op 0x0100000000000001] ∧ Ready s none [.g 1, .g 2, .g 3] 0 [op 0x10000, op 7, op 0x0100000000000001] ∧
    Ready s none [.g 3] 0 [op 0x0100000000000001] ∧ chainBad 0x0100000000000001 .next = false ∧
    (∃ u t, addrCheck s .chRead false 0x10000 8 = .ok u t ∧ true = true) ∧ (∃ u t, addrCheck s .chWrite false 0x10000 8 = .ok u t ∧ true = true) :=
  ⟨ready_of (by decide), ready_of (by decide), ready_of (by decide), by decide, ok_of (f := fun _ _ => true) (by decide),
    ok_of (f := fun _ _ => true) (by decide)⟩

theorem witness_AtomicsWaitForCommit : let s := at3 0x10000 7 9
    Ready s none [.g 1, .g 2, .g 3] 0 [op 0x10000, op 7, op 9] ∧ Ready s none [.g 1, .g 2] 0 [op 0x10000, op 7] ∧ Ready s none [.g 1] 0 [op 0x10000] ∧
    (∃ u t, addrCheck s .atomic false 0x10000 8 = .ok u t ∧ (match t with
      | .win _ _ _ => true
      | _ => false) = true) ∧
    Ready (blk [(1, { val := 7 }), (2, { val := 3, poi := true })]) none [.g 1, .g 2] 0 [op 7, bad 3] ∧
    Ready (blk [(1, { val := 7 }), (2, { val := 3 }), (3, { val := 1, poi := true })]) none [.g 1, .g 2, .g 3] 0 [op 7, op 3, bad 1] :=
  ⟨ready_of (by decide), ready_of (by decide), ready_of (by decide), ok_of (by decide), ready_of (by decide), ready_of (by decide)⟩

theorem witness_SystemInstructions : let s := at3 0x10000 1024 9
    Ready s none [.g 1, .g 2, .g 3] 0 [op 0x10000, op 1024, op 9] ∧
    (∃ u t, addrCheck s .read false 0x10000 1 = .ok u t ∧ (match t with
      | .win die w off => off + 1024 == winExtent (u.win (die * 4096 + w))
      | _ => false) = true) ∧
    Ready s none [.g 1, .g 2] 0 [op 0x10000, op 1024] ∧ canonical 0x10000 1024 = true ∧ Ready s none [.g 1] 0 [op 0x10000] ∧
    (∃ u t, addrCheck s .read false 0x10000 8 = .ok u t ∧ true = true) ∧ Ready s none [] 0 [] ∧ structCycle s 0 = some 0 ∧ coreSettled s s.curKey = true ∧
    DstFree s (.g 4) false ∧ (regFor s.curKey 0x0100).isSome = true ∧ (s.region (s.curKey / 10)).parser.ord ≤ 9 ∧
    Ready (at3 26 9 1) none [.g 1, .g 2] 0 [op 26, op 9] ∧ Ready (at3 1 9 1) none [.g 1, .g 2, .g 3] 0 [op 1, op 9, op 1] ∧
    (∃ u t, addrReach s .read 0x10000 152 = .ok u t ∧ true = true) ∧ Ready (at3 0x20000 0 0) none [.g 1] 0 [op 0x20000] ∧
    (∃ u c k, addrReach (at3 0x20000 0 0) .read 0x20000 152 = .fault u c k) :=
  ⟨ready_of (by decide), ok_of (by decide), ready_of (by decide), by decide, ready_of (by decide), ok_of (f := fun _ _ => true) (by decide),
    ready_of (by decide), by decide, by decide, free_of (by decide), by decide, by decide, ready_of (by decide), ready_of (by decide),
    ok_of (f := fun _ _ => true) (by decide), ready_of (by decide), fault_of (by decide)⟩

/-- A load whose bytes are all forwarded from a store of the block. -/
def forwarded : State :=
  { windowed [(1, { val := 0x10000 }), (2, { val := 0 })] false [] with
    cores := [(0, { phase := .running, g := [(1, { val := 0x10000 }), (2, { val := 0 })]
                    tcache := [{ page := 1, leaf := 0xFD, l1 := false }]
                    run := { cursor := 1, slots := [{ word := 0x6107000102030000, fired := true, ready := some 0
                                                      op := some (.st 0x10000 8 0xAB false (.win 0 0 0)) }, { word := 0x6007000102000000 }] } })] }

/-- A load of a tile that fills, in a block whose o-slot 0 is written. -/
def awayTaken : State :=
  { windowed [] false [(0, {})] with
    cores := [(0, { phase := .running, g := [(1, { val := 0x10000 })], tcache := [{ page := 1, leaf := 0xFD, l1 := false }]
                    run := { slots := [{ word := 0 }], o := [(0, 0)] } })] }

def loadIs (r : LoadRes) (k : Nat) : Bool :=
  match r with
  | .ok _ _ _ _ => k == 0
  | .refused _ _ _ => k == 1
  | .wait _ => k == 2
  | .remote _ _ _ _ _ => k == 3

theorem witness_LoadsAndHomeReads : let s := at3 0x10000 0 5
    Ready s none [.g 1, .g 2] 0 [op 0x10000, op 0] ∧ Ready s none [.g 1] 0 [op 0x10000] ∧ structCycle s 0 = some 0 ∧
    (∃ u t, addrCheck s .read false 0x10000 8 = .ok u t ∧ (syncOk t && !allForwarded (unstall u 0x10000).curCore.run 0 0x10000 8 &&
      !clashes (unstall u 0x10000) 0 0x10000 8 false false && loadIs (coreLoad (unstall u 0x10000) 0 0x10000 8 t) 0 && (bypassLine (unstall u 0x10000) 0 0x10000 8).2 &&
      !clashes (bypassLine (unstall u 0x10000) 0 0x10000 8).1 0 0x10000 8 false false && coreSettled (unstall u 0x10000) 0 &&
      !oTaken (bypassLine (unstall u 0x10000) 0 0x10000 8).1.curCore (.o 0)) = true) ∧
    (∃ u t, addrCheck s .pRead false 0x10000 8 = .ok u t ∧ (presenceOk (unstall u 0x10000) t && (bypassLine (unstall u 0x10000) 0 0x10000 8).2 &&
      !clashes (bypassLine (unstall u 0x10000) 0 0x10000 8).1 0 0x10000 8 false false) = true) ∧
    (∃ u t, addrCheck { s with access := [] } .read false 0x10000 8 = .ok u t ∧ loadIs (coreLoad (unstall u 0x10000) 0 0x10000 8 t) 1 = true) ∧
    (∃ u t, addrCheck (windowed [] false [(0, {})]) .read false 0x10000 8 = .ok u t ∧ (loadIs (coreLoad (unstall u 0x10000) 0 0x10000 8 t) 2 &&
      !oTaken (unstall u 0x10000).curCore (.o 0)) = true) ∧
    Ready awayTaken none [.g 1, .g 2] 0 [op 0x10000, op 0] ∧
    (∃ u t, addrCheck awayTaken .read false 0x10000 8 = .ok u t ∧ (loadIs (coreLoad (unstall u 0x10000) 0 0x10000 8 t) 2 &&
      oTaken (unstall u 0x10000).curCore (.o 0)) = true) ∧
    (∃ u t, addrCheck forwarded .read false 0x10000 8 = .ok u t ∧ allForwarded (unstall u 0x10000).curCore.run 1 0x10000 8 = true) :=
  ⟨ready_of (by decide), ready_of (by decide), by decide, ok_of (by decide), ok_of (by decide), ok_of (by decide), ok_of (by decide),
    ready_of (by decide), ok_of (by decide), ok_of (by decide)⟩

/-- Poison, alignment, canonicity and rights, each refused; and the edges of the two halves (R119's table). -/
theorem witness_AddressChecks : let s := at3 0x10000 0 5
    Ready s none [.g 1, .g 2, .g 3] 0 [op 0x10000, op 0, op 5] ∧ Ready s none [.g 1, .g 3] 0 [op 0x10000, op 5] ∧ Ready s none [.g 1, .g 2] 0 [op 0x10000, op 0] ∧
    Ready s none [.g 1] 0 [op 0x10000] ∧ chainBad 0x0100000000000001 .next = false ∧
    (∃ u c k, addrCheck s .write false 0x10004 8 = .fault u c k) ∧ (∃ u c k, addrCheck s .write false 0x20000 8 = .fault u c k) ∧
    (∃ u c k, addrCheck s .chRead true 0x10000 8 = .fault u c k) ∧
    canonical 0x00007FFFFFFFFFC0 64 = true ∧ canonical 0x00007FFFFFFFFFF8 16 = false ∧ canonical 0x0000800000000000 8 = false ∧
    canonical 0xFFFFFFFFFFFFFFF8 8 = true ∧ canonical 0xFFFFFFFFFFFFFFFF 2 = false ∧ (0x00007FFFFFFFFFF8 : W64).toNat % 8 = 0 :=
  ⟨ready_of (by decide), ready_of (by decide), ready_of (by decide), ready_of (by decide), by decide, fault_of (by decide), fault_of (by decide),
    fault_of (by decide), by decide, by decide, by decide, by decide, by decide, by decide⟩

/-! States that meet the hypotheses of the statements about the package. -/

def withInputs (i : Inputs) : State := { inputs := i }

/-- Limits exceeded by power, by temperature; neither; cleared; the trip by temperature, by flow. The limits themselves: 100 °C and 1,800 W, 95 °C and
1,710 W, 110 °C (R17). -/
theorem witness_ClampRows :
    let exc : Sample := { watts := 1801, temps := [0] }
    let hot : Sample := { watts := 0, temps := [1600] }
    let mid : Sample := { watts := 1710, temps := [1599] }
    let clr : Sample := { watts := 1709, temps := [1519] }
    let s : State := { inputs := { samples := [exc] }, clamp := { st := 2, steps := 8, excess := some 0 }, ns := 100000 }
    let u : State := { inputs := { samples := [clr] }, clamp := { st := 2, steps := 1, clear := some 0 }, ns := 1000000 }
    1800 < exc.watts ∧ hottest exc < 1760 ∧ exc.flowLost = false ∧ 1600 ≤ hottest hot ∧ hottest hot < 1760 ∧
    ¬(1600 ≤ hottest mid ∨ 1800 < mid.watts) ∧ ¬(mid.watts < 1710 ∧ hottest mid < 1520) ∧ mid.flowLost = false ∧
    clr.watts < 1710 ∧ hottest clr < 1520 ∧ 1760 ≤ hottest { watts := 0, temps := [1760] } ∧
    s.inputs.samples = [exc] ∧ s.clamp.excess = some 0 ∧ 0 + 100000 ≤ s.ns ∧ 8 ≤ s.clamp.steps ∧
    s.clamp.st ≠ 0 ∧ (withInputs { samples := [exc] }).clamp.st = 0 ∧ u.inputs.samples = [clr] ∧ u.clamp.clear.getD u.ns + 1000000 ≤ u.ns ∧
    u.clamp.steps ≤ 1 := by decide

/-- An SPI device whose slot 0 holds a header that passes, with a code of 16 bytes and an empty ceiling record. -/
def bootable : State :=
  { mem := [(0, 0x01), (2, 0x6E), (3, 0x1A), (4, 0x40), (5, 0x72), (25, 0x10), (32, 0x10), (41, 0x01), (48, 0x10), (57, 0x20)].map
      (fun c : Nat × Byte => (spiAddr 0 + c.1, c.2)) }

/-- A device whose slot 0 claims the higher version and holds no image, with the same image in slot 1. -/
def altBootable : State :=
  { mem := (spiAddr 0 + 8, 5) :: bootable.mem.map (fun c => (c.1 + 2 ^ 25, c.2)) }

theorem altBootable_fails : imageFails altBootable (firstSlot altBootable) := by
  intro x h
  rw [show readImage altBootable (firstSlot altBootable) = none by decide +kernel] at h
  cases h

theorem reset_fails (slot : Nat) (h : readImage State.reset slot = none) : imageFails State.reset slot := by
  intro x hx
  rw [h] at hx
  cases hx

/-- Whatever Config.slhVerify says of those images, one of the clauses applies; the reset state has no image at all. -/
theorem witness_BootAndPowerCycle :
    bootable.boot.done = false ∧ bootable.boot.fail = false ∧ firstSlot bootable = 0 ∧ readImage bootable (1 - firstSlot bootable) = none ∧
    (match readImage bootable 0 with
     | some x => ceilOk x.ceil && decide (bootable.boot.floor ≤ x.sver)
     | none => false) = true ∧
    altBootable.boot.done = false ∧ firstSlot altBootable = 0 ∧
    (match readImage altBootable 1 with
     | some x => ceilOk x.ceil && decide (altBootable.boot.floor ≤ x.sver)
     | none => false) = true ∧
    readImage State.reset 0 = none ∧ readImage State.reset 1 = none ∧ bootable.mem.wf = true := by decide +kernel

theorem witness_RegisterRows :
    let q := fun (n : Nat) (v : W64) (l : Bool) => withInputs { regs := [{ lodge := l, num := n, r := 0, v := v }] }
    let s : State := { inputs := { regs := [{ lodge := true, num := 0x122, r := 0, v := 3 }] }, boot := { done := true, sver := 3, floor := 2 } }
    (q 0x113 1 false).inputs.regs ≠ [] ∧ 0x113 = 0x110 + 3 ∧ (3 : Nat) < 4 ∧
    s.boot.floor < (3 : W64) ∧ (3 : W64) ≤ s.boot.sver ∧ s.boot.blowing = none ∧ (q 0x101 0x700 true).inputs.regs ≠ [] ∧
    (withInputs { lodge := [.policy 0] }).inputs.regs = [] ∧ (withInputs { lodge := [.policy 0] }).inputs.lodge = [.policy 0] ∧
    ((0x32 : W64).extractLsb' 0 16).toNat ≠ 0 ∧ (0xBF30 : Nat) = 0x8030 + 63 * 0x100 ∧
    ({ boot := { blowing := some (3, 0) } } : State).boot.blowing = some (3, 0) := by decide

theorem witness_KeyRows :
    let x := withInputs { extends_ := [(false, 2, [1])] }
    let q : QuoteReq := { nonce := List.replicate 32 0, fw := List.replicate 64 0 }
    let y := withInputs { quotes := [q] }
    let e : State := { inputs := { entries := [(514, 63, 0x10000000000000FF, 0x1000)] }, ceil := [(514 * 32, (0xFF, 0x1000))] }
    x.inputs.extends_ = [(false, 2, [1])] ∧ x.keys.body = none ∧ ({ x with keys := { body := some [] } } : State).keys.body ≠ none ∧
    y.inputs.quotes = [q] ∧ q.nonce.length = 32 ∧ q.fw.length = 64 ∧ y.keys.q = [] ∧
    ({ y with keys := { body := some [], q := [q] } } : State).keys.q.length < 8 ∧ q.sid = 0 ∧ (withInputs { keyReads := 1 }).inputs.keyReads = 0 + 1 ∧
    e.inputs.entries = [(514, 63, 0x10000000000000FF, 0x1000)] ∧ entryAllowed e 514 (0x10000000000000FF &&& ~~~0xF00#64, 0x1000 &&& ~~~0xFFF#64) = true ∧
    entryAllowed State.reset 514 (0x10000000000000FF &&& ~~~0xF00#64, 0x1000 &&& ~~~0xFFF#64) = false := by decide

/-- A port that is enabled, with its split, and channel traffic on it. -/
def portOn : List Port := [{ en := true, split := true }, {}, {}, {}]

def rawFrame (n : Nat) (h0 h1 h2 h3 : W64) (bs : List Byte) : RawFrame :=
  { ethLen := n, ipv6 := true, fragment := false, udpPort := 0, udpSum := 1, src := 0, srcPort := 0, h0 := h0, h1 := h1, h2 := h2, h3 := h3, payload := bs }

theorem witness_LinkRows :
    let s : State := { ports := portOn, inputs := { links := [(0, 1, true)], frames := [(0, rawFrame 9217 0 0 0 0 [])] } }
    let f : State := { inputs := { flits := [(0, 5, 1023, true)], retries := [(0, 3)] }, links := [(0, { expect := 1023 })] }
    let g : State := { inputs := { flits := [(0, 5, 511, true)] }, links := [(0, { expect := 0, count := 16 })] }
    let h : State := { links := [(0, { training := true, fails := 3 }), (1, {})] }
    s.inputs.links = [(0, 1, true)] ∧ (s.portOf 0).en = true ∧ (s.portOf 0).split = true ∧ (s.portOf 0).mtu < 9217 ∧ s.portOn 0 = true ∧ s.portOn 4 = true ∧
    linkExists 0 = true ∧ (f.link 0).down = false ∧ (f.link 0).training = false ∧ (noteSent (f.link 0) 5 1023).expect = 1023 ∧
    0 < (511 + 1024 - (noteSent (g.link 0) 5 511).expect) % 1024 ∧ (511 + 1024 - (noteSent (g.link 0) 5 511).expect) % 1024 < 512 ∧
    512 ≤ (1022 + 1024 - (noteSent (f.link 0) 5 1022).expect) % 1024 ∧ 16 ≤ (g.link 0).count ∧ (h.link 0).training = true ∧ 3 ≤ (h.link 0).fails ∧
    (bundleLinks 0).find? (fun k => k != 0 && !(h.link k).down) = some 1 := by decide

theorem witness_LinkRows_mctp : (withInputs { mctp := [(smbusAddr, .sensorReg 0x0101), (smbusAddr + 1, .sensorPower)] }).inputs.mctp =
    [(smbusAddr, .sensorReg 0x0101), (smbusAddr + 1, .sensorPower)] ∧ smbusAddr + 1 ≠ smbusAddr := ⟨rfl, Nat.succ_ne_self _⟩

/-! States that meet the hypotheses of the statements about SXT and sessions. -/

/-- Session 1 with its command channel and channel 2 on port 0, and the frame that waits there. -/
def sxt (c : Chan) (x : RawFrame) : State :=
  { ports := portOn, sessions := [(1, { open_ := 1 })], chans := [(chanKey 1 0, { sid := 1, chn := 0, e := 0 }), (chanKey 1 2, { c with sid := 1, chn := 2 })]
    inputs := { frames := [(0, x)] } }

/-- A frame of a type on a channel of session 1: FSQ, flags LAST and CLS, nothing to acknowledge, its payload. -/
def frameAt (typ chn fsq : Nat) (last : Bool) (bs : List Byte) : RawFrame :=
  { rawFrame 100 (BitVec.ofNat 64 (0xFFFF * 2 ^ 48 + fsq * 2 ^ 32 + chn * 2 ^ 16 + (if last then 0x200 else 0) + typ * 16 + 1))
      (BitVec.ofNat 64 (bs.length * 2 ^ 48 + 0x400 * 2 ^ 32 + 1)) 0 0 bs with udpPort := 47240 }

/-- The frame that waits is in order for the row. -/
def arrives (s : State) (mine : Frame → Bool) : Bool :=
  match arriveFrame s mine with
  | .got u _ _ f =>
    let k := chanKey f.sid f.chn
    let q := takeAck (if f.chn == 0 then u.modSession f.sid (fun y => { y with heard := u.ns }) else u) k f.ack f.crd
    f.fsq < 65536 && f.fsq == (u.chan k).e && !streamBad (u.chan k) f && (fget q.chans k).isSome && decide (0 < (u.chan k).granted) && !(u.chan k).clsRx
  | _ => false

theorem inOrder_of {s : State} {mine : Frame → Bool} (h : arrives s mine = true) : ∃ p k f q, inOrder s mine p k f q := by
  unfold arrives at h
  split at h
  · rename_i u p x f hu
    simp only [Bool.and_eq_true, Bool.not_eq_eq_eq_not, Bool.not_true, beq_iff_eq, decide_eq_true_eq] at h
    obtain ⟨⟨⟨⟨⟨h1, h2⟩, h3⟩, h4⟩, h5⟩, h6⟩ := h
    exact ⟨p, _, f, _, x, u, hu, rfl, h1, h2, h3, rfl, by simpa using h4, h5, h6⟩
  · cases h

/-- The last FSQ, 65,535, in order; the first command frame; each type of frame, on a peer channel where it needs one. -/
theorem witness_FramesInOrder :
    let last : Chan := { dir := 1, e := 65535, granted := 1 }
    let peer : Chan := { dir := 2 }
    (∃ p k f q, inOrder (sxt last (frameAt 0 2 65535 false [])) (fun f => f.typ == 0) p k f q) ∧
    (∃ p k f q, inOrder (sxt {} (frameAt 3 0 0 true [1])) (fun f => (f.typ == 3 && !isOpenFrame f) || f.typ == 4) p k f q) ∧
    (∃ p k f q, inOrder (sxt peer (frameAt 5 2 0 false (List.replicate 8 1))) (fun f => f.typ == 5) p k f q) ∧
    (∃ p k f q, inOrder (sxt peer (frameAt 7 2 0 false [1])) (fun f => f.typ == 7) p k f q) ∧
    (∃ p k f q, inOrder (sxt peer (frameAt 8 2 0 false [1])) (fun f => f.typ == 8) p k f q) ∧
    (∃ p k f q, inOrder (sxt peer (frameAt 6 2 0 false [1])) (fun f => f.typ == 6) p k f q) ∧
    (∃ p k f q, inOrder (sxt peer (frameAt 9 2 0 false [1])) (fun f => f.typ == 9) p k f q) ∧
    (∃ p k f q, inOrder (sxt peer (frameAt 9 2 0 true [1])) (fun f => f.typ == 9) p k f q) ∧
    (∀ cid, cidClosed (sxt peer (frameAt 9 2 0 true [1])) 0 cid = false) ∧ cidClosed { collClosed := [(0, 7, 0)] } 0 7 = true :=
  ⟨inOrder_of (by decide), inOrder_of (by decide), inOrder_of (by decide), inOrder_of (by decide), inOrder_of (by decide), inOrder_of (by decide),
    inOrder_of (by decide), inOrder_of (by decide), fun _ => rfl, by decide⟩

/-- An ingress channel whose window takes its stream. -/
def ingress (x : RawFrame) : State :=
  { sxt { dir := 0 } x with wins := [(0, { st := .opened, depth := 2, fills := [{ by_ := .chan (chanKey 1 2), mid := sxtMid, cnt := 1 }] })] }

theorem witness_FramesInOrder_data : (∃ p k f q, inOrder (ingress (frameAt 0 2 0 false [])) (fun f => f.typ == 0) p k f q) ∧
    streamRoom (ingress (frameAt 0 2 0 false [])) (chanKey 1 2) 0 0 = true ∧ ((ingress (frameAt 0 2 0 false [])).chan (chanKey 1 2)).dir = 0 :=
  ⟨inOrder_of (by decide), by decide, by decide⟩

def gotFsq (a : Arrived) : Option (Nat × Nat) :=
  match a with
  | .got _ _ _ f => some (f.fsq, f.chn)
  | _ => none

/-- The frame farthest ahead that draws a NAK, and the one farthest behind. -/
theorem witness_FramesSeenAgain :
    gotFsq (arriveFrame (sxt { dir := 0 } (frameAt 0 2 32767 false [])) (fun f => f.typ == 0)) = some (32767, 2) ∧
    gotFsq (arriveFrame (sxt { dir := 0 } (frameAt 0 2 32768 false [])) (fun f => f.typ == 0)) = some (32768, 2) ∧
    (32767 + 65536 - ((sxt { dir := 0 } (frameAt 0 2 32767 false [])).chan (chanKey 1 2)).e) % 65536 = 32767 ∧
    gotFsq (arriveFrame (sxt {} (frameAt 1 2 0 false [])) (fun f => f.typ == 1)) = some (0, 2) ∧
    gotFsq (arriveFrame (sxt {} (frameAt 2 0 0 false [])) (fun f => f.typ == 2)) = some (0, 0) := by decide +kernel

/-- A frame resent seven times, one resent six times, at its due instant. -/
theorem witness_SessionTimers :
    let u : Sent := { frame := { typ := 3 }, at_ := 0, tries := 6 }
    let c : Chan := { sid := 1, chn := 2, unacked := [u], due := some 0 }
    let s : State := { chans := [(65538, c)], ns := 10000000000, sessions := [(1, { keep := 1 })]
                       net := [.remote { who := .none, kind := .read, mid := 0, tgt := .remote 0 0 2 0 } 5 0, .openRec 0 0 0 1 0 []] }
    fget s.chans 65538 = some c ∧ c.due = some 0 ∧ u.at_ + resendAfter u.tries ≤ s.ns ∧ u.tries < 7 ∧ c.chn ≠ 0 ∧
    u.at_ + resendAfter 7 ≤ s.ns ∧ s.msg 0 = some (.remote { who := .none, kind := .read, mid := 0, tgt := .remote 0 0 2 0 } 5 0) ∧ 5 ≤ s.ns ∧
    ({ s with ports := portOn } : State).portOn c.port = true ∧ sourceOk { s with ports := portOn } c.port = true ∧ rateRoom { s with ports := portOn } c.port 0 = true ∧
    s.msg 1 = some (.openRec 0 0 0 1 0 []) ∧ 0 + 100000000 ≤ s.ns ∧ (s.session 1).keep ≠ 0 ∧ (s.session 1).heard + (s.session 1).keep * 1000000000 ≤ s.ns := by
  decide

/-- An OPEN with the longest keep-alive, 3,600 s. -/
def openFrame : RawFrame :=
  { rawFrame 150 0x231 (BitVec.ofNat 64 (48 * 2 ^ 48 + 0x400 * 2 ^ 32)) 0 0
      ([1, 0, 0, 0, 7, 0, 0, 0, 32, 0, 0, 0, 0, 0, 0, 0] ++ List.replicate 24 0xFF ++ [0x10, 0x0E, 0, 0, 0, 0, 0, 0]) with udpPort := 47240 }

theorem witness_OpenSession :
    let s : State := { ports := portOn, inputs := { frames := [(0, openFrame)] } }
    let m := (frameOf openFrame).data
    gotFsq (arriveFrame s isOpenFrame) = some (0, 0) ∧ m.length = 48 ∧ bytesAt m 0 1 = 1 ∧ bytesZero m 1 3 = true ∧ bytesAt m 8 4 = 32 ∧ bytesZero m 12 4 = true ∧
    bytesAt m 40 4 = 3600 ∧ bytesZero m 44 4 = true ∧ (frameOf openFrame).cls = false ∧ (frameOf { openFrame with h0 := 0x631 }).cls = true ∧
    gotFsq (arriveFrame { ports := portOn, inputs := { frames := [(0, { openFrame with h0 := 0x631 })] } } isOpenFrame) = some (0, 0) ∧ openRecord s openFrame (BitVec.ofNat 64 (bytesAt m 16 8)) = none ∧ freeSid s = some 1 := by decide +kernel

/-- A session whose head command has an opcode and a body. -/
def asks (opc : Nat) (body : List Byte) (x : Session) : State :=
  { ports := portOn, sessions := [(1, { x with cmds := [{ opc := opc, ctag := 0, body := body }], open_ := 1 })]
    chans := [(chanKey 1 0, { sid := 1, chn := 0 })] }

/-- MAPWIN of one tile of a Commons window on die 0. -/
def mapBody : List Byte := List.replicate 4 0 ++ [1] ++ List.replicate 43 0

/-- Ceilings that allow everything at every bank group and at the channels of stack 0. -/
def openCeil (s : State) : State := { s with ceil := (List.range 288).map (fun t => (t * 32, ((0xFF : W64), (0x0000FFFFFFFFF000 : W64)))) }

def mapsOk (r : MapRes) : Bool :=
  match r with
  | .ok _ _ _ => true
  | .no _ _ => false

def seg0 : Segment := { va := 65536, len := 1024, kind := 0, die := 0, win := 0, base := 0, rights := 0x7E }

theorem witness_HostCommands_windows :
    (headCmd (asks 2 (List.replicate 32 0) {}) 1 2).isSome = true ∧ (headCmd (reap (openCeil (asks 3 mapBody {}))) 1 3).isSome = true ∧
    mapsOk (mapWindow (reap (openCeil (asks 3 mapBody {}))) 1 (mapReq mapBody) (winRights (mapReq mapBody).prs) sxtRights) = true ∧ mapMalformed mapBody = false ∧ mapFeature 0 (mapReq mapBody) = false ∧
    mapsOk (mapWindow (openCeil (asks 3 mapBody {})) 1 (mapReq mapBody) (winRights (mapReq mapBody).prs) sxtRights) = true ∧
    (let s : State := { asks 4 (List.replicate 8 0) { segs := [seg0] } with wins := [(0, { st := .opened })] }
     (s.session 1).segs.find? (fun g => g.kind == 0 && g.die == bytesAt (List.replicate 8 0) 0 2 && g.win == bytesAt (List.replicate 8 0) 2 2) = some seg0 ∧
     winInUse s 1 0 = false ∧ (s.win 0).st = .opened ∧ winInUse { s with chans := [(65538, { dir := 1 })] } 1 0 = true ∧
     ({ s with wins := [] } : State).win 0 = {}) := by decide +kernel

/-- BIND of channel 1 as ingress, as egress, as a peer channel. -/
def bindBody (dir : Byte) : List Byte := [1, 0, dir, 4, 0, 0, 0, 0, 1] ++ List.replicate 15 0

theorem witness_HostCommands_bind :
    let s : State := { asks 5 (bindBody 0) { segs := [seg0], g := 0x1FF } with wins := [(0, { st := .opened })] }
    bindMalformed (bindBody 0) = false ∧ bindMalformed (bindBody 1) = false ∧ bindMalformed (bindBody 2) = false ∧ (bindChan 1 0 (bindBody 2)).dir = 2 ∧
    (fget s.chans (chanKey 1 1)).any (fun y => !y.closed) = false ∧ (s.chans.filter (fun y => y.2.sid == 1 && !y.2.closed)).length < 256 ∧
    (s.chans.filter (fun y => !y.2.closed)).length < 16384 ∧ (s.session 1).g.getLsbD 5 = true ∧ (s.session 1).segs.any (fun g => g.kind == 0 && g.die == 0 && g.win == 0) = true ∧
    (joinFill s 0 { by_ := .chan (chanKey 1 1), mid := sxtMid, cnt := 1 }).isSome = true ∧ (s.win 0).st = .opened := by decide +kernel

theorem witness_HostCommands_rest :
    let launch : List Byte := [0, 0, 0, 0, 15, 1] ++ List.replicate 146 0
    let s := asks 7 launch { plans := [(0, {})] }
    let c : State := { asks 8 (List.replicate 8 0) { live := [(0, 0)], parked := [{ lid := 0, sid := 1 }] } with ns := 1 }
    launchStatus s 1 launch = .ok ∧ (c.session 1).live.find? (fun l => l.1 == 0) = some (0, 0) ∧ (cancelLaunch c 1 0).isSome = true ∧
    (headCmd (asks 9 (List.replicate 16 0) {}) 1 9).isSome = true ∧ (headCmd (asks 10 (List.replicate 8 0) {}) 1 10).isSome = true ∧
    (headCmd (asks 11 [] {}) 1 11).map (·.begun) = some false ∧ (headCmd (asks 6 [] {}) 1 6).isSome = true ∧
    (headCmd (asks 2 [] {}) 1 2).isSome = true ∧ launchMalformed [] = true ∧ mapMalformed [] = true ∧ bindMalformed [] = true := by decide +kernel

/-! States that meet the hypotheses of the statements about scheduling, windows and homes. -/

/-- Gang 1 runs on region 0. -/
def onRegion (g : Gang) (y : Region) : State :=
  { boot := { done := true }, gangs := [(1, { g with regions := [0], sid := 1 })], regions := [(0, { y with gang := some 1 })], sessions := [(1, {})] }

def offers (o : Offer) : Option (List Granted) :=
  match o with
  | .ok ts => some ts
  | _ => none

/-- A launch of class INT at the head of its queue on die 0; a BAT head that has waited 1 ms; an ISO reservation at its instant, and at the end of its
budget; a gang in the slack of a reservation; a launch of class INT that finds every region taken by BKG gangs. -/
theorem witness_SchedulingRows_grant :
    let l : Launch := { sid := 1, q := 4, ph := 0 }
    let s : State := { queues := [(4, [l])], sessions := [(1, { plans := [(0, { home := 0 })] })] }
    (offers (offerAt s false 4)).isSome = true ∧ turnHasCome s 4 = true ∧ (((offers (offerAt s false 4)).bind (grantAll s))).isSome = true ∧
    (let b : Launch := { q := 8 }
     b.cls = 2 ∧ b.promoted = false ∧ b.since + 1000000 ≤ ({ ns := 1000000 } : State).ns) := by decide +kernel

theorem witness_SchedulingRows_iso :
    let i : Iso := { next := 5, period := 1000, budget := 3, nact := 2, started := 2, running := false, cbw := 0 }
    let s : State := { ns := 5, gangs := [(1, { regions := [0], iso := some i })], regions := [(0, { resv := some 1 })] }
    let t : State := { ns := 5, gangs := [(1, { regions := [0], started := 2, iso := some { i with running := true } })] }
    let u : State := { ns := 4, gangs := [(1, { regions := [0], iso := some i }), (2, { regions := [0], drain := 1 })], regions := [(0, { resv := some 1, gang := some 2 })] }
    (s.gang 1).iso = some i ∧ i.next ≤ s.ns ∧ (∀ r ∈ (s.gang 1).regions, (s.region r).gang = none ∧ partingHas s r = false) ∧ (t.gang 1).started + i.budget ≤ t.ns ∧
    slackEnd u 2 = some 5 ∧ (u.gang 2).pre = none ∧ 5 ≤ u.ns + (u.gang 2).drain := by decide +kernel

theorem witness_SchedulingRows_preempt :
    let l : Launch := { sid := 1, q := 4, ph := 0 }
    let s : State := { queues := [(4, [l])], sessions := [(1, { plans := [(0, { home := 0 })] })]
                       gangs := [(1, { launch := { q := 12 } }), (2, { launch := { q := 8 }, started := 9 })]
                       regions := (List.range 64).map (fun r => (r, { gang := some 1 })) }
    needsRegions s = true ∧ victim s = some 1 ∧ frising s.gangs = true ∧ (fget s.gangs 1).isSome = true := by decide +kernel

theorem witness_DrainAndEndRows :
    let s := onRegion { pre := some 0, drain := 9 } { stopped := some .idle }
    let t := onRegion { pre := some 0, drain := 9 } { stopped := some .idle, closed := true }
    let u := onRegion { pre := some 0, drain := 9 } { quiet := true }
    let e := onRegion {} { parser := { st := .done } }
    let i := onRegion { iso := some { next := 5, period := 1000, budget := 3, nact := 2, started := 2, running := true, cbw := 0 } } { parser := { st := .done } }
    let two : State := { onRegion {} { parser := { st := .done } } with gangs := [(1, { regions := [0, 1] })] }
    let part : State := { parting := [{ regions := [0] }] }
    let still : State := { part with net := [.plain { who := .wb 0, kind := .write, mid := coreMid 0, tgt := .win 0 0 0 }] }
    regionGang part 0 = none ∧ (part.parting.find? (fun p => p.regions.contains 0)).isSome = true ∧ regionsWb part [0] = false ∧ regionsWb still [0] = true ∧
    (leaving s 0).map (·.park) = some none ∧ (s.region 0).stopped = some .idle ∧ (leaving t 0).isSome = true ∧ drainEnds t (t.gang 1) 0 = true ∧
    (flushWhole u (u.gang 1).regions).2 = true ∧ (flushWhole e [0]).2 = true ∧ (u.gang 1).pre = some 0 ∧ (u.region 0).quiet = true ∧ (u.region 0).ended = false ∧ u.ns ≤ 0 + (u.gang 1).drain ∧
    0 + (u.gang 1).drain ≤ ({ u with ns := 9 } : State).ns ∧ mayEnd e 0 = true ∧ regionGang e 0 = some (1, e.gang 1) ∧ mayEnd i 0 = true ∧ (i.gang 1).iso.isSome = true ∧
    mayEnd two 0 = true ∧ (∃ q ∈ (two.gang 1).regions, ((two.modRegion 0 (fun y => { y with ended := true })).region q).ended = false) := by decide +kernel

theorem witness_FaultAndBellRows :
    let s : State := { onRegion {} { faults := [{ src := .wedge, rcd := {} }] } with cyc := 1 }
    let late : Withheld := { key := 1, va := 0, since := 0, last := 0 }
    let held : State := { onRegion { wdg := 1 } { withheld := [late], sites := [(0, { q := [(0, [{}])] })] } with cyc := 2, ns := 1000000000 }
    let bar := onRegion { wdg := 1 } { cfg := { q := [{ d := {}, arrived := true }] } }
    let w : State := { onRegion { wdg := 1 } { sites := [(0, { q := [(0, [{}])] })] } with cyc := 2 }
    let k : State := { onRegion {} { kiosks := [(0, { run := some (0, 0) })] } with cyc := 4096 }
    let b : State := { inputs := { bells := [20] }, bellLast := some 0, ns := 1000 }
    (s.region 0).gang = some 1 ∧ (s.region 0).faults = [{ src := .wedge, rcd := {} }] ∧ (s.region 0).trap = none ∧ betweenBlocks (s.core 0) = true ∧
    (0 : Nat) < s.cyc ∧ (∀ x ∈ (held.region 0).withheld, x.res = .pending → x.since + (held.region 0).pglim * 1000 ≤ held.ns) ∧ tokensIn held 0 = true ∧
    barrierWaits (bar.region 0) = true ∧ tokensIn bar 0 = false ∧ (w.region 0).withheld = [] ∧ tokensIn w 0 = true ∧ lastMove (w.region 0) + 2 ^ (w.gang 1).wdg ≤ w.cyc ∧ faultHeld (w.region 0) .wedge = false ∧
    (k.kiosk 0 0).run = some (0, 0) ∧ 0 + 4096 ≤ k.cyc ∧ faultHeld (k.region 0) (.taskLong 0) = false ∧
    b.bellLast = some 0 ∧ 0 + 1000 ≤ b.ns ∧ ({ b with ns := 999 } : State).ns < 0 + 1000 ∧ ({ bellEnd := 1 } : State).ns < 1 ∧ b.bellEnd ≤ b.ns ∧
    ((b.region 0).crs.ring.bind (·.dump)) = none := by decide +kernel

/-- Window 0 of die 0, whose bank permits everything. -/
def win0 (x : Window) : State := { boot := { done := true }, access := [(0, (0xFF, 0xFFFFFFFFF000))], wins := [(0, x)] }

theorem witness_WindowRows_fill :
    let f : FillStream := { by_ := .none, mid := sxtMid, cnt := 1, want := true }
    let s := win0 { st := .opened, fills := [f] }
    let t := win0 { st := .opened, head := 1, fills := [{ f with seq := some 0, want := false }], tiles := [(0, { c := 1, got := 1024 })] }
    let n := win0 { st := .opened, fills := [{ f with blocked := some 1 }] }
    let no : State := { s with access := [] }
    (s.win 0).st = .opened ∧ (s.win 0).fills = [f] ∧ f.seq = none ∧ f.paused = false ∧ f.bad = none ∧ f.blocked = none ∧
    bulkFull f (s.win 0).head = false ∧ (fillArrives s 0 f).1 = true ∧ (fillArrives no 0 f).1 = false ∧
    slotTile (s.win 0) ((s.win 0).head % (s.win 0).depth) = none ∧ f.ok = false ∧ isBulk f = false ∧ f.first = none ∧
    (tileCheck s 0 (s.win 0).head .cfill f.mid).1 = true ∧ (tileCheck no 0 (no.win 0).head .cfill f.mid).1 = false ∧
    (t.win 0).st = .opened ∧ (t.win 0).fills.head?.bind (·.seq) = some 0 ∧ fget (t.win 0).tiles 0 = some { c := 1, got := 1024 } ∧ tileSize (t.win 0) ≤ 1024 ∧
    ({ n with net := [.notice 0 1 0] } : State).msg 0 = some (.notice 0 1 0) ∧ pathUp n 0 0 = true ∧ (n.win 0).fills = [{ f with blocked := some 1 }] := by
  decide +kernel

theorem witness_WindowRows_party : ∀ r, ({ by_ := .none, mid := sxtMid, cnt := 1 } : FillStream).by_ ≠ .carousel r := by
  intro r h
  cases h

/-- Which of the four answers an access finds: a place, a wait, a refusal, another station. -/
def locIs (l : Loc) (k : Nat) : Bool :=
  match l with
  | .at_ _ _ => k == 0
  | .wait _ => k == 1
  | .refused _ _ _ => k == 2
  | .remote _ _ _ _ _ => k == 3

theorem witness_WindowRows_access :
    let a : Access := { who := .none, kind := .cread, mid := sxtMid, tgt := .win 0 0 0, n := 8 }
    let s : State := { win0 { st := .opened, head := 1, tiles := [(0, { st := .cnt, c := 2 })] } with net := [.counted a 0, .crel a, .plain { a with kind := .write }] }
    let o : State := { win0 { st := .opened, head := 1, tiles := [(0, { st := .res })] } with net := [.crel a] }
    turnPast s 0 0 a.mid = false ∧ (1 : Nat) ≠ (s.win 0).gen ∧ turnPast s 0 (tileByAddress (s.win 0) 0) a.mid = false ∧ descAt (cmnAddr 0 0) = none ∧
    (descAt (cmnAddr 3 0x3003FFFF)) = some (16383, 63) ∧ descAt (cmnAddr 3 0x30040000) = none ∧
    (({} : State).storeHome (coreMid 640) (cmnAddr 0 0x30000000) [0x0C] false) = none ∧
    (({} : State).storeHome (coreMid 640) (cmnAddr 0 0x30000000) [0x04] false).isSome = true ∧
    s.msg 0 = some (.counted a 0) ∧ s.msg 1 = some (.crel a) ∧ (countedArrive s a.who 0 (tileByAddress (s.win 0) 0) a.mid).1 = .ready ∧
    (countedArrive o a.who 0 (tileByAddress (o.win 0) 0) a.mid).1 = .over ∧ reaches s a.mid a.tgt = true ∧ a.epoch = none ∧
    s.msg 2 = some (.plain { a with kind := .write }) ∧ locIs ({ a with kind := .write }.locate (win0 { st := .opened })) 0 = true ∧
    locIs ({ a with kind := .read }.locate (win0 { st := .opened })) 0 = true ∧
    locIs ({ a with kind := .read }.locate (win0 { st := .closed })) 2 = true ∧
    locIs ({ a with kind := .read }.locate (win0 { st := .opened, kind := 2, depth := 2, head := 1, blen := 2048 })) 3 = true := by decide +kernel

theorem witness_WindowRows_end :
    let s := win0 { st := .retiring, kind := 1, blen := 1024, tiles := [(0, { st := .wb })] }
    let t := win0 { st := .retiring }
    let f : FillStream := { by_ := .none, mid := sxtMid, cnt := 1, pf := true, last := some 0, tok := some (63, 0, 1, 7), filled := 1 }
    let p := win0 { st := .opened, head := 1, fills := [f] }
    fget (s.win 0).tiles 0 = some { st := .wb } ∧ (s.win 0).kind = 1 ∧ 0 < min (tileSize (s.win 0)) ((s.win 0).blen - 0 * tileSize (s.win 0)) ∧
    ((s.win 0).bbase + 0 * tileSize (s.win 0)) % 4096 + 1024 ≤ 4096 ∧ (checkAt s (hbmAddr 0) 1024 .write 0).1 = false ∧
    (checkAt { s with access := [(256 * 64, (0xFF, 0xFFFFFFFFF000))] } (hbmAddr 0) 1024 .write 0).1 = true ∧ (t.win 0).shortDue = false ∧ (t.win 0).tiles = [] ∧ (t.win 0).fills = [] ∧ fgetD t.wq 0 [] = [] ∧
    (p.win 0).fills = [f] ∧ f.seq = none ∧ f.bad = none ∧ bulkFull f (p.win 0).head = true ∧ ({ f with tok := none } : FillStream).tok = none ∧ (63 : Nat) < 64 ∧ (fgetD (p.site 63 (mstSite 0)).q 1 []).length < 4 := by decide +kernel

theorem witness_CountedReads :
    let s := win0 { st := .opened, head := 2, tiles := [(0, { st := .cnt, c := 2, rd := 1 }), (1, { st := .cnt, c := 1, rd := 1 })] }
    fget (s.win 0).tiles 0 = some { st := .cnt, c := 2, rd := 1 } ∧ (s.win 0).mkd = false ∧ fget (s.win 0).tiles 1 = some { st := .cnt, c := 1, rd := 1 } ∧
    frising (s.win 0).tiles = true ∧ fget (s.win 0).tiles 2 = none ∧ (s.win 0).head ≤ 2 ∧ fget ((win0 { head := 2, st := .opened }).win 0).tiles 1 = none := by decide +kernel

/-- A window command of Pergola 0 for window 0 at the head of its queue. -/
def winCmd (op : Nat) (x : Window) (w4 : Nat) : State :=
  { win0 { x with owner := 1 } with
    gangs := [(1, { regions := [0], sid := 1 })], regions := [(0, { gang := some 1, cmds := 1 })], sessions := [(1, { segs := [seg0] })]
    wq := [(0, [{ words := [BitVec.ofNat 64 op, 0, 0, 0, BitVec.ofNat 64 w4, 0, 0, 0] }])] }

def rightOf (s : State) (w : Nat) : Bool :=
  match fgetD s.wq w [] with
  | d :: _ => !d.told && mayComplete s d && (winRight s w d).1
  | [] => false

theorem witness_WindowCommands :
    let f : FillStream := { by_ := .core 0, mid := coreMid 0, cnt := 0, nt := some 1, filled := 1 }
    (winHead (winCmd 8 {} 0) 0 8).isSome = true ∧ rightOf (winCmd 8 {} 0) 0 = true ∧ ((winCmd 8 {} 0).win 0).st = .closed ∧
    (winHead (winCmd 9 { st := .opened, kind := 1 } 1) 0 9).isSome = true ∧ rightOf (winCmd 9 { st := .opened, kind := 1 } 1) 0 = true ∧
    ((winCmd 8 { st := .opened } 0).win 0).st = .opened ∧ rightOf (winCmd 8 { st := .opened } 0) 0 = true ∧
    ((winCmd 9 { st := .opened, kind := 1 } 1).win 0).fills.find? (fun f => f.by_ == .core 0 && f.nt.isSome && f.addr == 0) = none ∧ ((winCmd 9 { st := .opened, kind := 1 } 1).win 0).kind ≠ 0 ∧
    (joinFill (winCmd 9 { st := .opened, kind := 1 } 1) 0 { by_ := .core 0, mid := coreMid 0, cnt := 0, nt := some 1, want := true, addr := 0 }).isSome = true ∧
    ((winCmd 9 { st := .opened, kind := 1, fills := [f] } 1).win 0).fills.find? (fun f => f.by_ == .core 0 && f.nt.isSome && f.addr == 0) = some f ∧ f.bad = none ∧
    nbits 1 31 0 = 1 ∧ rightOf (winCmd 9 { st := .opened, kind := 1, fills := [f] } 1) 0 = true ∧
    (winHead (winCmd 10 { st := .opened } 0) 0 10).isSome = true ∧ rightOf (winCmd 10 { st := .opened } 0) 0 = true ∧ nbit 0 0 = false ∧
    ncnt ((winCmd 10 { st := .opened } 1).win 0) = 0 ∧ rightOf (winCmd 10 {} 0) 0 = true ∧
    rightOf (winCmd 10 { st := .retiring } 0) 0 = true ∧ ((winCmd 10 { st := .retiring } 0).win 0).closing = false := by decide +kernel

/-- An access of core 0 to the first bytes of window 0. -/
def acc (k : AKind) : Access := { who := .slot 0 0, kind := k, mid := coreMid 0, tgt := .win 0 0 0, va := 0x10000, n := 8 }

def homed (m : NetMsg) (full : List Nat) : State := { win0 { st := .opened } with net := [m], full := full }

theorem witness_HomeRows :
    let r : Access := { acc .write with who := .op 0 0 0, epoch := some 1, scope := .rg }
    let d : Access := { acc .pRead with data := [5, 0, 0, 0, 0, 0, 0, 0] }
    locIs ((acc .pWrite).locate (homed (.presence (acc .pWrite)) [])) 0 = true ∧ smem (homed (.presence (acc .pWrite)) []).full (presWord (.win 0 0 0)) = false ∧
    locIs ((acc .pRead).locate (homed (.presence (acc .pRead)) [])) 0 = true ∧ (homed (.deferred d) []).msg 0 = some (.deferred d) ∧ d.data ≠ [] ∧
    NetMsg.deferred (acc .pRead) ∈ (homed (.deferred (acc .pRead)) []).net ∧ smem (homed (.presence (acc .pRead)) [presWord (.win 0 0 0)]).full (presWord (.win 0 0 0)) = true ∧
    smem (homed (.presence (acc .pRead)) []).full (presWord (.win 0 0 0)) = false ∧
    deferredAt (homed (.presence (acc .pRead)) []) (presBank (homed (.presence (acc .pRead)) []) (.win 0 0 0)) < 64 ∧
    locIs (r.locate (homed (.release r) [])) 0 = true ∧ r.epoch = some 1 ∧ r.who = .op 0 0 0 ∧ syncRoom (homed (.release r) []) (syncKey r.tgt (cmnAddr 0 0)) 0 = true ∧
    ({ r with epoch := none } : Access).epoch = none ∧ (acc .read).who = .slot 0 0 ∧
    locIs ((acc .read).locate (homed (.acquire (acc .read)) [])) 0 = true ∧ scopeWide .site = false ∧ scopeWide .rg = true ∧
    (let v := syncKey (acc .read).tgt (cmnAddr 0 0)
     acquireNeeds (acquireClear (homed (.acquire (acc .read)) []) v 0 .rg) v 0 .rg = []) ∧
    (writeBack (homed (.lineReq 0 0 0) []) 0 (fun l => l.dirty != 0 && l.epochs.contains 0) false).2 = true ∧
    locIs ((acc .atomic).locate (homed (.atomic (acc .atomic)) [])) 0 = true ∧
    ((homed (.atomic (acc .atomic)) []).loadMem 0 8).2 = false ∧ (({ homed (.atomic (acc .atomic)) [] with poison := [0] } : State).loadMem 0 8).2 = true := by decide +kernel

/-- A chained access of gang 1. -/
def linked (sq pd sc : Nat) : Access :=
  { acc .chWrite with who := .op 0 0 0, tgt := .hbm 0, gang := 1, chain := some { ch := 0, sq := sq, pd := pd, sc := sc } }

def chained (m : NetMsg) (c : ChainSt) : State :=
  { boot := { done := true }, access := [(256 * 64, (0xFF, 0xFFFFFFFFF000))], net := [m], chains := [(chainKey 1 0, c)], gangs := [(1, { regions := [0] })] }

/-- What a check at the chain's home answers: the access that goes on, or its refusal. -/
def chainPasses (r : Option Access × State) : Bool := r.1.isSome

/-- The first access of a chain; one that must wait; a null link; the last place held, and none left; a refused one, in the chain's turn and out of it;
a chain that has waited GAPLIM, at rest and with an access under way; a window's tile; the wildcards of both sides at their edges. -/
theorem witness_TurnstileRows :
    let first := linked 1 0 0xFFFFFF
    let s := chained (.chain first) {}
    let h := chained (.chain (linked 5 4 0)) { l := 1, sl := 0xFFFFFF }
    let g : State := { chained (.chained first) { held := [linked 5 4 0] } with ns := 50000 }
    let w : Access := { first with tgt := .win 0 0 0 }
    chainPasses (chainCheck s first) = true ∧ chainPasses (chainCheck { s with access := [] } first) = false ∧ pathUp s 0 (chainDie s (chainKey 1 0)) = true ∧
    stuck {} = false ∧ stuck { waitFault := [first] } = true ∧ ({ flying := true } : ChainSt).flying = true ∧ pathUp g (chainDie g (chainKey 1 0)) 1 = true ∧
    locIs (chainAt s first).1 0 = true ∧ (chainAt s first).2 = first.back ∧ (linked 5 4 0).who = .op 0 0 0 ∧
    (gapClosed { held := [linked 5 4 0] }) = none ∧ (gapClosed { flying := true }).isSome = true ∧
    (match windowRes 0 ((win0 { st := .opened, head := 1, tiles := [(0, { st := .res })] }).win 0) 0 true false with
     | .tile 0 _ => true
     | _ => false) = true ∧
    locIs (chainAt (win0 { st := .opened, head := 1, tiles := [(0, { st := .res })] }) w).1 0 = true ∧ eligible {} first = true ∧ nullLink first = false ∧ nullLink { first with n := 0 } = true ∧ eligible {} { first with n := 0 } = true ∧
    chainPasses (chainCheck h (linked 5 4 0)) = true ∧ eligible { l := 1, sl := 0xFFFFFF } (linked 5 4 0) = false ∧ heldAt h (chainHome h (chainKey 1 0)) < 256 ∧
    g.msg 0 = some (.chained first) ∧ first.tgt = .hbm 0 ∧ (fgetD g.chains (chainKey 1 0) {}).held = [linked 5 4 0] ∧ (fgetD g.gangs (chainKey 1 0 / 256) {}).pre = none ∧
    (linked 5 4 0).since + g.gapLim.getD (chainDie g (chainKey 1 0)) 50 * 1000 ≤ g.ns ∧ frising g.chains = true ∧
    eligible { l := 0, sl := 6 } (linked 6 0xFFFFFF 0) = true ∧ eligible { l := 0, sl := 5 } (linked 6 0xFFFFFF 0) = false ∧
    ([linked 1 0 0].find? (eligible {})) = some (linked 1 0 0) ∧ ([linked 5 4 0].find? (eligible {})) = none := by decide +kernel

/-! States that meet the hypotheses of the statements about the fabric, planes and the parser. -/

/-- Region 0, with a gang, and one site. -/
def fab (n : Nat) (x : Site) : State := onRegion {} { sites := [(n, x)] }

/-- A site whose active configuration word has an opcode. -/
def opc (f : Nat) (x : Site) : Site := { x with act := { x.act with word := BitVec.ofNat 128 f } }

def dat (v : W32) : Token := { v := v }
def mark (l : Nat) : Token := { kind := .mark, lvl := l }

def lookIs (r : TlkRes) (k : Nat) : Bool :=
  match r with
  | .refuse _ _ => k == 0
  | .miss _ => k == 1
  | .hit _ _ => k == 2

theorem witness_TranslationRows_tlk :
    let n := tlkSite 7
    let x : Site := opc 0xF2 { q := [(0, [dat 0])], act := { ext := 0x10000 } }
    let m := opc 0xF2 { q := [(0, [mark 1])] }
    let kv : Site := opc 0xF2 { q := [(0, [mark 1])], act := { ext := 1 <<< 51 } }
    let hit : State := onRegion {} { sites := [(n, x)], tlks := [(7, { entries := [(0, { page := 1, leaf := 0x15D, l1 := false, pins := 254 })] })], xroot := 1 }
    let on : State := onRegion {} { sites := [(n, x)], xroot := 1 }
    let two : Site := { x with q := [(0, [dat 0, dat 0x10000])] }
    let busy : State := onRegion {} { sites := [(n, two)], xroot := 1, walks := [(tlkKey 0 7, 0x10000)] }
    let late : State := { onRegion {} { sites := [(n, x)], xroot := 1
                                        withheld := [{ key := tlkKey 0 7, va := 0x10000, since := 0, last := 0, res := .fault 1 }] } with }
    heldRes (late.region 0) (tlkKey 0 7) 0x10000 = some (.fault 1) ∧ (late.tlk 0 7).walked = none ∧ x.out = [] ∧ lookIs (tlkLook late 0 7 (late.tlk 0 7) 0x10000) 1 = true ∧
    tlkPinnedFull (on.tlk 0 7) = false ∧ heldRes (busy.region 0) (tlkKey 0 7) 0x10000 = none ∧
    tileReady (fab n x) 0 n 0xF2 = true ∧ kvMark x = false ∧ qHead x 0 = some (dat 0) ∧ tlkKv x = false ∧ tlkAddr [] x 0 0 = 0x10000 ∧
    lookIs (tlkLook on 0 7 (on.tlk 0 7) 0x10000) 1 = true ∧ kvFull x (on.tlk 0 7) = false ∧ walking (on.region 0) (tlkKey 0 7) 0x10000 = false ∧ (on.region 0).walks.length < 16 ∧
    lookIs (tlkLook busy 0 7 (busy.tlk 0 7) 0x10000) 1 = true ∧ walking (busy.region 0) (tlkKey 0 7) 0x10000 = true ∧ (laterMisses busy 0 7 two (busy.tlk 0 7)).length = 1 ∧
    lookIs (tlkLook (fab n x) 0 7 ((fab n x).tlk 0 7) 0x800000000000) 0 = true ∧ lookIs (tlkLook hit 0 7 (hit.tlk 0 7) 0x10000) 2 = true ∧
    (tlkEmit (endWalk hit 0 (tlkKey 0 7) 0x10000) 0 7 (popQ x 0) 0 { page := 1, leaf := 0x15D, l1 := false, pins := 254 } 0x10000 0 false).isSome = true ∧
    tileReady (fab n m) 0 n 0xF2 = true ∧ (qHead m 0).map (·.kind) = some .mark ∧ kvMark m = false ∧
    tileReady (fab n kv) 0 n 0xF2 = true ∧ kvMark kv = true ∧ kvFull kv ((fab n kv).tlk 0 7) = false ∧ ((fab n kv).tlk 0 7).walked = none ∧
    (((fab n kv).setTlk 0 7 { walked := some 0 }).tlk 0 7).walked ≠ none := by decide +kernel

theorem witness_TranslationRows_walks :
    let s := onRegion {} { walks := [(tlkKey 0 7, 0x10000)] }
    let w : State := { onRegion {} { withheld := [{ key := 0, va := 0x10000, since := 0, last := 18000 }] } with ns := 20000 }
    let i : State := { onRegion {} {} with net := [.inval 639 0 65535 [] false [], .inval 0 0 65535 [] true []] }
    let h : Withheld := { key := 0, va := 0x10000, since := 0, last := 18000 }
    (s.region 0).walks[0]? = some (tlkKey 0 7, 0x10000) ∧ (w.region 0).withheld[0]? = some h ∧ 18000 + 2000 ≤ w.ns ∧ h.res = .pending ∧
    (w.region 0).walks.length < 16 ∧ kvHolds w 0 h = false ∧
    ({ w with ns := 19999 } : State).ns < 18000 + 2000 ∧ (w.region 0).gang = some 1 ∧
    ((w.region 0).withheld.find? (fun x => x.res == .pending && x.since + (w.region 0).pglim * 1000 ≤ w.ns)).isSome = true ∧ (w.gang 1).park = none ∧ i.msg 0 = some (.inval 639 0 65535 [] false []) ∧ (639 : Nat) < 640 ∧
    i.msg 1 = some (.inval 0 0 65535 [] true []) := by decide +kernel

/-- Each row of elements, at the first and the last opcode it names. -/
theorem witness_FabricRows :
    let s := fab 1 (opc 0x101 { q := [(0, [dat 1])] })
    let p := fab 26 (opc 0x1B { coll := [dat 1] })
    let a : State := { onRegion {} {} with net := [.arc 0 31 7] }
    let d0 : State := { onRegion {} { drawn := [(3, (5, 1))] } with cyc := 5 }
    let d1 : State := { onRegion {} { drawn := [(3, (5, 1))], allocs := [(3, (1, 0))] } with cyc := 5 }
    drewOf (d0.region 0) (d1.region 0) = [3] ∧ fget (d0.region 0).drawn 3 = some (d0.cyc, 1) ∧ (0 : Nat) < 1 ∧ drewOf (d0.region 0) (d0.region 0) = [] ∧
    (s.region 0).gang = some 1 ∧ (1 : Nat) < 1024 ∧ leadMark s 0 1 7 = false ∧ (s.site 0 1).frozen = none ∧ siteKind 1 = .fe ∧ (s.site 0 1).act.matched = true ∧
    (s.site 0 1).act.fop ≠ 0 ∧ elemReady s 0 1 = true ∧ isMemPort (s.site 0 1).act.fop = false ∧ pendingOut (s.site 0 1) = false ∧
    elemReady p 0 26 = true ∧ pendingOut (p.site 0 26) = true ∧ a.msg 0 = some (.arc 0 31 7) ∧ isMemPort ((a.drop 0).site 0 (31 * 32 + 1)).act.fop = false ∧
    [0x01, 0x10, 0x11, 0x15, 0x12, 0x14, 0x18, 0x1A, 0x1B, 0x1C, 0x20, 0x24, 0x28, 0x29, 0x2A, 0x2B, 0x30, 0x31, 0x38].all (fun f =>
      elemReady (fab 1 (opc f {})) 0 1 && !pendingOut ((fab 1 (opc f {})).site 0 1) && !((fab 1 (opc f {})).site 0 1).act.matched &&
      ((fab 1 (opc f {})).site 0 1).act.fop == f) = true ∧ hasAcc 0x20 = true ∧ hasAcc 0x24 = true := by decide +kernel

def goes (f : Fired) : Bool :=
  match f with
  | .go _ _ => true
  | _ => false

/-- Each memory-port opcode with a data set; the chained ones with a ring of chains that holds SQ; a fence; an answer. -/
def portSite (f : Nat) (ts : List Token) : Site := opc (f + 0x400) { q := (List.range ts.length).zip (ts.map (fun t => [t])) }

theorem witness_MemoryPortRows :
    [0x40, 0x41, 0x44, 0x45].all (fun f =>
      let s := fab 33 (portSite f [dat 0, dat 1])
      let u := portSettle s 0 1
      let x := u.site 0 33
      elemReady s 0 33 && elemReady u 0 33 && decide (x.reqs.length < 16) && (qHead x 0).isSome && !x.act.matched && takeOrdered x.act (qHeads x x.act.arity) == .data [dat 0, dat 1] &&
      goes (portData u 0 33 (popQs x x.act.arity) 0 [dat 0, dat 1])) = true ∧
    (outTag (fab 33 {}) 0 {} 0 [dat 0, dat 1] 0).isSome = true ∧
    (let c : Token := { kind := .ctl, lvl := 2 }
     let s := fab 33 (portSite 0x40 [c])
     elemReady s 0 33 = true ∧ elemReady (portSettle s 0 1) 0 33 = true ∧ isMemPort (s.site 0 33).act.fop = true ∧ qHead (s.site 0 33) 0 = some c ∧ qHead ((portSettle s 0 1).site 0 33) 0 = some c ∧
     ((portSettle s 0 1).site 0 33).act.fop = (s.site 0 33).act.fop ∧ ((portSettle s 0 1).site 0 33).reqs.length < 16) ∧
    (let q : MemReq := { id := 0, kind := .read, st := .done [(5, false)], tag := 0, otag := 0, sent := true }
     let s := fab 33 { portSite 0x40 [] with reqs := [q] }
     elemReady s 0 33 = true ∧ isMemPort (s.site 0 33).act.fop = true ∧ ((portSettle s 0 1).site 0 33).reqs = [q] ∧ q.sent = true ∧ q.tile = none ∧ ({ q with tile := some (0, 0) } : MemReq).tile = some (0, 0)) := by
  decide +kernel

/-- A box from tile 0 of window 0 to tile 1 of it, by reference: one byte. -/
def boxDesc (kind : Nat) (sm dm : Nat) : Desc :=
  { words := [BitVec.ofNat 64 kind, 0, 0, BitVec.ofNat 64 0, BitVec.ofNat 64 0x1000000, BitVec.ofNat 64 (sm + 8 + dm * 16 + 128), 0x1000001, 0, 0, 0, 0, 0, 0, 0, 0, 0] }

def boxed (b : Box) : State :=
  let s := onRegion {} { ports := [(0, { chains := [{ box := b }] })] }
  { s with wins := [(0, { st := .opened, depth := 2, head := 1 })], access := (List.range 64).map (fun t => (t * 64, ((0xFF : W64), (0xFFFFFFFFF000 : W64)))) }

/-- The element is read and can be written. -/
def copies (s : State) (b : Box) : Bool :=
  match fetchPlain s 0 0 b with
  | .ok u b' bs poi _ =>
    (match putPlain u 0 0 b' bs poi with
     | .ok _ b'' => b'.d == b.d && b''.d == b.d
     | _ => false)
  | _ => false

theorem witness_BoxRows :
    let e : SiteFault := { code := 0x40B }
    portReady (boxed { d := boxDesc 1 0 0 }) 0 0 = true ∧
    [1, 2, 3, 4].all (fun k => (boxMove (discardLoose (boxed { d := boxDesc k 0 0, ended := false }) 0 0) 0 0 0).1 &&
      ((discardLoose (boxed { d := boxDesc k 0 0 }) 0 0).pt 0 0).chains.length == 1) = true ∧
    ((boxed { d := boxDesc 1 0 0, fault := some e }).pt 0 0).chains.map (·.box.fault) = [some e] ∧ (boxDesc 1 0 0).dm ≠ 3 ∧
    (let b : Box := { d := boxDesc 1 0 0, started := true }
     ((boxed b).pt 0 0).asked = b.asked ∧ b.pos < b.d.total ∧ b.d.isList = false ∧ b.d.sm = 0 ∧ b.d.dm = 0 ∧ copies (boxed b) b = true) ∧
    (boxDesc 1 0 0).told = false ∧ mayComplete (boxed { d := boxDesc 1 0 0, ended := true }) (boxDesc 1 0 0) = true ∧ (boxDesc 1 0 0).next = 0 := by decide +kernel

theorem witness_TileRows_spawn :
    let l : List TagField := [⟨8, false, true⟩, ⟨8, true, false⟩]
    let spn := fun (x : Site) => onRegion {} { layout := l, colours := [(0, 9)], sites := [(16 * 32 + 27, opc 0xF5 { x with act := { word := 1 <<< 104 } })] }
    let call : Site := { q := [(0, [dat 5])] }
    let ret : Site := { q := [(3, [{ kind := .ctl, lvl := 4, tag := 0 }])] }
    let x := (spn call).site 0 539
    let cmt := onRegion {} { layout := l, allocs := [(1, (1, 0))], sites := [(8 * 32 + 27, { q := [(0, [dat 5])], act := { word := 0xF3, ext := 1 } })] }
    tileReady (onRegion {} { sites := [(539, { x with act := { word := (1 <<< 104) + 0xF5 } })] }) 0 539 0xF5 = true ∧
    takeOrdered { word := (1 <<< 104) + 0xF5 } (qHeads call 1) = .data [dat 5] ∧ freeColour ((spn call).region 0) = some 1 ∧ colourField l = some 0 ∧
    qHead ret 3 = some { kind := .ctl, lvl := 4, tag := 0 } ∧ (emitSec (popQ ret 3) (dat 0)).out = [] ∧
    (emitSec (popQ { ret with act := { word := 0xF5 + (9 <<< 52) } } 3) (dat 0)).out ≠ [] ∧ fget ((spn ret).region 0).colours (getField l 0 0) = some 9 ∧
    tileReady cmt 0 283 0xF3 = true ∧ takeOrdered (cmt.site 0 283).act (qHeads (cmt.site 0 283) 1) = .data [dat 5] ∧ extBits (cmt.site 0 283).act 2 0 = 1 ∧
    getField l 1 0 = 0 ∧ (1 + 2 ^ 8 - 0) % 2 ^ 8 ≠ 0 ∧ fieldWidth l 1 = 8 ∧ (1 + 2 ^ 8 - 0) % 2 ^ 8 ≤ (getField l 1 (1 <<< 48) + 2 ^ 8 - 0) % 2 ^ 8 := by decide +kernel

theorem witness_TileRows_rest :
    let e : MatchEntry := { tag := 0, slots := [some (dat 1)] }
    let m : Site := { issue := [e], act := { word := 0xF7 } }
    let o : Site := { issue := [e], act := { word := 0xF7, ext := 1 } }
    let r : Site := { q := [(0, [dat 0x3F800000]), (1, [dat 7])], act := { word := 0xF4 + 0x400 } }
    let k : Site := { q := [(0, [mark 1]), (1, [mark 1])], act := { word := 0xF4 + 0x400 } }
    let t : Site := { q := [(0, [dat 1])], act := { word := 0xF6, ext := 2 } }
    let p : Site := { q := [(0, [dat 1])], act := { word := 0xF6, ext := 3 } }
    let tm : Site := { t with q := [(0, [mark 1])] }
    let pm : Site := { p with q := [(0, [mark 1])] }
    qHead tm 0 = some (mark 1) ∧ (mark 1).kind = .mark ∧ tm.coll = [] ∧ ({ tm with coll := [dat 1] } : Site).coll ≠ [] ∧ qHead pm 0 = some (mark 1) ∧ pm.coll.length < 4 * xpsNb pm ∧
    ({ pm with coll := [dat 1] } : Site).coll.length < 4 * xpsNb { pm with coll := [dat 1] } ∧
    tileReady (fab (mstSite 0) m) 0 (mstSite 0) 0xF7 = true ∧ nbit (extBits m.act 0 0) 0 = false ∧ nbit (extBits o.act 0 0) 0 = true ∧
    o.issue.find? (fun e => getField [] (extBits o.act 3 1) e.tag == fgetD o.regs 0 0) = some e ∧
    tileReady (fab (12 * 32 + 27) r) 0 411 0xF4 = true ∧ nbit (extBits r.act 131 131) 0 = false ∧ takeOrdered r.act (qHeads r 2) = .data [dat 0x3F800000, dat 7] ∧
    usable (dat 0x3F800000).v.toNat = true ∧ takeOrdered k.act (qHeads k 2) = .marks [mark 1, mark 1] ∧ extBits k.act 130 128 ≤ (mark 1).lvl ∧
    tileReady (fab (24 * 32 + 27) t) 0 795 0xF6 = true ∧ nbit (extBits t.act 0 0) 0 = false ∧ t.coll.length < 128 ∧ nbit (extBits p.act 0 0) 0 = true ∧
    p.coll.length < 4 * xpsNb p ∧ xpsNb { p with act := { word := 0xF6, ext := 1 } } = 0 ∧ ({ t with coll := List.replicate 128 (dat 1) } : Site).coll.length = 128 ∧
    ({ p with coll := List.replicate 4 (dat 1) } : Site).coll.length = 4 * xpsNb p := by decide +kernel

/-- A command at the configuration bus of region 0 over the one site of a rectangle. -/
def cfgState (kind : Nat) (w3 : Nat) (c : CfgCmd) : State :=
  onRegion {} { cfg := { q := [{ c with d := { words := [BitVec.ofNat 64 kind, 0, 0, BitVec.ofNat 64 w3, 0, 0, 0, 0] } }] }, moved := some 0 }

def loads (r : Sum (State × PlaneRec) UnitRes) (f : PlaneRec → Bool) : Bool :=
  match r with
  | .inl x => f x.2
  | .inr _ => false

/-- Rectangles of one site: word 3 of a load or a swap, and of a barrier. -/
def oneSite : Nat := 1 * 2 ^ 16 + 1 * 2 ^ 26 + 1 * 2 ^ 32
def oneBar : Nat := 1 * 2 ^ 8 + 1 * 2 ^ 18 + 1 * 2 ^ 24

theorem witness_PlaneAndBarrierRows :
    let load := cfgState 0x30 oneSite { d := {} }
    let full := cfgState 0x30 oneSite { d := {}, done := 1 }
    let swap := cfgState 0x31 (oneSite + 5) { d := {} }
    let waits := cfgState 0x31 oneSite { d := {}, waits := true }
    let bar := cfgState 0x32 oneBar { d := {} }
    let barw := cfgState 0x32 oneBar { d := {}, waits := true }
    let bara := cfgState 0x32 oneBar { d := {}, arrived := true }
    ((full.cfg 0).q.headD { d := {} }).d.told = false ∧ (cmdTurn (bar.cfg 0).q 0x32 (fun c => c.d.told || (!c.waits && !c.arrived))).isSome = true ∧
    ((bar.cfg 0).q.headD { d := {} }).d.told = false ∧
    (cmdTurn (load.cfg 0).q 0x30 (fun c => c.done < c.d.rect.w * c.d.rect.h)).isSome = true ∧ loads (loadRecord load 0 1 0) (fun p => (recordBad [] 1 p).isNone) = true ∧
    (recordBad [] 1 { word := 0x300 }).isSome = true ∧
    (cmdTurn (full.cfg 0).q 0x30 (fun c => c.done == c.d.rect.w * c.d.rect.h)).isSome = true ∧ mayComplete full ((full.cfg 0).q.headD { d := {} }).d = true ∧
    ((full.cfg 0).q.headD { d := {} }).d.next = 0 ∧ (cmdTurn (swap.cfg 0).q 0x31 (fun c => !c.waits && !c.arrived)).isSome = true ∧
    (∀ n ∈ ((waits.cfg 0).q.headD { d := {} }).d.rect.sites, (waits.site 0 n).sha.pid = ((waits.cfg 0).q.headD { d := {} }).d.pid) ∧
    (∀ n ∈ ((swap.cfg 0).q.headD { d := {} }).d.rect.sites, (swap.site 0 n).sha.pid ≠ ((swap.cfg 0).q.headD { d := {} }).d.pid) ∧
    (load.region 0).moved = some 0 ∧ 0 + 64 ≤ ({ load with cyc := 64 } : State).cyc ∧
    (cmdTurn (waits.cfg 0).q 0x31 (fun c => c.waits || c.arrived)).isSome = true ∧ rectStill waits 0 ((waits.cfg 0).q.headD { d := {} }).d.rect = true ∧ noFault waits 0 = true ∧
    rectStrays waits 0 ((waits.cfg 0).q.headD { d := {} }).d.rect = [] ∧
    (rectStrays (waits.setSite 0 1 (opc 1 { q := [(0, [dat 1])] })) 0 ((waits.cfg 0).q.headD { d := {} }).d.rect).length = 1 ∧
    (cmdTurn (barw.cfg 0).q 0x32 (fun c => c.waits)).isSome = true ∧
    rectStill barw 0 ((barw.cfg 0).q.headD { d := {} }).d.rect = true ∧ (arrivedBar bara 0).isSome = true ∧ (bara.gang 1).regions = [0] ∧
    ((bara.cfg 0).q.headD { d := {} }).d.barWins = [] := by decide +kernel

/-- Region 0 parses with a stack and a queue, under a grammar of one cell. -/
def parsing (st : PgState) (stack : List Nat) (mq : List MqEntry) (p : Parser) : State :=
  let s := onRegion { launch := { sid := 1 } } { parser := { p with st := st, stack := stack, mq := mq } }
  { s with sessions := [(1, { plans := [(0, { gram := { cells := [[0, 0x8001]] } })] })] }

theorem witness_ParserRows :
    let h : MqEntry := { term := 1, ord := 1, cnt := 0, pos := 0 }
    let e : ActEntry := { ord := 1, fn := .reset, v := 0 }
    let sync : PlaneRec := { word := (1 <<< 99) + 1 }
    let lead := onRegion {} { sites := [(0, { out := [{ tok := mark 1, left := [2] }] })] }
    let act : State := { fab 1 { act := sync } with net := [.tact 0 1 e] }
    let app : State := onRegion {} { parser := { settled := none }, sites := [(1, { act := sync, q := [(0, [mark 1])] })] }
    leadMark lead 0 0 2 = true ∧ grantVc lead 0 0 2 = some 0 ∧ srcHead 0 (lead.site 0 0) 2 0 = some (mark 1) ∧
    parserMoves (parsing .parse [] [] {}) 0 = true ∧ ((parsing .parse [0x400] [] {}).parser 0).stack = [0x400] ∧
    ((parsing .parse [0] [h] { ovf := true }).parser 0).ovf = true ∧ (needHead ((parsing .parse [0] [h] { ovf := true }).parser 0)).mq = [h] ∧
    (needHead ((parsing .parse [0x101] [h] {}).parser 0)).mq = [h] ∧ nbit 0xC001 15 = true ∧ nbit 0xC001 14 = true ∧ (needHead ((parsing .parse [0x101] [h] {}).parser 0)).ovf = false ∧ 0x101 = 0x100 + h.term ∧
    0x102 ≠ 0x100 + h.term ∧ (grammarOf (parsing .parse [0] [h] {}) 0).cells.getD 0 [] = [0, 0x8001] ∧
    (nbit (([0, 0x8001] : List Nat).getD 0 0) 15 && nbit (([0, 0x8001] : List Nat).getD 0 0) 14) = false ∧ nbit (([0, 0x8001] : List Nat).getD h.term 0) 15 = true ∧
    nbit (([0, 0x8001] : List Nat).getD 2 0) 15 = false ∧
    (let low : MqEntry := { term := 2, ord := 1, cnt := 0, pos := 0 }
     let top : MqEntry := { term := 7, ord := 1, cnt := 0, pos := 0 }
     let dr : MqEntry := { term := 0, ord := 1, cnt := 1, pos := 0 }
     ((parsing .mismatch [] [low] {}).parser 0).mq = [low] ∧ low.term ≠ 0 ∧ top.term = 7 ∧ dr.term = 0) ∧
    (2 : Nat) < ({ lvl := 3 } : Grammar).lvl ∧ ({ lvl := 7 } : Grammar).lvl ≤ 7 ∧ ({ lvl := 2 } : Grammar).lvl ≤ 2 ∧
    parserMoves (parsing .mismatch [] [h] {}) 0 = true ∧
    (let rec_ := parsing .mismatch [] [] { recovering := true, resetAt := some 1 }
     (rec_.parser 0).raises = [] ∧ (rec_.parser 0).recovering = true ∧ (rec_.parser 0).resetAt = some 1 ∧ anyPending rec_ 0 = false) ∧
    (mark 1).v.toNat = 0 ∧ ({ e with ord := 2 ^ 32 } : ActEntry).ord % 2 ^ 32 = (mark 1).v.toNat ∧ e.ord % 2 ^ 32 ≠ (mark 1).v.toNat ∧
    serialGe e.ord 0 = true ∧ serialGe (2 ^ 32 - 1) 0 = false ∧ serialGe 0 (mark 1).v.toNat = true ∧ pendingOut (app.site 0 1) = false ∧ (app.site 0 1).aq = [] ∧
    ((parsing .mismatch [] [h] {}).parser 0).resetAt = none ∧ (grammarOf (parsing .mismatch [] [h] {}) 0).lvl ≤ 3 ∧
    ((parsing .done [] [h] {}).region 0).trap = none ∧ ((parsing .mismatch [] [h] { resetAt := some 1 }).parser 0).resetAt = some 1 ∧
    (grammarOf (parsing .mismatch [] [h] { resetAt := some 1 }) 0).pois = [] ∧ entriesPending (parsing .parse [] [] { raises := [1] }) 0 1 = false ∧
    (act.site 0 1).frozen = none ∧ siteKind 1 = .fe ∧ (act.site 0 1).act.fop ≠ 0 ∧ markSync (act.site 0 1).act = true ∧ ((act.drop 0).site 0 1).act = sync ∧
    elemReady app 0 1 = true ∧ sync.arity = 1 ∧ sync.matched = false ∧ sync.fop ≠ 0x1C ∧ syncSet sync [mark 1] = true ∧ oneKind [mark 1] = true ∧
    (app.region 0).parser.settled = none := by decide +kernel

/-! States that meet the hypotheses of the statements about blocks, engines and the Trellis. -/

/-- A Pergola about to start a block that stands in its buffer: one br. -/
def starting (w : W64) : State :=
  { onRegion {} {} with cores := [(0, { phase := .start 0x10000, buffer := [(0x10000, [w, 0, 0x5000000000000000])] })] }

def blockIs (s : State) (ok : Bool) : Bool :=
  match getBlock s 0 0x10000 with
  | .ok _ ws false =>
    (match parseBlock .pergola 0 ws with
     | .ok _ => ok
     | .error _ => !ok)
  | _ => false

theorem witness_BlockAndTaskRows :
    let run : State := { onRegion {} {} with cores := [(0, { phase := .running, run := { slots := [{ word := 0x5000000000000000, fired := true, br := some .fall, ready := some 0 }] } })] }
    let fin : State := { onRegion {} {} with cores := [(0, { phase := .ending .fall, outq := [{ idx := 0, baddr := 0, op := .snap }] })] }
    let msg : State := { onRegion {} {} with net := [.reply 0 63 5 false, .fault 0 {} (some 63)] }
    let arm : Desc := { words := [0x28, 0, 0, 0x10, 7, 0x10000, 0, 0, 0, 0, 0, 0, 0, 0, 0, 0] }
    let kio : State := { onRegion {} { kiosks := [(0, { q := [arm] })], sites := [(nodeSite 0, { act := { word := 0xF1, ext := 0x10004 } })] } with wins := [(0, { st := .opened })] }
    let t : Task := { tt := 7, h := 0x10000, inputs := [], ready := some 0 }
    let go := onRegion {} { kiosks := [(8, { slots := [(15, t)] })] }
    let half : State := { onRegion {} {} with cores := [(0, { phase := .running, run := { slots := [{ word := 0x5000000000000000 }] } })] }
    let bad : BlockRun := { slots := [{ word := 0x5000000000000000, fault := some (1, 0) }] }
    postDue 0 ((starting 0xB10C).core 0) = false ∧ blockReady (run.core 0) = true ∧ blockReady (half.core 0) = false ∧ (bad.slot 0).fault ≠ none ∧
    (run.core 0).run.slots.all (fun x => x.fault.isNone) = true ∧ commitAt (run.core 0).run ≠ none ∧ commitAt (half.core 0).run = none ∧
    overwritesPending (run.core 0) = false ∧ run.inputs.residue = [] ∧ ({ fin with cores := [(0, { phase := .ending .fall })] } : State).core 0 = { phase := .ending .fall } ∧
    arm.told = false ∧
    startHeld (starting 0xB10C) 0 = false ∧ blockIs (starting 0xB10C) true = true ∧ blockIs (starting 0xB10D) false = true ∧
    pickNext (run.core 0) = none ∧ inFlight (run.core 0).run = false ∧ awaitsReply (run.core 0) = false ∧ (fin.core 0).phase = .ending .fall ∧ (fin.core 0).outq ≠ [] ∧
    msg.msg 0 = some (.reply 0 63 5 false) ∧ msg.msg 1 = some (.fault 0 {} (some 63)) ∧ (63 : Nat) < 64 ∧
    armBad kio 0 0 arm = none ∧ (List.range 16).find? (fun n => (fget (kio.kiosk 0 0).slots n).isNone) = some 0 ∧ mayComplete kio arm = true ∧ arm.next = 0 ∧
    (go.kiosk 0 8).run = none ∧ (go.core 9).phase = .idle ∧ (go.core 9).outq = [] ∧ coreHeld go 9 = false ∧ pickTask go 0 (go.kiosk 0 8) = some (15, t) := by decide +kernel

theorem witness_EngineRows :
    let fifo : Site := { q := [(0, [dat 1])], act := { word := 0xF1, ext := 0x10004 } }
    let rep : Site := { q := [(0, [dat 1]), (1, [dat 2])], act := { word := 0xF1, ext := 0x00410009 } }
    let n := onRegion {} { sites := [(nodeSite 0, fifo)] }
    let m := onRegion {} { sites := [(nodeSite 0, rep)] }
    let full := onRegion {} { sites := [(nodeSite 0, rep)], nodes := [(0, { bufs := [(0, { toks := List.replicate 256 (dat 0) })] })] }
    let op : Desc := { words := [0x10, 0, 0, BitVec.ofNat 64 (0x80 + 2 ^ 16), 0, 0, 0, 0] }
    let rd : Desc := { words := [0x11, 0, 0, BitVec.ofNat 64 (2 ^ 10), 0, 0, 0, 0] }
    let e := onRegion {} { engs := [(7, { q := [(0, op)] })] }
    let f := onRegion {} { engs := [(7, { q := [(0, rd)] })] }
    let pair := onRegion {} { engs := [(7, { run0 := some { d := op } })], sites := [(nodeSite 0, { act := { word := 0xF1, ext := 0x00410009 } })]
                              nodes := [(0, { bufs := [(0, { count := 2 })] })] }
    let out := onRegion {} { engs := [(7, { routed := true, ready := [0], out := [dat 1] })] }
    nodeReady n 0 0 = true ∧ qHead (n.site 0 (nodeSite 0)) 0 = some (dat 1) ∧ nodeRepeat n 0 0 = false ∧ ((n.node 0 0).buf (n.node 0 0).wr).count = 0 ∧
    nodeRepeat m 0 0 = true ∧ panelFull m 0 0 (m.node 0 0).wr = false ∧ ((full.node 0 0).buf (full.node 0 0).rep).count = 0 ∧
    qHead (full.site 0 (nodeSite 0)) 1 = some (dat 2) ∧ panelWhole full 0 0 (full.node 0 0).rep = true ∧ (dat 2).v ≠ 0 ∧
    pickMe (e.eng 0 7) (e.eng 0 7).q [] = some ((0, op), []) ∧ bankBad (e.eng 0 7) op = false ∧ op.kind = 0x10 ∧
    pickMe (f.eng 0 7) (f.eng 0 7).q [] = some ((0, rd), []) ∧ bankBad (f.eng 0 7) rd = false ∧ rd.kind = 0x11 ∧ (f.eng 0 7).run 0 = none ∧
    (pairTurn pair 0 (pair.eng 0 7) 0).isSome = true ∧
    (let g : Engine := { run0 := some { d := op, sent := 1 } }
     g.run 0 = some { d := op, sent := 1 } ∧ 1 = op.np ∧ mayComplete e op = true) ∧
    (out.eng 0 7).ready = [0] ∧ (out.eng 0 7).out = [dat 1] ∧ injectRoom out 0 (engSite 7 0) 1 (crsRing out 0).out (crsRing out 0).ovc = true ∧ portReady out 0 31 = true := by
  decide +kernel

/-- crs.ring of one engine, one expert. -/
def ringDesc : Desc := { words := [0x18, 0, 0, 1, 0, 0xFFFFFFFFFF000000, 0xFFFFFFFFFF000100, 0, 0, 0, 0, 0, 0, 0, 0, 0] }
def runDesc : Desc := { words := [0x19, 0, 0, 0, 0, 0, 0, 0] }
def onRing (g : Gang) (c : Carousel) (e : Engine) : State :=
  onRegion g { crs := { c with ring := some (ringOf ringDesc) }, engs := [(0, e)] }

def tablesOk (r : Sum State (State × FMap (List (Nat × Nat × Nat)))) : Bool :=
  match r with
  | .inl _ => false
  | .inr _ => true

theorem witness_CarouselRows :
    let s := onRegion {} { crs := { q := [ringDesc] } }
    let r := onRing {} { q := [runDesc] } {}
    let l := onRing {} { lapReady := some runDesc } {}
    let t : Train := { exp := 0, copy := 0, ncopy := 1, grp := 0, scale := 0, place := 0 }
    let a := onRing { lap := some { trains := [t] } } { lap := true } { routed := true }
    let z := onRing { lap := some {} } { lapReady := some runDesc, lap := true } {}
    ringDesc.told = false ∧ runDesc.told = false ∧ lapRuns s 0 = false ∧ lapRuns a 0 = true ∧ (∀ k ∈ ({} : Lap).todo, k.2 = []) ∧ ringDesc.kind = 0x18 ∧ ringBad s ringDesc = none ∧ leavers s 0 (ringOf ringDesc).mes = [] ∧ enginesBusy s 0 (ringOf ringDesc).mes = false ∧
    mayComplete s ringDesc = true ∧ ringDesc.next = 0 ∧ runDesc.kind = 0x19 ∧ (r.gang 1).lap = none ∧
    ((r.gang 1).regions.filterMap (fun r' => (r.crs r').ring)).length = (r.gang 1).regions.length ∧
    (((r.gang 1).regions.filterMap (fun r' => (r.crs r').ring)).all (ringsAgree (crsRing r 0))) = true ∧
    (∀ p ∈ (crsRing r 0).ldr, p < (ringEngines r (r.gang 1)).length) ∧ (l.gang 1).regions ≠ [] ∧ (∀ r' ∈ (l.gang 1).regions, (l.crs r').lapReady ≠ none) ∧
    tablesOk (loadTables (l.gang 1) (ringEngines l (l.gang 1)) l ((List.range 1).zip (crsRing l 0).ldr) []) = true ∧
    (ringEngines a (a.gang 1)).idxOf (0, 0) < (ringEngines a (a.gang 1)).length ∧ takeTrain 0 [t] = some (t, []) ∧ t.poi = false ∧ (a.eng 0 0).frozen = none ∧
    (z.gang 1).regions = [0] ∧ (z.gang 1).lap = some {} ∧ (z.crs 0).lapReady = some runDesc ∧ mayComplete z runDesc = true ∧ runDesc.next = 0 := by decide +kernel

/-- A Trellis command of region 0. -/
def trlState (kind : Nat) (w3 : Nat) (t : Trellis) : State :=
  onRegion {} { trl := { t with q := [{ chain := 0, d := { words := [BitVec.ofNat 64 kind, 0, 0, BitVec.ofNat 64 w3, 0xFFFFFFFFFF000000, 0, 0, 0] } }] } }

/-- One cell loaded from the scratchpad or by reference, counted as done; a run of one input plane and one output plane. -/
def oneCell : Nat := 2 ^ 16

/-- A wiring record is read, and passes its checks at level 0. -/
def wiringIs (r : UnitRes) : Bool :=
  match r with
  | .ok _ bs _ => (wiringBad 0 (leNat bs)).isNone
  | _ => false

def loadEnds (s : State) (i : Nat) : Bool :=
  match (s.trl 0).q[i]? with
  | some c => c.prog == c.d.tnc && (s.trl 0).frozen.isNone && mayComplete s c.d
  | none => false

theorem witness_TrellisAndReplayRows_trellis :
    let ctx := trlState 0x20 oneCell {}
    let tab := trlState 0x21 oneCell {}
    let run := trlState 0x22 (2 ^ 9) { inq := [(0, [dat 1])] }
    let ent := trlState 0x22 (2 ^ 9) { taken := 1 }
    (trlRefill ctx 0).trl 0 = ctx.trl 0 ∧ (ctx.trl 0).endAt = none ∧ (ctx.trl 0).frozen = none ∧
    loadTurns (ctx.trl 0).q 0x20 = [0] ∧ loadEnds ((loadTurns (ctx.trl 0).q 0x20).foldl (loadGo 0x20 0) ctx) 0 = true ∧ loadTurns (tab.trl 0).q 0x21 = [0] ∧
    tabPartial tab 0 ((tab.trl 0).q.headD { chain := 0, d := {} }) = false ∧ loadEnds ((loadTurns (tab.trl 0).q 0x21).foldl (loadGo 0x21 0) tab) 0 = true ∧
    wiringIs (wiringRead ctx 0 0xFFFFFFFFFF000000) = true ∧ ((ctx.trl 0).q.headD { chain := 0, d := {} }).prog < ((ctx.trl 0).q.headD { chain := 0, d := {} }).d.tnc ∧
    runTurn ((trlEnd (trlRefill (emitRun run 0) 0) 0 0x22).trl 0).q = some 0 ∧ fgetD (run.trl 0).inq ((run.trl 0).q.headD { chain := 0, d := {} }).d.tiprt [] = [dat 1] ∧
    (run.trl 0).taken < ((run.trl 0).q.headD { chain := 0, d := {} }).d.tnin ∧ (run.trl 0).part.length < 3 ∧
    (ent.trl 0).taken = ((ent.trl 0).q.headD { chain := 0, d := {} }).d.tnin ∧ ((ent.trl 0).q.headD { chain := 0, d := {} }).d.tmkp = false ∧
    ((ent.trl 0).q.headD { chain := 0, d := {} }).d.tstore = false ∧ eccCell (ent.trl 0) ((ent.trl 0).q.headD { chain := 0, d := {} }).d = none := by decide +kernel

def readIs (r : UnitRes) (f : List Byte → Bool) : Bool :=
  match r with
  | .ok _ bs false => f bs
  | _ => false

theorem witness_TrellisAndReplayRows_replay :
    let d : Desc := { words := [0x2C, 0, 0, BitVec.ofNat 64 (1 * 2 ^ 2 + 1 * 2 ^ 20), 0xFFFFFFFFFF000000, 0, 0, 0] }
    let s : State := { onRegion {} { reps := [(0, { q := [d] })], sites := [(1, opc 0x38 {})] } with mem := [(scrAddr 0 0, 1), (scrAddr 0 2, 1)] }
    let g : State := { onRegion {} {} with net := [.removal 0 0 1 1 (dat 5)] }
    d.told = false ∧ (s.rep 0 0).q = [d] ∧ (s.rep 0 0).on = false ∧ isCfw s 0 d.trnRoot = true ∧
    readIs (unitReadMany s 0 (coreMid d.by_.core % 256) .read 2 (2 ^ d.trnLge) (d.words.getD 4 0))
      (fun bs => (items 2 bs (2 ^ d.trnLge)).all (fun e => e < 2048 && isCfw s 0 (e % 1024))) = true ∧
    mayComplete s d = true ∧ d.next = 0 ∧ g.net[0]? = some (.removal 0 0 1 1 (dat 5)) := by decide +kernel

/-- A collective of one participant, whose table and source stand in the scratchpad. -/
def collDesc (kind : Nat) : Desc :=
  { words := [BitVec.ofNat 64 kind, 0, 0, 1, 7, 0xFFFFFFFFFF000000, 0xFFFFFFFFFF000100, 0xFFFFFFFFFF000200, 1, 0, 0, 0, 0, 0, 0, 0] }
def collState (c : Coll) : State :=
  let s := onRegion {} {}
  { s with sessions := [(1, { plans := [(0, { feat := 0x1FF })] })], gangs := [(1, { regions := [0], sid := 1, launch := { sid := 1 } })], colls := [(63, c)], ns := 100000 }

theorem witness_CollectiveRows :
    let c : Coll := { d := collDesc 0x38, r := 0 }
    let sent : Coll := { c with sent := true, ptab := [0], got := [(0, [1, 0, 0, 0])] }
    let late : Coll := { c with sent := true, opened := some 0 }
    c.sent = false ∧ c.out = false ∧ c.d.told = false ∧ sent.out = false ∧ sent.bad = [] ∧ late.out = false ∧
    (let dk : Coll := { sent with d := { words := (collDesc 0x38).words.set 3 (1 + 2 ^ 19) } }
     fget (gather (collState dk) 63).colls 63 = some dk ∧ dk.d.dk = true ∧ dk.got.length = dk.d.npart) ∧
    fget (collState c).colls (collKey 3 15) = some c ∧ (15 : Nat) < 16 ∧ ((collState c).region 0).gang ≠ none ∧
    readIs (unitReadMany (collState c) 0 (coreMid 0 % 256) .read 8 1 0xFFFFFFFFFF000000) (fun bs => (tableBad (collState c) 63 c (items 8 bs 1)).isNone) = true ∧
    readIs (collSource (collState { c with ptab := [0] }) { c with ptab := [0] }) (fun _ => true) = true ∧
    collLate c (collState c).ns = false ∧ collLate late (collState late).ns = decide (c.d.tmo < 100000) ∧
    fget (gather (collState sent) 63).colls 63 = some sent ∧ sent.got.length = c.d.npart ∧ c.d.dk = false ∧ c.d.kind ≠ 0x3A ∧ c.d.cesz = 4 ∧
    mayComplete (gather (collState sent) 63) c.d = true ∧
    readIs (writePieces (gather (collState sent) 63) 0 (coreMid 0 % 256) 4 1 0xFFFFFFFFFF000200 (collBytes sent)) (fun _ => true) = true ∧
    fget (gather (collState late) 63).colls 63 = some late ∧ 0 + c.d.tmo ≤ (gather (collState late) 63).ns ∧ late.got.length < c.d.npart := by decide +kernel

/-- Region 0 with one site has made no draw. -/
theorem drawFree_fab (n : Nat) (x : Site) : drawFree (fab n x) 0 n := by
  intro f c m h
  cases h

/-- Every opcode, in order and by matching, with two values; a second lane, a last copy; a set of marks; mrg behind its first queue; cfw with one side
and with both; the last place of a matching store, and an entry that a token completes. -/
theorem witness_ElementsComplete :
    let ord := fun (f : Nat) => opc (f + 0x400) { q := [(0, [dat 1]), (1, [dat 2])] }
    let mat := fun (f : Nat) => opc (f + 0x500) { issue := [{ tag := 7, slots := [some (dat 1), some (dat 2)] }] }
    let takes := fun (x : Site) => elemReady (fab 1 x) 0 1 && !pendingOut ((fab 1 x).site 0 1) && (match dataSet ((fab 1 x).site 0 1) with
      | some (_, tag, ts) => (outTag (fab 1 x) 0 x.act tag ts 0).isSome && ts == [dat 1, dat 2] && !(ts.getD 1 {}).poi
      | none => false)
    let un := opc 0x1B { coll := [dat 1] }
    let cp := opc 0x2B { copies := 1, s0 := some (dat 5), s1 := some (dat 1) }
    let mk := opc 0x401 { q := [(0, [mark 1]), (1, [mark 1])] }
    let mg := opc 0x428 { q := [(1, [dat 3])] }
    let c1 := opc 0x438 { q := [(1, [dat 3])] }
    let c2 := opc 0x438 { q := [(0, [dat 3])], s1 := some (dat 4) }
    let st := opc 0x501 { q := [(1, [dat 3])], store := (List.range 15).map (fun i => { tag := BitVec.ofNat 64 (i + 1), slots := [none, some {}] }) }
    [0x01, 0x10, 0x11, 0x15, 0x12, 0x14, 0x18, 0x1A, 0x1B, 0x1C, 0x20, 0x24, 0x29, 0x2A, 0x2B, 0x30, 0x31].all (fun f => takes (ord f) && takes (mat f)) = true ∧
    (ord 1).act.matched = false ∧ (mat 1).act.matched = true ∧
    elemReady (fab 1 un) 0 1 = true ∧ un.coll = [dat 1] ∧ elemReady (fab 1 cp) 0 1 = true ∧ (outTag (fab 1 cp) 0 cp.act 0 [dat 5, dat 1] 0).isSome = true ∧
    elemReady (fab 1 mk) 0 1 = true ∧ takeOrdered mk.act (qHeads mk mk.act.arity) = .marks [mark 1, mark 1] ∧ portCtl mk = false ∧ syncSet mk.act [mark 1, mark 1] = false ∧
    elemReady (fab 1 mg) 0 1 = true ∧ mg.act.arity = 2 ∧ (((List.range 2).map (fun i => (mg.last + 1 + i) % 2)).find? (fun q => match qHead mg q with
      | some t => t.kind == .data || t.kind == .fault
      | none => false)) = some 1 ∧ qHead mg 1 = some (dat 3) ∧
    elemReady (fab 1 c1) 0 1 = true ∧ qHead c1 1 = some (dat 3) ∧ qHead c1 0 = none ∧ c1.s0 = none ∧ c1.s1 = none ∧
    elemReady (fab 1 c2) 0 1 = true ∧ qHead c2 0 = some (dat 3) ∧ qHead c2 (1 - 0) = none ∧ setField [] 0 (dat 3).tag 0 = setField [] 0 (dat 4).tag 0 ∧
    st.act.matched = true ∧ st.act.fop ≠ 0 ∧ qHead st 1 = some (dat 3) ∧ (∀ j < st.act.arity, j ≠ 1 → qHead st j = none) ∧
    (match placeTok 16 2 (heldComplete [] st) st.store 1 (dat 3) with
     | .ok l c => l.length == 16 && c.isNone
     | _ => false) = true ∧
    ([({ tag := 0, slots := [some (dat 1), none] } : MatchEntry)].find? (fun e => e.tag == (dat 3).tag)) = some { tag := 0, slots := [some (dat 1), none] } ∧
    ([some (dat 1), none].set 1 (some (dat 3))).all (·.isSome) = true := by decide +kernel

def leafIs (r : State × WalkRes) : Bool :=
  match r.2 with
  | .leaf _ _ => true
  | _ => false

/-- Region 0 of the walked tables of R126, with what waits for the walker. -/
def walked (y : Region) (cyc : Nat) : State :=
  let s : State := { onRegion {} { y with xroot := 0x04000001 } with
    ns := cyc, access := (List.range 32).map (fun t => ((256 + t) * 64, ((0xFF : W64), (0xFFFFFFFFF000 : W64)))) }
  ((s.storeMem (hbmAddr 0x04000020) [3, 0, 1, 4, 0, 0, 0, 0] false).storeMem (hbmAddr 0x04018D10) [3, 0, 2, 4, 0, 0, 0, 0] false).storeMem
    (hbmAddr 0x0402B3C0) [0x2D, 4, 0x23, 0x50, 0, 0, 0, 0] false

/-- A hop to the north and one to the Trellis; a walk with its leaf, for a TLK, a core and a unit. -/
theorem witness_MovementCompletes_moves :
    let hop1 := fab 1 { out := [{ tok := dat 1, left := [0] }], act := { word := 9 <<< 48 } }
    let hop2 := fab (31 * 32 + 27) { out := [{ tok := dat 1, left := [1] }], act := { word := 9 <<< 52 } }
    let a : W64 := 0x0000123456789ABC
    let wk := walked { walks := [(tlkKey 0 7, a)] } 0
    let held := fun (k : Nat) => walked { withheld := [{ key := k, va := a, since := 0, last := 0 }] } 2000
    leadMark hop1 0 1 0 = false ∧ grantVc (countLead hop1 0 1 0) 0 1 0 = some 0 ∧ srcHead 1 ((countLead hop1 0 1 0).site 0 1) 0 0 = some (dat 1) ∧
    farEnd 1 0 = some (33, 4) ∧ grantVc (countLead hop2 0 1019 1) 0 1019 1 = some 0 ∧ (srcHead 1019 (hop2.site 0 1019) 1 0).isSome = true ∧ farEnd 1019 1 = none ∧
    attachOf 1019 1 = some 15 ∧ (wk.region 0).walks[0]? = some (tlkKey 0 7, a) ∧ leafIs (doWalk wk 0 a) = true ∧
    (tlkInstall ((doWalk wk 0 a).1.tlk 0 7) (a.toNat / 65536) 0x5023042D false).isSome = true ∧
    [0, tlkKey 0 7, 200001].all (fun k => leafIs (doWalk (walkedNow (held k) 0 0 { key := k, va := a, since := 0, last := 0 }) 0 a)) = true ∧
    tlkKv ((held (tlkKey 0 7)).site 0 (tlkSite 7)) = false ∧ tlkKey 0 7 % 2 = 1 ∧ tlkKey 63 7 < 200000 ∧ (0 + 2000 ≤ (held 0).ns) ∧
    freeWalk (held 0) 0 = true ∧ [0, tlkKey 0 7, 200001].all (fun k => !kvHolds (held k) 0 { key := k, va := a, since := 0, last := 0 }) = true := by decide +kernel

/-- A box, of one entry where it has a list, at the element that it comes to, from memory to memory or to its track. -/
def elemBox (kind dm : Nat) : Box :=
  let d := boxDesc kind 0 dm
  { d := { d with words := d.words.set 9 0x100000000 }, started := true, list_ := some [0] }

def fetches (s : State) (b : Box) : Bool :=
  match fetchElem s 0 0 b with
  | .ok _ b' _ _ p => b'.d == b.d && p.all (fun k => !(s.win k.1).mkd)
  | _ => false

/-- The ring of one engine, one expert, and an engine that takes its packets. -/
def packets (b : Box) : State :=
  let s := boxed b
  { s with regions := [(0, { s.region 0 with gang := some 1, crs := { ring := some { (ringOf ringDesc) with nexp := 1 } }, engs := [(0, { routed := true })] })] }

theorem witness_MovementCompletes_boxes :
    [(1, 0), (2, 0), (3, 0), (4, 0), (1, 3), (2, 3), (3, 3), (4, 3)].all (fun k =>
      let b := elemBox k.1 k.2
      let s := boxed b
      let u := discardLoose s 0 0
      portReady s 0 0 && (u.pt 0 0).chains == [{ box := b }] && !(u.pt 0 0).asked && decide (b.pos < b.d.total) && b.d.kind == k.1 && b.d.dm == k.2 && b.d.sm == 0 &&
        fetches u b && (k.2 == 3 || copies u b)) = true ∧
    (let b : Box := { d := boxDesc 1 0 4, started := true }
     let s := packets b
     portReady s 0 0 = true ∧ b.pkt = none ∧ b.later = [] ∧ (s.pt 0 0).asked = false ∧ ({ b with pkt := some ([], false, none) } : Box).pkt = some ([], false, none) ∧
     b.d.total ≠ 0 ∧ dispatchBad s 0 b.d = false ∧ slotOpen s 0 b = true ∧ fetches s b = true ∧ countLate s 0 b = false ∧
     crsRing (packetLands s 0 b.d.me) 0 = crsRing s 0 ∧ nbits (2 ^ 40) 63 41 = 0 ∧ nbit (2 ^ 40) 40 = true ∧ nbits (2 ^ 40) 39 32 < (crsRing s 0).nexp ∧
     (((packetLands s 0 b.d.me).eng 0 b.d.me).slot (b.d.slot + b.pos / b.d.kgrp)).mask.contains 0 = false ∧ nbit 0 40 = false) ∧
    (let b : Box := { d := boxDesc 1 0 5, started := true }
     let s := packets b
     portReady s 0 0 = true ∧ b.d.total ≠ 0 ∧ slotOpen s 0 b = true ∧ fetches s b = true ∧ countLate s 0 b = false) := by decide +kernel

/-- mrdc, mwrc and mfen, in order and by matching, with SQ 1 and DLT 1. -/
theorem witness_MovementCompletes_ports :
    [0x42, 0x43, 0x45].all (fun f => [0x800, 0x900].all (fun m =>
      let l := [dat 0, dat 0x01000001, dat 9]
      let x := opc (f + m) (if m == 0x800 then { q := (List.range 3).zip (l.map (fun t => [t])) } else { issue := [{ tag := 7, slots := l.map some }] })
      let s := fab 33 x
      let u := portSettle s 0 1
      elemReady s 0 33 && elemReady u 0 33 && (u.site 0 33).act.fop == f && (u.site 0 33).reqs.isEmpty &&
        (match dataSet (u.site 0 33) with
         | some (z, tag, ts) => z.act == (u.site 0 33).act && (outTag u 0 z.act tag ts 0).isSome && (portChain z (ts.getD 1 {}).v).isSome
         | none => false))) = true := by decide +kernel

/-- A section header (R303). -/
def secHeader (typ link off len info : Nat) : List Byte := leBytes typ 4 ++ leBytes link 4 ++ leBytes off 8 ++ leBytes len 8 ++ leBytes 0 4 ++ leBytes info 4

/-- The smallest object: a manifest of one region whose trap is the one block, a grammar of one empty row, one symbol and its relocation. -/
def planBytes : List Byte :=
  leBytes 0x4F5445E7 4 ++ leBytes 0x010001 4 ++ leBytes 6 8 ++ leBytes 64 8 ++ leBytes 440 8 ++ leBytes 0 32 ++
  secHeader 1 0 256 64 0 ++ secHeader 2 0 320 16 0 ++ secHeader 3 0 336 48 0 ++ secHeader 10 0 384 24 1 ++ secHeader 11 0 408 8 0 ++ secHeader 12 3 416 24 0 ++
  leBytes 0x0A0001 4 ++ leBytes 1 4 ++ leBytes 0 56 ++ leBytes 0xB10C 16 ++ leBytes 1 48 ++
  (leBytes 0 4 ++ leBytes 0x010001 4 ++ leBytes 0 8 ++ leBytes 16 8) ++ leBytes 0 8 ++ (leBytes 24 8 ++ leBytes 0x100000000 8 ++ leBytes 0 8)

def placed (r : PlaceRes) : Bool :=
  match r with
  | .ok _ _ => true
  | .no _ _ => false

theorem witness_MovementCompletes_loadplan : let s := openCeil (asks 6 planBytes {})
    let q := reap s
    planBytes.length = 440 ∧ (headCmd s 1 6).isSome = true ∧ (planNo q 0 planBytes).isNone = true ∧ (q.session 1).plans.length < 256 ∧
    placed (placeAll q 1 (sectionsOf planBytes)) = true ∧ (∀ y ∈ s.sessions, (headCmd s y.1 4).any (·.begun) = false ∧ (s.session y.1).closing = false) ∧ (manifestOf (sectionsOf planBytes)).home = 0 ∧ nlaunch (sectionsOf planBytes) = 0 := by
  decide +kernel

/-- A Lodge core whose halt takes effect, and one that a message wakes. -/
theorem witness_HaltAndMailbox :
    let s : State := { cores := [(640, { phase := .ending .halt, run := { nextAddr := 64 } }), (641, { phase := .halted 32 })], inputs := { mailbox := [9] } }
    640 ≤ coreKey (.lodge 0) ∧ (s.core 640).phase = .ending .halt ∧ (s.core 640).outq = [] ∧ (s.core 640).post = [] ∧ s.inputs.mailbox = [9] ∧
    (s.core (640 + 9 % 8)).phase = .halted 32 ∧ (∀ a, (s.core 640).phase ≠ .halted a) := by
  refine ⟨by decide +kernel, by decide +kernel, by decide +kernel, by decide +kernel, by decide +kernel, by decide +kernel, ?_⟩
  intro a h
  cases h

/-! Single results, each from an example or a table of the manual. -/

/-- R350's examples; `shl` by #-1. -/
theorem test_shift_and_bits :
    shiftRight .i8 [0x80, 3] = 0xFFFFFFFFFFFFFFF0 ∧ clzOf .n32 [1] = 31 ∧ bitExtract .n64 [0x1234, 8, 4] = 2 ∧ shiftLeft .n64 [5, -1] = 0 := by
  decide +kernel

/-- The quotient and the remainder of the worked block divmod: 47 by 5, and −47 by 5 toward zero. -/
theorem test_divide :
    intOp .i64 Int.tdiv [47, 5] = 9 ∧ intOp .i64 Int.tmod [47, 5] = 2 ∧ intOp .i64 Int.tdiv [-47, 5] = -9 ∧ intOp .i64 (· - ·) [0, 9] = -9 := by
  decide +kernel

/-- The examples of R358. -/
theorem test_block_conversions :
    wrapTy .i32 (exactToInt false true 32 (decF32 0xC0200000)) = 0xFFFFFFFFFFFFFFFE ∧ wrapTy .i32 (exactToInt true true 32 (decF32 0x40200000)) = 2 ∧
    wrapTy .n32 (exactToInt true false 32 (decF32 0xBF800000)) = 0 ∧ wrapTy .i32 (exactToInt false true 32 (decF32 0x4F32D05E)) = 0x7FFFFFFF ∧
    encT8 (cvtqScale (-3)) false (decF32 0x3F400000) = 0x34 ∧ rneF32 (decT8 (cvtqScale (-3)) 0x34) = 0x3F400000 ∧
    encT8 (cvtqScale 0) true (decF32 0x453B8000) = 0x03 := by decide +kernel

/-- R279's worked encodings under S = 0: 1, −1, 0.25, 0.75, 3, 6, −96, 1024, 2^−11, 2^−12, 2.625's neighbour 2.6, 1.03125, 384, 2000 and −0.0001. -/
theorem test_taper :
    [0x3F800000, 0xBF800000, 0x3E800000, 0x3F400000, 0x40400000, 0x40C00000, 0xC2C00000, 0x44800000, 0x3A000000, 0x39800000, 0x40266666,
     0x3F840000, 0x43C00000, 0x44FA0000, 0xB8D1B717].map (fun b => encT8 0 false (decF32 b)) =
    [0x60, 0xE0, 0x40, 0x58, 0x78, 0x34, 0x8D, 0x03, 0x02, 0x01, 0x75, 0x60, 0x06, 0x80, 0x00] ∧
    encT8 0 true (decF32 0x44FA0000) = 0x03 ∧ encT8 (-4) false (decF32 0x3D800000) = 0x60 := by decide +kernel

/-- R275's example: the code 0x9C under S = −3 is −12.5, and −12 in .i8 under S = 0. -/
theorem test_scaled_integer :
    rneF32 (decLaneInt true 8 (-3) 0x9C) = 0xC1480000 ∧ encLaneInt true 8 0 false (decLaneInt true 8 (-3) 0x9C) = 0xF4 := by decide +kernel

/-- One element of opcode `fop` and type `ty`, whose input and output entries are `e`, on two values. -/
def compute (fop ty : Nat) (e : W16) (imm a b : Nat) : W32 :=
  computeV { word := BitVec.ofNat 128 (fop + ty * 4096), vct := [e] } imm [dat (BitVec.ofNat 32 a), dat (BitVec.ofNat 32 b)]

/-- The results that follow R394's rounding, as the manual lists them. -/
theorem test_elements :
    compute 0x01 2 2 0 0x4B800000 0x3F800000 = 0x4B800000 ∧ (compute 0x01 4 4 0 0x60 0x40).toNat % 256 = 0x64 ∧
    (compute 0x03 4 4 0 0x78 0x34).toNat % 256 = 0x18 ∧ (compute 0x01 5 5 0 127 1).toNat % 256 = 0x80 ∧
    (compute 0x01 5 0x1005 0 127 1).toNat % 256 = 0x7F ∧ (compute 0x0B 5 5 0 127 1).toNat % 256 = 0x7F ∧
    compute 0x15 2 2 1 0x42D40000 0 = 0x42540000 := by decide +kernel

/-- R171's layout seq 16, iter 16, layer 8, row 16, col 8: where its fields stand. -/
theorem test_tag_fields :
    let l : List TagField := [⟨16, true, false⟩, ⟨16, true, false⟩, ⟨8, false, false⟩, ⟨16, false, false⟩, ⟨8, false, true⟩]
    (List.range 5).map (fun f => getField l f 0x1234567890ABCDEF) = [0x1234, 0x5678, 0x90, 0xABCD, 0xEF] ∧
    setField l 3 0x1234567890ABCDEF 0x10001 = 0x12345678900001EF := by decide +kernel

/-- The worked walk of 0x0000_1234_5678_9ABC (R126): window 0x023 of die 1 at byte 0x5_9ABC, byte 0xABC of tile 89 of 4 KiB tiles. -/
theorem test_walk :
    let s : State := { onRegion {} { xroot := 0x04000001 } with access := (List.range 32).map (fun t => ((256 + t) * 64, ((0xFF : W64), (0xFFFFFFFFF000 : W64)))) }
    let s := ((s.storeMem (hbmAddr 0x04000020) [3, 0, 1, 4, 0, 0, 0, 0] false).storeMem (hbmAddr 0x04018D10) [3, 0, 2, 4, 0, 0, 0, 0] false).storeMem
      (hbmAddr 0x0402B3C0) [0x2D, 4, 0x23, 0x50, 0, 0, 0, 0] false
    walk s 0 0x0000123456789ABC = .leaf 0x5023042D false ∧ leafTgt 0x5023042D false 0x0000123456789ABC = .win 1 0x23 0x59ABC ∧
    0x59ABC / tileSize { tsz := 1 } = 89 ∧ 0x59ABC % tileSize { tsz := 1 } = 0xABC := by decide +kernel

/-- R256's wiring of BITVOTE's cell 2: planes 6 and 7 and two constants, under the table 0xE8, give i0 OR i1. -/
theorem test_trellis_cell :
    wiringBad 0 0x0800080100070006 = none ∧
    (cellOut { store := [(6, (0b0011, false)), (7, (0b0101, false))] } [] { sel := [6, 7, 0x801, 0x800, 0x800, 0x800], tab := 0xE8 }).1 = 0b0111 := by
  decide +kernel

/-- R333's example: 128 bytes, completing at site (5,3) on its W0 track, VC 2. -/
theorem test_completion_word :
    let d : Desc := { words := [0x04C65501] }
    d.kind = 1 ∧ nbits (d.word 0) 9 8 = 1 ∧ d.cmode = 1 ∧ d.csite = 3 * 32 + 5 ∧ d.cport = 3 ∧ d.ctrk = 0 ∧ d.cvc = 2 := by decide +kernel

end Sys2Proof.Tests
end

/-! The frame of a translation: what the walkers, a core's translation cache and the address checks may change of the station (R51, R127, R131
to R133). No block of a core is among it, so the instruction whose address is checked can still fire. -/

namespace Sys2Proof.Machine

/-- What a translation may change on the way from s to t: the regions, which hold the walk caches, the counts of misses and the withheld
translations; the logs of refusals; and of each core its translation cache alone. -/
def Translated (s t : State) : Prop :=
  t = { s with cores := t.cores, regions := t.regions, refusals := t.refusals, refLost := t.refLost } ∧
    ∀ k, t.core k = { s.core k with tcache := (t.core k).tcache }

namespace Translated

theorem refl (s : State) : Translated s s := ⟨rfl, fun _ => rfl⟩

theorem trans {s t u : State} (h : Translated s t) (h' : Translated t u) : Translated s u := by
  obtain ⟨hst, hcore⟩ := h
  obtain ⟨htu, hcore'⟩ := h'
  refine ⟨?_, fun k => ?_⟩
  · rw [htu, hst]
  · rw [hcore' k, hcore k]

/-- A region may change in any way. -/
theorem modRegion (s : State) (r : Nat) (f : Region → Region) : Translated s (s.modRegion r f) := ⟨rfl, fun _ => rfl⟩

/-- A core's translation cache may change. -/
theorem setTcache (s : State) (k : Nat) (c : List TEntry) : Translated s (s.setCore k { s.core k with tcache := c }) := by
  refine ⟨rfl, fun j => ?_⟩
  by_cases h : j = k
  · subst h
    rw [core_setCore_same]
  · rw [core_setCore_other s _ h]

theorem curKey_eq {s t : State} (h : Translated s t) : t.curKey = s.curKey := by
  rw [h.1]; rfl

/-- The acting core can fire after a translation exactly when it could before. -/
theorem canFire_eq {s t : State} (h : Translated s t) : canFire t = canFire s := by
  simp only [canFire, State.curCore, h.curKey_eq]
  rw [h.2]

end Translated

/- The walker. -/

theorem logRefusal_translated (s : State) (target mid a : Nat) (kind : AKind) : Translated s (logRefusal s target mid a kind) := by
  simp only [logRefusal]
  split <;> exact ⟨rfl, fun _ => rfl⟩

theorem logAt_translated (s : State) (ma : Nat) (kind : AKind) (mid : Nat) : Translated s (logAt s ma kind mid) := by
  unfold logAt
  split
  · exact logRefusal_translated _ _ _ _ _
  · exact .refl s

theorem noteWalk_translated (s : State) (r : Nat) (x : WalkTrace) : Translated s (noteWalk s r x) := by
  have hcache (t : State) (f : Region → Region) : Translated t (if x.used.isEmpty then t else t.modRegion r f) := by
    split
    · exact .refl t
    · exact .modRegion t r f
  unfold noteWalk
  split
  · exact (logAt_translated _ _ _ _).trans (hcache _ _)
  · exact hcache s _

theorem doWalk_translated (s : State) (r : Nat) (a : W64) : Translated s (doWalk s r a).1 := noteWalk_translated s r _

theorem unhold_translated (s : State) (r key : Nat) (a : W64) : Translated s (unhold s r key a) := by
  unfold unhold
  split
  · exact .modRegion _ _ _
  · exact .refl s

/-- Waiting for a withheld page changes no more than the walk that is made where none is withheld. -/
theorem walkOrHeld_translated (s : State) (r key : Nat) (a : W64) {walk : State → State × WalkRes} (hw : Translated s (walk s).1) :
    Translated s (walkOrHeld s r key a walk).1 := by
  unfold walkOrHeld
  split
  · split
    · exact .refl s
    · exact unhold_translated _ _ _ _
  · split
    · exact .refl s
    · split
      · exact .refl s
      · exact hw

/- A core's translation (R131) and the address checks (R368). -/

theorem coreLeaf_translated (s : State) (k r : Nat) (a : W64) : Translated s (coreLeaf s k r a).1 := by
  have hwalk : Translated s (walkOrHeld s r (2 * k) a (fun s => doWalk (countMiss s r) r a)).1 :=
    walkOrHeld_translated s r (2 * k) a ((Translated.modRegion s r _).trans (doWalk_translated _ _ _))
  simp only [coreLeaf]
  split
  · exact .refl s
  · split
    · exact .setTcache s k _
    · split
      · next hx =>
        rw [hx] at hwalk
        exact hwalk.trans (.setTcache _ k _)
      · exact hwalk

/-- The state in which a translation ends. -/
@[simp] def TrRes.state : TrRes → State
  | .ok s _ | .fault s _ _ | .withheld s _ => s

theorem lodgeTr_state (s : State) (kind : AKind) (a n : Nat) : (lodgeTr s kind a n).state = s := by
  simp only [lodgeTr]
  repeat' split
  all_goals rfl

/-- A translation walks for the first page, and for the second where the access runs into it (R138). -/
theorem translate_translated (s : State) (k : Nat) (kind : AKind) (a : W64) (n : Nat) : Translated s (translate s k kind a n).state := by
  simp only [translate]
  split
  · exact .refl s
  · cases keyRegion k with
    | none =>
      simp only [lodgeTr_state]
      exact .refl s
    | some r =>
      dsimp only
      split
      · split <;> exact .refl s
      · have hfirst := coreLeaf_translated s k r a
        generalize coreLeaf s k r a = x at hfirst ⊢
        obtain ⟨s₁, w⟩ := x
        cases w with
        | fault c => exact hfirst
        | pending => exact hfirst
        | wait => exact hfirst
        | leaf e l1 =>
          dsimp only at hfirst ⊢
          split; · exact hfirst -- the leaf lacks a right
          split; · exact hfirst -- the target does not reach so far
          split; · exact hfirst -- the access stays in its page
          split; · exact hfirst -- the access runs into the aperture
          have hsecond := hfirst.trans (coreLeaf_translated s₁ k r (a + BitVec.ofNat 64 (65536 - a.toNat % 65536)))
          generalize coreLeaf s₁ k r (a + BitVec.ofNat 64 (65536 - a.toNat % 65536)) = y at hsecond ⊢
          obtain ⟨s₂, w₂⟩ := y
          cases w₂ with
          | fault c => exact hsecond
          | pending => exact hsecond
          | wait => exact hsecond
          | leaf e₂ l2 =>
            dsimp only at hsecond ⊢
            split <;> exact hsecond

/-- The state in which the checks of an address end. -/
@[simp] def AddrRes.state : AddrRes → State
  | .ok s _ | .fault s _ _ | .withheld s _ => s

theorem addrReach_translated (s : State) (kind : AKind) (a : W64) (n : Nat) : Translated s (addrReach s kind a n).state := by
  have htr := translate_translated s s.curKey kind a n
  unfold addrReach
  split <;> next h => simpa [h] using htr

theorem addrCheck_translated (s : State) (kind : AKind) (poi : Bool) (a : W64) (n : Nat) :
    Translated s (addrCheck s kind poi a n).state := by
  unfold addrCheck
  split
  · exact .refl s
  · split
    · exact .refl s
    · exact addrReach_translated s kind a n

/-! The address checks of R368 one by one, and what is canonical (R119). -/

theorem addrCheck_poisoned (s : State) (kind : AKind) (a : W64) (n : Nat) : addrCheck s kind true a n = .fault s .poison 0 := rfl

theorem addrCheck_misaligned (s : State) (kind : AKind) {a : W64} {n : Nat} (h : a.toNat % n ≠ 0) :
    addrCheck s kind false a n = .fault s .align 0 := by
  simp [addrCheck, h]

theorem addrCheck_aligned (s : State) (kind : AKind) {a : W64} {n : Nat} (h : a.toNat % n = 0) :
    addrCheck s kind false a n = addrReach s kind a n := by
  simp [addrCheck, h]

theorem translate_noncanon (s : State) (k : Nat) (kind : AKind) {a : W64} {n : Nat} (h : canonical a n = false) :
    translate s k kind a n = .fault s .noncanon 0 := by
  simp [translate, h]

theorem addrReach_noncanon (s : State) (kind : AKind) {a : W64} {n : Nat} (h : canonical a n = false) :
    addrReach s kind a n = .fault s .noncanon 0 := by
  simp [addrReach, translate_noncanon s s.curKey kind h]

theorem unitTr_noncanon (s : State) (r u : Nat) (kind : AKind) {a : W64} {n : Nat} (h : canonical a n = false) :
    unitTr s r u kind a n = .fault s .noncanon 0 := by
  simp [unitTr, h]

/-- Bits 63:47 of an address are zero exactly in the lower half of the canonical addresses. -/
theorem topBits_false_iff (a : W64) : (∀ k < 17, a.getLsbD (47 + k) = false) ↔ a.toNat < 2 ^ 47 := by
  constructor
  · intro h
    refine Nat.lt_pow_two_of_testBit _ fun i hi => ?_
    rw [BitVec.testBit_toNat]
    by_cases hw : i < 64
    · simpa [Nat.add_sub_cancel' hi] using h (i - 47) (by omega)
    · exact BitVec.getLsbD_of_ge _ _ (by omega)
  · intro h k _
    rw [← BitVec.testBit_toNat]
    exact Nat.testBit_lt_two_pow (h.trans_le (Nat.pow_le_pow_right (by decide) (by omega)))

/-- Bits 63:47 of an address are ones exactly in the upper half: those of its complement are zero. -/
theorem topBits_true_iff (a : W64) : (∀ k < 17, a.getLsbD (47 + k) = true) ↔ 2 ^ 64 - 2 ^ 47 ≤ a.toNat := by
  have hnot : (∀ k < 17, (~~~a).getLsbD (47 + k) = false) ↔ ∀ k < 17, a.getLsbD (47 + k) = true :=
    forall₂_congr fun k hk => by simp [show 47 + k < 64 by omega]
  rw [← hnot, topBits_false_iff, BitVec.toNat_not]
  omega

/-- Bits 63:47 of an address are not all equal exactly between the two halves. -/
theorem topBits_differ_iff (a : W64) :
    (∃ k < 17, a.getLsbD (47 + k) ≠ a.getLsbD 47) ↔ 2 ^ 47 ≤ a.toNat ∧ a.toNat < 2 ^ 64 - 2 ^ 47 := by
  have hall : (∀ k < 17, a.getLsbD (47 + k) = a.getLsbD 47) ↔ a.toNat < 2 ^ 47 ∨ 2 ^ 64 - 2 ^ 47 ≤ a.toNat := by
    rw [← topBits_false_iff, ← topBits_true_iff]
    constructor
    · intro h
      cases hb : a.getLsbD 47
      · exact .inl fun k hk => (h k hk).trans hb
      · exact .inr fun k hk => (h k hk).trans hb
    · rintro (h | h) k hk
      · exact (h k hk).trans (h 0 (by decide)).symm
      · exact (h k hk).trans (h 0 (by decide)).symm
  rw [← not_iff_not]
  push Not
  rw [hall]
  omega

theorem getLsbD_63_eq (a : W64) : a.getLsbD 63 = decide (2 ^ 63 ≤ a.toNat) := BitVec.msb_eq_decide a

/-- R119's three ways of not being canonical: bits 63:47 unequal, the last byte past the lower half, the last byte past the upper half. -/
theorem canonical_eq_false_iff (a : W64) {n : Nat} (hn : 0 < n) :
    canonical a n = false ↔
      (∃ k < 17, a.getLsbD (47 + k) ≠ a.getLsbD 47) ∨ (a.getLsbD 63 = false ∧ 0x00007FFFFFFFFFFF < a.toNat + n - 1) ∨
        (a.getLsbD 63 = true ∧ 0xFFFFFFFFFFFFFFFF < a.toNat + n - 1) := by
  rw [topBits_differ_iff, getLsbD_63_eq, decide_eq_false_iff_not, decide_eq_true_iff]
  simp only [canonical]
  split
  · rw [decide_eq_false_iff_not]
    omega
  · rw [Bool.and_eq_false_iff, decide_eq_false_iff_not, decide_eq_false_iff_not]
    omega

/-! Instructions whose address is checked when they fire: a check that fails is their exact fault (R365, R368). -/

/-- What a failing check comes to, in the state that the translation has left. -/
theorem withAddr_faulted {s s₁ : State} {kind : AKind} {poi : Bool} {a : W64} {n : Nat} {c : FCode} {cause : Nat} (hc : canFire s = true)
    (h : addrCheck s kind poi a n = .fault s₁ c cause) (t : Nat) (oa ob : Option Operand) (k : State → Tgt → State) :
    Faulted s₁ (withAddr s t kind poi a n oa ob k) t c cause := by
  have htr : Translated s s₁ := by simpa [h] using addrCheck_translated s kind poi a n
  rw [withAddr, h]
  exact fireFault_faulted (htr.canFire_eq.trans hc) t 1 c cause oa ob

/-- Wherever the instruction of this step is ready and its operands pass `pre`, the checks of its address decide what it does. -/
def ChecksAddress (step : State → State) (p : Option Pred) (srcs : List Src) (kind : AKind) (n : Nat) (poi : List Operand → Bool)
    (addr : List Operand → W64) (pre : List Operand → Bool) : Prop :=
  ∀ s t vs, Ready s p srcs t vs → pre vs = true → ∃ oa ob k, step s = withAddr s t kind (poi vs) (addr vs) n oa ob k

theorem addressFaults_of_checksAddress {i : Instr} {step : State → State} {p : Option Pred} {srcs : List Src} {kind : AKind} {n : Nat}
    {poi : List Operand → Bool} {addr : List Operand → W64} {pre : List Operand → Bool} (he : ∀ s, exec i s = .next (step s))
    (h : ChecksAddress step p srcs kind n poi addr pre) : AddressFaults i p srcs kind n poi addr pre := by
  intro s t vs s₁ c cause hr hpre hf
  obtain ⟨oa, ob, k, hk⟩ := h s t vs hr hpre
  exact ⟨step s, he s, hk ▸ withAddr_faulted hr.1 hf t oa ob k⟩

theorem stepSt_checksAddress (ty : Ty) (a b c : Src) (p : Option Pred) :
    ChecksAddress (stepSt ty a b c p) p [a, b, c] .write (tyBytes ty) (fun vs => opPoi vs 0 || opPoi vs 1)
      (fun vs => opVal vs 0 + opVal vs 1) (fun _ => true) := by
  intro s t vs hr _
  simp only [stepSt, beginFire_ready hr]
  exact ⟨_, _, _, rfl⟩

theorem stepStp_checksAddress (ty : Ty) (a b c : Src) (p : Option Pred) :
    ChecksAddress (stepStp ty a b c p) p [a, b, c] .pWrite 8 (fun vs => opPoi vs 0 || opPoi vs 1)
      (fun vs => opVal vs 0 + opVal vs 1) (fun _ => true) := by
  intro s t vs hr _
  simp only [stepStp, beginFire_ready hr]
  exact ⟨_, _, _, rfl⟩

theorem stepRel_checksAddress (ty : Ty) (a b : Src) (sc : Scope) (p : Option Pred) :
    ChecksAddress (stepRel ty a b sc p) p [a, b] .write 8 (fun vs => opPoi vs 0) (fun vs => opVal vs 0) (fun _ => true) := by
  intro s t vs hr _
  simp only [stepRel, beginFire_ready hr]
  exact ⟨_, _, _, rfl⟩

theorem stepCrel_checksAddress (a b : Src) (p : Option Pred) :
    ChecksAddress (stepCrel a b p) p [a, b] .cread 1 anyPoison (fun vs => opVal vs 0 + opVal vs 1) (fun _ => true) := by
  intro s t vs hr _
  simp only [stepCrel, beginFire_ready hr]
  exact ⟨_, _, _, rfl⟩

theorem prefixBody_checksAddress (fn : Nat) (d : Fin 64) (a : Src) (p : Option Pred) :
    ChecksAddress (prefixBody fn d a p) p [a] .atomic 8 (fun vs => opPoi vs 0) (fun vs => opVal vs 0) (fun _ => true) := by
  intro s t vs hr _
  simp only [prefixBody, beginFire_ready hr]
  exact ⟨_, _, _, rfl⟩

/-- A chained load checks its chain fields before its address (R151, R374). -/
theorem stepLdc_checksAddress (ty : Ty) (d : Fin 64) (a c : Src) (k : Sck) (p : Option Pred) :
    ChecksAddress (stepLdc ty d a c k p) p [a, c] .chRead (tyBytes ty) (fun vs => opPoi vs 0) (fun vs => opVal vs 0)
      (fun vs => !opPoi vs 1 && !chainBad (opVal vs 1) k) := by
  intro s t vs hr hpre
  obtain ⟨hpoi, hchain⟩ : opPoi vs 1 = false ∧ chainBad (opVal vs 1) k = false := by simpa using hpre
  simp only [stepLdc, beginFire_ready hr, hpoi, hchain, Bool.false_eq_true, if_false]
  exact ⟨_, _, _, rfl⟩

/-- So does a chained store. -/
theorem stepStc_checksAddress (ty : Ty) (a b c : Src) (k : Sck) (p : Option Pred) :
    ChecksAddress (stepStc ty a b c k p) p [a, b, c] .chWrite (tyBytes ty) (fun vs => opPoi vs 0) (fun vs => opVal vs 0)
      (fun vs => !opPoi vs 2 && !chainBad (opVal vs 2) k) := by
  intro s t vs hr hpre
  obtain ⟨hpoi, hchain⟩ : opPoi vs 2 = false ∧ chainBad (opVal vs 2) k = false := by simpa using hpre
  simp only [stepStc, beginFire_ready hr, hpoi, hchain, Bool.false_eq_true, if_false]
  exact ⟨_, _, _, rfl⟩

/-- An atomic checks its data operand before its address (R376). -/
theorem atomicBody_checksAddress (fn : Nat) (ty : Ty) (d : Fin 64) (a b : Src) (p : Option Pred) :
    ChecksAddress (atomicBody fn ty d a b p) p [a, b] .atomic (tyBytes ty) (fun vs => opPoi vs 0) (fun vs => opVal vs 0)
      (fun vs => !opPoi vs 1) := by
  intro s t vs hr hpre
  have hpoi : opPoi vs 1 = false := by simpa using hpre
  simp only [atomicBody, beginFire_ready hr, hpoi, Bool.false_eq_true, if_false]
  exact ⟨_, _, _, rfl⟩

theorem stepAcas_checksAddress (ty : Ty) (d : Fin 64) (a b c : Src) (p : Option Pred) :
    ChecksAddress (stepAcas ty d a b c p) p [a, b, c] .atomic (tyBytes ty) (fun vs => opPoi vs 0) (fun vs => opVal vs 0)
      (fun vs => !opPoi vs 1 && !opPoi vs 2) := by
  intro s t vs hr hpre
  obtain ⟨hb, hc⟩ : opPoi vs 1 = false ∧ opPoi vs 2 = false := by simpa using hpre
  simp only [stepAcas, beginFire_ready hr, hb, hc, Bool.or_false, Bool.false_eq_true, if_false]
  exact ⟨_, _, _, rfl⟩

/-- Settles O27: each check by its own lemma, and each instruction because the checks of its address decide what it does. -/
theorem addressChecks : Obligations.AddressChecks := by
  unfold Obligations.AddressChecks
  refine ⟨fun s kind a n => ⟨addrCheck_poisoned s kind a n, addrCheck_misaligned s kind, fun halign hcan => ?_,
    fun r u => unitTr_noncanon s r u kind, canonical_eq_false_iff a⟩, fun ty g a b c sc k p => ⟨?_, ?_, ?_, ?_, ?_, ?_, ?_, ?_, ?_⟩⟩
  · rw [addrCheck_aligned s kind halign, addrReach_noncanon s kind hcan]
  · exact addressFaults_of_checksAddress (fun _ => rfl) (stepSt_checksAddress ty a b c p)
  · exact addressFaults_of_checksAddress (fun _ => rfl) (stepStp_checksAddress ty a b c p)
  · exact addressFaults_of_checksAddress (fun _ => rfl) (stepRel_checksAddress ty a b sc p)
  · exact addressFaults_of_checksAddress (fun _ => rfl) (stepCrel_checksAddress a b p)
  · exact addressFaults_of_checksAddress (fun _ => rfl) (stepLdc_checksAddress ty g a c k p)
  · exact addressFaults_of_checksAddress (fun _ => rfl) (stepStc_checksAddress ty a b c k p)
  · exact addressFaults_of_checksAddress (fun _ => rfl) (atomicBody_checksAddress 0 ty g a b p)
  · exact addressFaults_of_checksAddress (fun _ => rfl) (stepAcas_checksAddress ty g a b c p)
  · exact addressFaults_of_checksAddress (fun _ => rfl) (prefixBody_checksAddress 8 g a p)

end Sys2Proof.Machine

/-! Chains at their home: what the Turnstile makes of an access that comes, of one that has been performed, of the entries it holds, and of a chain
that has waited GAPLIM (R151 to R155). -/

namespace Sys2Proof.Machine

/- A chain's own state: which access may follow, and what its performance leaves (R152). -/

theorem eligible_iff (c : ChainSt) {a : Access} {x : Chain4} (hx : a.chain = some x) :
    eligible c a = true ↔ (x.pd = c.l ∧ (c.sl = x.sq ∨ c.sl = 0xFFFFFF)) ∨ (x.pd = 0xFFFFFF ∧ c.sl = x.sq) := by
  simp [eligible, chainOf, hx]

theorem chainAdvance_of_successor (c : ChainSt) {a : Access} {x : Chain4} (hx : a.chain = some x) (hsc : x.sc ≠ 0) :
    chainAdvance c a = { c with l := x.sq, sl := x.sc } := by
  simp [chainAdvance, chainOf, hx, hsc]

theorem chainAdvance_of_last (c : ChainSt) {a : Access} {x : Chain4} (hx : a.chain = some x) (hsc : x.sc = 0) :
    chainAdvance c a = { c with l := 0, sl := 0xFFFFFF } := by
  simp [chainAdvance, chainOf, hx, hsc]

theorem mayForward_iff (c : ChainSt) : mayForward c = true ↔ c.flying = false ∧ stuck c = false := by
  simp [mayForward]

/-- An access goes on at once exactly when it is none of those that must wait. -/
theorem goesOn_eq_false_iff (c : ChainSt) (a : Access) :
    (eligible c a && mayForward c) = false ↔ eligible c a = false ∨ c.flying = true ∨ stuck c = true := by
  simp only [mayForward, Bool.and_eq_false_iff, Bool.not_eq_false']

/- An access comes to its chain. -/

section Arrive

variable {s : State} {key : Nat} {a : Access} {c : ChainSt} (hc : fgetD s.chains key {} = c)
include hc

theorem chainArrive_forwards (he : eligible c a = true) (hm : mayForward c = true) (hn : nullLink a = false) :
    chainArrive s key a = { s with chains := fset s.chains key { c with flying := true } }.send (.chained a) := by
  simp [chainArrive, hc, he, hm, hn]

theorem chainArrive_nullLink (he : eligible c a = true) (hm : mayForward c = true) (hn : nullLink a = true) :
    chainArrive s key a =
      chainPump (answer { s with chains := fset s.chains key (chainAdvance c a) } a [] false) key (c.held.length + 1) := by
  simp [chainArrive, hc, he, hm, hn]

theorem chainArrive_holds (hw : (eligible c a && mayForward c) = false) (hroom : heldAt s (chainHome s key) < 256) :
    chainArrive s key a = { s with chains := fset s.chains key { c with held := c.held ++ [{ a with since := s.ns }] } } := by
  simp [chainArrive, hc, hw, hroom]

theorem chainArrive_full (hw : (eligible c a && mayForward c) = false) (hfull : 256 ≤ heldAt s (chainHome s key)) :
    chainArrive s key a = refuse s a .tsfull 0 := by
  simp [chainArrive, hc, hw, Nat.not_lt.mpr hfull]

end Arrive

/-- CHAIN_ARRIVAL of an access that its target's table permits. -/
theorem stepChainArrival_permitted {s u : State} {k : Nat} {a b : Access} (hmsg : s.msg k = some (.chain a))
    (hpath : pathUp s (a.mid / 8192) (chainDie s (chainKey a.gang (chainOf a).ch)) = true) (hcheck : chainCheck s a = (some b, u)) :
    stepChainArrival k s = chainArrive (u.drop k) (chainKey a.gang (chainOf a).ch) b := by
  simp [stepChainArrival, hmsg, hpath, hcheck]

/-- CHAIN_ARRIVAL of an access that its target's table refuses. -/
theorem stepChainArrival_refused {s u : State} {k : Nat} {a : Access} (hmsg : s.msg k = some (.chain a))
    (hpath : pathUp s (a.mid / 8192) (chainDie s (chainKey a.gang (chainOf a).ch)) = true) (hcheck : chainCheck s a = (none, u)) :
    let key := chainKey a.gang (chainOf a).ch
    stepChainArrival k s = refuse (chainRefused (u.drop k) key (fgetD s.chains key {}) a) a .access 0 := by
  simp [stepChainArrival, hmsg, hpath, hcheck]

/- A forwarded access is performed. -/

theorem chainAt_hbm (s : State) {a : Access} {p : Nat} (h : a.tgt = .hbm p) : chainAt s a = (.at_ s (hbmAddr p), false) := by
  simp [chainAt, h]

theorem chainAt_tile {s : State} {a : Access} {d x off n ma : Nat} (h : a.tgt = .win d x off)
    (hres : windowRes d (s.win (d * 4096 + x)) off (a.kind == .chWrite) false = .tile n ma) :
    chainAt s a = (.at_ (if a.kind == .chWrite then dirtyTile s (d * 4096 + x) n else s) ma, false) := by
  simp [chainAt, h, hres]

/-- The chain after its access under way has been performed. -/
def chainDone (s : State) (key : Nat) (c : ChainSt) (a : Access) : State :=
  { s with chains := fset s.chains key { chainAdvance c a with flying := false } }

section Performed

variable {s v : State} {k ma : Nat} {a : Access} (hmsg : s.msg k = some (.chained a)) (hat : chainAt s a = (.at_ v ma, a.back))
  (hpath : pathUp s (chainDie s (chainKey a.gang (chainOf a).ch)) (tgtDie a.tgt) = true)
include hmsg hat hpath

/-- CHAIN_PERFORMED of a store. -/
theorem stepChainPerformed_write (hk : a.kind = .chWrite) :
    let key := chainKey a.gang (chainOf a).ch
    let c := fgetD s.chains key {}
    stepChainPerformed k s =
      chainPump (answer (chainDone ((v.drop k).storeMem ma a.data a.poi) key c a) a [] false) key (c.held.length + 1) := by
  simp [stepChainPerformed, chainDone, hmsg, hat, hpath, hk]

/-- CHAIN_PERFORMED of a load. -/
theorem stepChainPerformed_read (hk : a.kind ≠ .chWrite) :
    let key := chainKey a.gang (chainOf a).ch
    let c := fgetD s.chains key {}
    let got := (v.drop k).loadMem ma a.n
    stepChainPerformed k s = chainPump (answer (chainDone (v.drop k) key c a) a got.1 got.2) key (c.held.length + 1) := by
  simp [stepChainPerformed, chainDone, hmsg, hat, hpath, hk]

end Performed

/- The held entries follow. -/

section Pump

variable {s : State} {key : Nat} {c : ChainSt} (hc : fgetD s.chains key {} = c) (hm : mayForward c = true) (n : Nat)
include hc hm

theorem chainPump_none (h : c.held.find? (eligible c) = none) : chainPump s key (n + 1) = s := by
  simp [chainPump, hc, hm, h]

theorem chainPump_forwards {a : Access} (h : c.held.find? (eligible c) = some a) (hn : nullLink a = false) :
    chainPump s key (n + 1) =
      { s with chains := fset s.chains key { c with held := c.held.erase a, flying := true } }.send (.chained a) := by
  simp [chainPump, hc, hm, h, hn]

theorem chainPump_nullLink {a : Access} (h : c.held.find? (eligible c) = some a) (hn : nullLink a = true) :
    chainPump s key (n + 1) =
      chainPump (answer { s with chains := fset s.chains key (chainAdvance { c with held := c.held.erase a } a) } a [] false) key n := by
  simp [chainPump, hc, hm, h, hn]

end Pump

/- F_GAP: every held entry is told, and the chain closes (R153). -/

/-- A held operation of a core is told F_GAP by a message to that core, whether or not it is the first. -/
theorem gapOne_op (p : State × Option Nat) {e : Access} {core i : Nat} {ba : W64} (h : e.who = .op core i ba) :
    ∃ f : FaultRec, f.code = FCode.gap.num ∧ gapOne p e = (p.1.send (.fault core f none), none) := by
  obtain ⟨s, aux⟩ := p
  cases aux with
  | some x =>
    exact ⟨{ postRecord core FCode.gap.num 0 i e.va ba 0 with aux := BitVec.ofNat 32 x }, rfl, by simp [gapOne, h]⟩
  | none => exact ⟨postRecord core FCode.gap.num 0 i e.va ba 0, rfl, by simp [gapOne, h, refuse, postFault]⟩

/-- The messages tell every held operation of a core of F_GAP. -/
def TellsGap (held : List Access) (ms : List NetMsg) : Prop :=
  ∀ b ∈ held, ∀ core i ba, b.who = .op core i ba → ∃ f, NetMsg.fault core f none ∈ ms ∧ f.code = FCode.gap.num

/-- Telling the held entries changes nothing but the messages on their way, and leaves none out. -/
theorem foldl_gapOne (held : List Access) (hops : ∀ b ∈ held, ∃ core i ba, b.who = .op core i ba) (p : State × Option Nat) :
    ∃ ms, (held.foldl gapOne p).1 = { p.1 with net := p.1.net ++ ms } ∧ TellsGap held ms := by
  induction held generalizing p with
  | nil => exact ⟨[], by simp, by simp [TellsGap]⟩
  | cons e held ih =>
    obtain ⟨⟨core, i, ba, he⟩, hrest⟩ := List.forall_mem_cons.mp hops
    obtain ⟨f, hf, hone⟩ := gapOne_op p he
    obtain ⟨ms, hst, hms⟩ := ih hrest (gapOne p e)
    refine ⟨.fault core f none :: ms, ?_, fun b hb core' i' ba' hw => ?_⟩
    · rw [List.foldl_cons, hst, hone]
      simp [State.send]
    · rcases List.mem_cons.mp hb with rfl | hb
      · obtain ⟨rfl, -, -⟩ : core = core' ∧ i = i' ∧ ba = ba' := by simpa [he] using hw
        exact ⟨f, List.mem_cons_self, hf⟩
      · obtain ⟨g, hg, hcode⟩ := hms b hb core' i' ba' hw
        exact ⟨g, List.mem_cons_of_mem _ hg, hcode⟩

/-- The station once a chain has closed and the gap is counted, before its held entries are told. -/
def closeChain (s : State) (key : Nat) : State :=
  { s with
    chains := match gapClosed (fgetD s.chains key {}) with
      | some c => fset s.chains key c
      | none => ferase s.chains key
    gaps := s.gaps.set (chainDie s key) ((s.gaps.getD (chainDie s key) 0 + 1) % 65536) }

/-- What is left of a closed chain is what was under way and refused. -/
theorem closeChain_chain {s : State} (key : Nat) (hr : frising s.chains = true) :
    fget (closeChain s key).chains key = gapClosed (fgetD s.chains key {}) := by
  rw [closeChain]
  cases gapClosed (fgetD s.chains key {}) with
  | some c => exact fget_fset_same _ _ _
  | none => exact fget_ferase_same _ _ hr

/-- GAP_TIMEOUT of a chain whose oldest held entry has waited GAPLIM, its timers running. -/
theorem stepGapTimeout_due {s : State} {key : Nat} {a : Access} {rest : List Access} (hheld : (fgetD s.chains key {}).held = a :: rest)
    (hpre : (fgetD s.gangs (key / 256) {}).pre = none) (hdue : a.since + s.gapLim.getD (chainDie s key) 50 * 1000 ≤ s.ns) :
    stepGapTimeout key s =
      ((a :: rest).foldl gapOne (closeChain s key, some (key % 256 * 2 ^ 24 + (fgetD s.chains key {}).l))).1 := by
  have hgo : ¬((fgetD s.gangs (key / 256) {}).pre.isSome || decide (s.ns < a.since + s.gapLim.getD (chainDie s key) 50 * 1000)) = true := by
    rw [hpre]
    simpa using hdue
  simp only [stepGapTimeout, hheld, List.head?_cons]
  rw [if_neg hgo]
  rfl

/-- F_GAP counts the gap, closes the chain and tells every held operation of a core; memory stays. -/
theorem stepGapTimeout_closes {s : State} {key : Nat} {a : Access} {rest : List Access} (hheld : (fgetD s.chains key {}).held = a :: rest)
    (hpre : (fgetD s.gangs (key / 256) {}).pre = none) (hdue : a.since + s.gapLim.getD (chainDie s key) 50 * 1000 ≤ s.ns)
    (hr : frising s.chains = true) (hops : ∀ b ∈ a :: rest, ∃ core i ba, b.who = .op core i ba) :
    let t := stepGapTimeout key s
    fget t.chains key = gapClosed (fgetD s.chains key {}) ∧ t.mem = s.mem ∧
      t.gaps = s.gaps.set (chainDie s key) ((s.gaps.getD (chainDie s key) 0 + 1) % 65536) ∧ TellsGap (a :: rest) t.net := by
  obtain ⟨ms, htold, hms⟩ := foldl_gapOne (a :: rest) hops (closeChain s key, some (key % 256 * 2 ^ 24 + (fgetD s.chains key {}).l))
  rw [stepGapTimeout_due hheld hpre hdue, htold]
  refine ⟨closeChain_chain key hr, rfl, rfl, fun b hb core i ba hw => ?_⟩
  obtain ⟨f, hf, hcode⟩ := hms b hb core i ba hw
  exact ⟨f, List.mem_append_right _ hf, hcode⟩

/-- Settles O45: each clause by the lemma of the step that it speaks of; a closed chain by induction on the entries held. -/
theorem turnstileRows : Obligations.TurnstileRows := by
  unfold Obligations.TurnstileRows
  refine ⟨⟨fun s u k a hmsg hpath => ⟨fun b hc => ?_, fun hc => ?_⟩, fun s key a => ⟨fun he hfly hst => ?_, fun hw => ?_⟩,
      fun s v k ma a hmsg hat hpath => ⟨fun hk => ?_, fun hk => ?_⟩,
      fun s a => ⟨fun p => chainAt_hbm s, fun d x off n ma ht hres => ⟨fun hk => ?_, fun hk => ?_⟩⟩,
      fun s key a rest hheld hpre hdue hr hops => ?_⟩,
    fun c a x hx => ⟨eligible_iff c hx, chainAdvance_of_successor c hx, chainAdvance_of_last c hx⟩, rfl, rfl,
    fun s key n hfly hst => ?_⟩
  · exact congrArg Host.Outcome.next (stepChainArrival_permitted hmsg hpath hc)
  · exact congrArg Host.Outcome.next (stepChainArrival_refused hmsg hpath hc)
  · have hm := (mayForward_iff _).mpr ⟨hfly, hst⟩
    exact ⟨chainArrive_forwards rfl he hm, chainArrive_nullLink rfl he hm⟩
  · have hwait := (goesOn_eq_false_iff _ _).mpr hw
    exact ⟨chainArrive_holds rfl hwait, chainArrive_full rfl hwait⟩
  · exact congrArg Host.Outcome.next (stepChainPerformed_write hmsg hat hpath hk)
  · exact congrArg Host.Outcome.next (stepChainPerformed_read hmsg hat hpath hk)
  · rw [chainAt_tile ht hres, if_pos (by simp [hk])]
  · rw [chainAt_tile ht hres, if_neg (by simp [hk])]
  · exact ⟨_, rfl, stepGapTimeout_closes hheld hpre hdue hr hops⟩
  · have hm := (mayForward_iff _).mpr ⟨hfly, hst⟩
    exact ⟨chainPump_none rfl hm n, fun a h => ⟨chainPump_forwards rfl hm n h, chainPump_nullLink rfl hm n h⟩⟩

end Sys2Proof.Machine

/-! Words: what the decoder requires of a word, what it refuses in the reserved bits, and the words of the formats (R322 to R326). -/

namespace Sys2Proof.Machine

/-- The checks that a word passes which is decoded (R324), all but the last one. -/
def Passes (c : DecCtx) (f : Fields) (r : OpRow) : Prop :=
  rowOf f = some r ∧ illop c.kind f r = false ∧ privOp c.kind f = false ∧ dstBad c f r = none ∧ srcsBad c f r = false

theorem decodeFields_passes {c : DecCtx} {f : Fields} {i : Instr} (h : decodeFields c f = .ok i) :
    ∃ r, Passes c f r ∧ rsvdBad c f r = false := by
  unfold decodeFields at h
  split at h; · cases h
  rename_i r hr
  split at h; · cases h
  split at h; · cases h
  split at h; · cases h
  split at h; · cases h
  split at h; · cases h
  rename_i hill hpriv _ hdst hsrcs hrsvd
  exact ⟨r, ⟨hr, by simpa using hill, by simpa using hpriv, hdst, by simpa using hsrcs⟩, by simpa using hrsvd⟩

/-- A word that fails in its reserved bits alone is F_RSVD (R324). -/
theorem decodeFields_rsvd {c : DecCtx} {f : Fields} {r : OpRow} (h : Passes c f r) (hbad : rsvdBad c f r = true) :
    decodeFields c f = .error .rsvd := by
  obtain ⟨hrow, hill, hpriv, hdst, hsrcs⟩ := h
  simp [decodeFields, hrow, hill, hpriv, hdst, hsrcs, hbad]

/-- A word that is decoded has a row. -/
theorem decodeAt_row {c : DecCtx} {w : W64} {i : Instr} (h : decodeAt c w = .ok i) : ∃ r, opRow (opByte w) (fnByte w) = some r := by
  obtain ⟨r, hp, -⟩ := decodeFields_passes h
  exact ⟨r, hp.1⟩

/-- The opcodes whose FN is a code of an integer type, 0x00 to 0x07 (R326). -/
def intOpcode (op : Nat) : Prop := 1 ≤ op ∧ op ≤ 12 ∨ 0x10 ≤ op ∧ op ≤ 0x1A ∨ 0x20 ≤ op ∧ op ≤ 0x23 ∨ op = 0x2B

theorem opRow_intOpcode {op fn : Nat} {r : OpRow} (hop : intOpcode op) (h : opRow op fn = some r) : fn < 8 := by
  by_contra hfn
  have hint : ¬ fn ≤ 7 := by omega
  rcases hop with ⟨_, _⟩ | ⟨_, _⟩ | ⟨_, _⟩ | rfl
  · interval_cases op <;> simp [opRow, hint] at h
  · interval_cases op <;> simp [opRow, hint] at h
  · interval_cases op <;> simp [opRow, hint] at h
  · simp [opRow, hint] at h

theorem decodeAt_intOpcode {c : DecCtx} {w : W64} {i : Instr} (h : decodeAt c w = .ok i) (hop : intOpcode (opByte w)) : fnByte w < 8 := by
  obtain ⟨r, hr⟩ := decodeAt_row h
  exact opRow_intOpcode hop hr

/-- sel takes a code of any type (R351). -/
theorem decodeAt_sel {c : DecCtx} {w : W64} {i : Instr} (h : decodeAt c w = .ok i) (hop : opByte w = 0x24) : fnByte w < 11 := by
  obtain ⟨r, hr⟩ := decodeAt_row h
  rw [hop] at hr
  by_contra hfn
  simp [opRow, show ¬ fnByte w ≤ 10 by omega] at hr

/-- lea has FN 0x07 (R354). -/
theorem decodeAt_lea {c : DecCtx} {w : W64} {i : Instr} (h : decodeAt c w = .ok i) (hop : opByte w = 0x2C) : fnByte w = 7 := by
  obtain ⟨r, hr⟩ := decodeAt_row h
  rw [hop] at hr
  by_contra hfn
  simp [opRow, hfn] at hr

/- The low bits of a word replaced. -/

/-- The word w with its low k bits replaced by l: the words of the statements about reserved bits, whose masks are the ones of k bits. -/
def putLow {k : Nat} (w : W64) (l : BitVec k) : W64 := (w &&& ~~~(BitVec.allOnes k).setWidth 64) ||| l.setWidth 64

theorem getLsbD_putLow {k : Nat} (w : W64) (l : BitVec k) {i : Nat} (hi : i < 64) :
    (putLow w l).getLsbD i = if i < k then l.getLsbD i else w.getLsbD i := by
  by_cases h : i < k
  · simp [putLow, hi, h]
  · simp [putLow, hi, h, BitVec.getLsbD_of_ge l i (by omega)]

/-- A byte above the bits replaced stays. -/
theorem extractLsb'_putLow_above {k : Nat} (w : W64) (l : BitVec k) {lo : Nat} (hlo : k ≤ lo) (h64 : lo + 8 ≤ 64) :
    (putLow w l).extractLsb' lo 8 = w.extractLsb' lo 8 := by
  refine BitVec.eq_of_getLsbD_eq fun i hi => ?_
  simp only [BitVec.getLsbD_extractLsb', getLsbD_putLow w l (show lo + i < 64 by omega), if_neg (show ¬ lo + i < k by omega)]

/-- A byte among them is that of l. -/
theorem extractLsb'_putLow_below {k : Nat} (w : W64) (l : BitVec k) {lo : Nat} (hlo : lo + 8 ≤ k) (h64 : lo + 8 ≤ 64) :
    (putLow w l).extractLsb' lo 8 = l.extractLsb' lo 8 := by
  refine BitVec.eq_of_getLsbD_eq fun i hi => ?_
  simp only [BitVec.getLsbD_extractLsb', getLsbD_putLow w l (show lo + i < 64 by omega), if_pos (show lo + i < k by omega)]

/-- The fields of a word with other low bits, a whole number of bytes of them. -/
theorem fieldsOf_putLow8 (w : W64) (x : BitVec 8) : fieldsOf (putLow w x) = { fieldsOf w with x := x } := by
  simp [fieldsOf, extractLsb'_putLow_above, extractLsb'_putLow_below]

theorem fieldsOf_putLow16 (w : W64) (l : BitVec 16) :
    fieldsOf (putLow w l) = { fieldsOf w with p := l.extractLsb' 8 8, x := l.extractLsb' 0 8 } := by
  simp [fieldsOf, extractLsb'_putLow_above, extractLsb'_putLow_below]

theorem fieldsOf_putLow24 (w : W64) (l : BitVec 24) :
    fieldsOf (putLow w l) = { fieldsOf w with c := l.extractLsb' 16 8, p := l.extractLsb' 8 8, x := l.extractLsb' 0 8 } := by
  simp [fieldsOf, extractLsb'_putLow_above, extractLsb'_putLow_below]

/- Reserved low bits, by format. -/

/-- X is no matter of the checks before the last, outside format J. -/
theorem Passes.withX {c : DecCtx} {f : Fields} {r : OpRow} (h : Passes c f r) (hfmt : r.fmt ≠ .J) (x : Byte) : Passes c { f with x := x } r := by
  obtain ⟨hrow, hill, hpriv, hdst, hsrcs⟩ := h
  refine ⟨hrow, hill, hpriv, hdst, ?_⟩
  simpa [srcsBad, aByte, bByte, hfmt] using hsrcs

/-- In format L with no source and no predicate nor are bits 15:0. -/
theorem Passes.withPX {c : DecCtx} {f : Fields} {r : OpRow} (h : Passes c f r) (hr : r = { fmt := .L, d := true, p := false }) (p x : Byte) :
    Passes c { f with p := p, x := x } r := by
  obtain ⟨hrow, hill, hpriv, hdst, -⟩ := h
  exact ⟨hrow, hill, hpriv, hdst, by simp [srcsBad, hr]⟩

/-- Nor are bits 23:0 of call. -/
theorem Passes.withCPX {c : DecCtx} {f : Fields} {r : OpRow} (h : Passes c f r) (hop : f.op.toNat = 0x52) (k p x : Byte) :
    Passes c { f with c := k, p := p, x := x } r := by
  obtain ⟨hrow, hill, -, hdst, -⟩ := h
  have hr : r = { fmt := .J, d := true, p := false, cls := .branch } := by simpa [rowOf, hop, opRow] using hrow.symm
  refine ⟨hrow, ?_, by simp [privOp, hop], by subst hr; exact hdst, by simp [srcsBad, hr]⟩
  simpa [illop, hop] using hill

/-- Bits that are not all zero hold a byte that is not. -/
theorem byte_ne_zero16 {l : BitVec 16} (h : l ≠ 0) : l.extractLsb' 8 8 ≠ 0#8 ∨ l.extractLsb' 0 8 ≠ 0#8 := by
  by_contra hbytes
  simp [BitVec.toNat_eq, Nat.shiftRight_eq_div_pow] at h hbytes
  omega

theorem byte_ne_zero24 {l : BitVec 24} (h : l ≠ 0) : l.extractLsb' 16 8 ≠ 0#8 ∨ l.extractLsb' 8 8 ≠ 0#8 ∨ l.extractLsb' 0 8 ≠ 0#8 := by
  by_contra hbytes
  simp [BitVec.toNat_eq, Nat.shiftRight_eq_div_pow] at h hbytes
  omega

/-- Bits 15:0 of the constants must be zero (R352). -/
theorem decodeAt_constant_rsvd {c : DecCtx} {w : W64} {i : Instr} (h : decodeAt c w = .ok i) (hlo : 0x28 ≤ opByte w) (hhi : opByte w ≤ 0x2A)
    {l : BitVec 16} (hl : l ≠ 0) : decodeAt c (putLow w l) = .error .rsvd := by
  obtain ⟨r, hp, -⟩ := decodeFields_passes h
  have hr : r = { fmt := .L, d := true, p := false } := by
    have hrow : opRow (opByte w) (fnByte w) = some r := hp.1
    generalize opByte w = op at *
    interval_cases op <;> simpa [opRow] using hrow.symm
  rw [decodeAt, fieldsOf_putLow16]
  refine decodeFields_rsvd (hp.withPX hr _ _) ?_
  rcases byte_ne_zero16 hl with hb | hb <;> simp [rsvdBad, hr, hb]

/-- X of addi must be zero (R353). -/
theorem decodeAt_addi_rsvd {c : DecCtx} {w : W64} {i : Instr} (h : decodeAt c w = .ok i) (hop : opByte w = 0x2B) {x : Byte} (hx : x ≠ 0) :
    decodeAt c (putLow w x) = .error .rsvd := by
  obtain ⟨r, hp, -⟩ := decodeFields_passes h
  have hr : r.fmt = .I := by
    obtain ⟨hrow, -⟩ := hp
    simp [rowOf, show (fieldsOf w).op.toNat = 0x2B from hop, opRow] at hrow
    rw [← hrow.2]
  rw [decodeAt, fieldsOf_putLow8]
  exact decodeFields_rsvd (hp.withX (by simp [hr]) x) (by simp [rsvdBad, hr, show x ≠ 0#8 from hx])

/-- A scale of lea is below 7, and bits 7:3 of X are zero (R354). -/
theorem decodeAt_lea_rsvd {c : DecCtx} {w : W64} {i : Instr} (h : decodeAt c w = .ok i) (hop : opByte w = 0x2C) {x : Byte} (hx : 7 ≤ x.toNat) :
    decodeAt c (putLow w x) = .error .rsvd := by
  obtain ⟨r, hp, -⟩ := decodeFields_passes h
  have hr : r.fmt = .G ∧ r.x = 7 := by
    obtain ⟨hrow, -⟩ := hp
    simp [rowOf, show (fieldsOf w).op.toNat = 0x2C from hop, opRow] at hrow
    simp [← hrow.2]
  obtain ⟨hfmt, hrx⟩ := hr
  rw [decodeAt, fieldsOf_putLow8]
  refine decodeFields_rsvd (hp.withX (by simp [hfmt]) x) ?_
  rcases eq_or_lt_of_le hx with h7 | h8
  · simp [rsvdBad, xBad, show (fieldsOf w).op.toNat = 0x2C from hop, ← h7]
  · have hhigh : ∀ y : Byte, 7 < y.toNat → y &&& 248#8 ≠ 0#8 := by decide
    simp [rsvdBad, hfmt, hrx, hhigh x h8]

/-- CND, A and B of call must be zero (R361). -/
theorem decodeAt_call_rsvd {c : DecCtx} {w : W64} {i : Instr} (h : decodeAt c w = .ok i) (hop : opByte w = 0x52) {l : BitVec 24} (hl : l ≠ 0) :
    decodeAt c (putLow w l) = .error .rsvd := by
  obtain ⟨r, hp, -⟩ := decodeFields_passes h
  have hr : r = { fmt := .J, d := true, p := false, cls := .branch } := by
    obtain ⟨hrow, -⟩ := hp
    simpa [rowOf, show (fieldsOf w).op.toNat = 0x52 from hop, opRow] using hrow.symm
  rw [decodeAt, fieldsOf_putLow24]
  refine decodeFields_rsvd (hp.withCPX hop _ _ _) ?_
  rcases byte_ne_zero24 hl with hb | hb | hb <;> simp [rsvdBad, hr, hb]

/- Words. -/

/-- An immediate at the head of a word, from the bytes that hold it. -/
theorem imm16_bytes (v : BitVec 16) (z : BitVec 16) : v.extractLsb' 8 8 ++ (v.extractLsb' 0 8 ++ z) = v ++ z := by
  refine BitVec.eq_of_getLsbD_eq fun i hi => ?_
  simp only [BitVec.getLsbD_append, BitVec.getLsbD_extractLsb']
  grind

theorem imm24_bytes (v : BitVec 24) (z : BitVec 24) : v.extractLsb' 16 8 ++ (v.extractLsb' 8 8 ++ (v.extractLsb' 0 8 ++ z)) = v ++ z := by
  refine BitVec.eq_of_getLsbD_eq fun i hi => ?_
  simp only [BitVec.getLsbD_append, BitVec.getLsbD_extractLsb']
  grind

theorem imm32_bytes (v : BitVec 32) (z : BitVec 16) :
    v.extractLsb' 24 8 ++ (v.extractLsb' 16 8 ++ (v.extractLsb' 8 8 ++ (v.extractLsb' 0 8 ++ z))) = v ++ z := by
  refine BitVec.eq_of_getLsbD_eq fun i hi => ?_
  simp only [BitVec.getLsbD_append, BitVec.getLsbD_extractLsb']
  grind

theorem encI_word (op fn d a : Byte) (imm : BitVec 16) (p : Option Pred) :
    (encI op fn d a imm p).map Fields.word = some (op ++ (fn ++ (d ++ (a ++ (imm ++ (predByte p ++ 0#8)))))) :=
  congrArg (fun z => some (op ++ (fn ++ (d ++ (a ++ z))))) (imm16_bytes imm (predByte p ++ 0#8))

theorem encL_word (op d : Byte) (imm : BitVec 32) : (encL op d imm).map Fields.word = some (op ++ (d ++ (imm ++ 0#16))) :=
  congrArg (fun z => some (op ++ (d ++ z))) (imm32_bytes imm (0#8 ++ 0#8))

/-- A word of format J without CND, A and B. -/
theorem encJ_word (op d : Byte) (off : BitVec 24) : (encJ op d off 0 0 0).map Fields.word = some (op ++ (d ++ (off ++ 0#24))) :=
  congrArg (fun z => some (op ++ (d ++ z))) (imm24_bytes off (0#8 ++ (0#8 ++ 0#8)))

/-- A word of format G of a source alone. -/
theorem encG_source_word (op a : Byte) : (encG op 0 0 a 0 0 none 0).map Fields.word = some (op ++ (0#16 ++ (a ++ 0#32))) := by
  have hzeros : 0#8 ++ (0#8 ++ (a ++ (0#8 ++ (0#8 ++ (0#8 ++ 0#8))))) = 0#16 ++ (a ++ 0#32) := by
    rw [BitVec.append_assoc']
    rfl
  exact congrArg (fun z => some (op ++ z)) hzeros

end Sys2Proof.Machine

/-! The model's integers of a type, in bit vectors of its width (R325, R343, R349). -/

namespace Sys2Proof.Machine

theorem tyBits_pos (ty : Ty) : 0 < tyBits ty := by cases ty <;> decide

/-- Reducing an integer modulo 2^n is reading it as a bit vector of n bits. -/
theorem wrapNat_eq (v : Int) (n : Nat) : wrapNat v n = (BitVec.ofInt n v).toNat := by rw [wrapNat, BitVec.toNat_ofInt]

theorem wordOf_eq_ofInt (v : Int) : wordOf v = BitVec.ofInt 64 v := by
  rw [wordOf, wrapNat_eq, BitVec.ofNat_toNat, BitVec.setWidth_eq]

theorem sextInt_eq_toInt (v n : Nat) : sextInt v n = (BitVec.ofNat n v).toInt := by
  rw [BitVec.toInt_eq_toNat_cond, BitVec.toNat_ofNat]
  rfl

/-- Reading the low bits of v under a type. -/
theorem readInt_eq_intOf (ty : Ty) (v : Nat) : readInt (tySigned ty) (tyBits ty) v = intOf ty (BitVec.ofNat (tyBits ty) v) := by
  rw [readInt, intOf, sextInt_eq_toInt, BitVec.toNat_ofNat]

theorem readTy_eq_intOf (ty : Ty) (v : W64) : readTy ty v = intOf ty (low ty v) := by
  rw [readTy, readInt_eq_intOf, BitVec.ofNat_toNat]
  rfl

/-- A bit vector is the wrapped integer that it is under its type. -/
@[simp] theorem ofInt_intOf (ty : Ty) (v : BitVec (tyBits ty)) : BitVec.ofInt (tyBits ty) (intOf ty v) = v := by
  unfold intOf
  split
  · exact BitVec.ofInt_toInt
  · rw [BitVec.ofInt_natCast, BitVec.ofNat_toNat, BitVec.setWidth_eq]

/-- The integer of a type as a word of 64 bits, extended. -/
theorem ofInt_intOf_word (ty : Ty) (v : BitVec (tyBits ty)) : BitVec.ofInt 64 (intOf ty v) = widen ty v := by
  unfold intOf widen
  split
  · rfl
  · rw [BitVec.ofInt_natCast, BitVec.ofNat_toNat]

theorem extTy_eq_widen (ty : Ty) (v : Nat) : extTy ty v = widen ty (BitVec.ofNat (tyBits ty) v) := by
  rw [extTy, wordOf_eq_ofInt, readInt_eq_intOf, ofInt_intOf_word]

@[simp] theorem extTy_toNat (ty : Ty) (v : BitVec (tyBits ty)) : extTy ty v.toNat = widen ty v := by
  rw [extTy_eq_widen, BitVec.ofNat_toNat, BitVec.setWidth_eq]

theorem wrapTy_eq_widen (ty : Ty) (v : Int) : wrapTy ty v = widen ty (BitVec.ofInt (tyBits ty) v) := by
  rw [wrapTy, wrapNat_eq, extTy_toNat]

@[simp] theorem widen_zero (ty : Ty) : widen ty 0#(tyBits ty) = 0 := by
  rw [← ofInt_intOf_word]
  simp [intOf]

/-- A natural number below half of the type's range keeps its value. -/
theorem extTy_of_lt (ty : Ty) {v : Nat} (h : 2 * v < 2 ^ tyBits ty) : extTy ty v = BitVec.ofNat 64 v := by
  have hv : v % 2 ^ tyBits ty = v := Nat.mod_eq_of_lt (by omega)
  have hread : readInt (tySigned ty) (tyBits ty) v = (v : Int) := by
    simp [readInt, sextInt, hv, h]
  rw [extTy, wordOf_eq_ofInt, hread, BitVec.ofInt_natCast]

/-- What an operation on integers gives, wrapped to the width of the type. -/
theorem intOp_eq_widen (ty : Ty) (f : Int → Int → Int) (vs : List W64) :
    intOp ty f vs = widen ty (BitVec.ofInt (tyBits ty) (f (argInt ty vs 0) (argInt ty vs 1))) := by
  rw [intOp, wrapTy_eq_widen, readTy_eq_intOf, readTy_eq_intOf]
  rfl

/-- Clamping to the range of a type (R349: adds, subs). -/
theorem clampTy_eq (ty : Ty) (v : Int) : clampTy ty v = max (tyMin ty) (min (tyMax ty) v) := by
  have hmin : intMin (tySigned ty) (tyBits ty) = tyMin ty := by
    unfold intMin tyMin
    split <;> norm_num
  have hmax : intMax (tySigned ty) (tyBits ty) = tyMax ty := by
    unfold intMax tyMax
    split <;> norm_num
  have hle : tyMin ty ≤ tyMax ty := by cases ty <;> decide
  rw [clampTy, clampInt, hmin, hmax]
  split
  · omega
  · split <;> omega

/-- A computing instruction whose poison is that of its operands, with its function in other words. -/
theorem computes_pureOf {i : Instr} {d : Dst} {p : Option Pred} {srcs : List Src} {lat : Nat} {f g : List W64 → W64}
    (h : ∀ s, exec i s = .next (execPure d p srcs lat f s)) (e : ∀ vs, f vs = g vs) : Computes i d p srcs lat (pureOf g) :=
  funext e ▸ computes_of_execPure h

/-- An instruction over the integers of its type whose result is the wrapped integer `f` gives. -/
theorem computes_intOp {i : Instr} {d : Dst} {p : Option Pred} {srcs : List Src} {lat : Nat} {ty : Ty} {f : Int → Int → Int}
    {g : List W64 → BitVec (tyBits ty)} (h : ∀ s, exec i s = .next (execPure d p srcs lat (intOp ty f) s))
    (e : ∀ vs, BitVec.ofInt (tyBits ty) (f (argInt ty vs 0) (argInt ty vs 1)) = g vs) :
    Computes i d p srcs lat (pureOf (fun vs => widen ty (g vs))) :=
  computes_pureOf h (fun vs => by rw [intOp_eq_widen, e])

theorem ofInt_argInt (ty : Ty) (vs : List W64) (k : Nat) : BitVec.ofInt (tyBits ty) (argInt ty vs k) = low ty (vs.getD k 0) :=
  ofInt_intOf ty _

/- The divider (R345, R349, R364). -/

/-- The divider is busy up to cycle n. -/
def withDivFree (s : State) (n : Nat) : State := s.modCore s.curKey (fun c => { c with run := { c.run with divFree := n } })

theorem withDivFree_curCore (s : State) (n : Nat) :
    (withDivFree s n).curCore = { s.curCore with run := { s.curCore.run with divFree := n } } := curCore_setCore s _

/-- What the divider keeps aside is no matter of an instruction's landing. -/
theorem landed_of_withDivFree {s t : State} {n at_ lat : Nat} {d : Dst} {v : W64} {poi : Bool} (h : Landed (withDivFree s n) t at_ lat d v poi) :
    Landed s t at_ lat d v poi := by
  have hk : (withDivFree s n).curKey = s.curKey := rfl
  unfold Landed FiresOnly State.fired State.idx at h ⊢
  rw [hk, withDivFree_curCore] at h
  obtain ⟨hf, hat, hr, hv, hp, hfl, ho, hst, hother, hcore, hrun, hslots, hos⟩ := h
  exact ⟨hf, hat, hr, hv, hp, hfl, ho, hst, fun k hne => (hother k hne).trans (core_setCore_other _ _ hne), hcore, hrun, hslots, hos⟩

theorem divLatency_eq (ty : Ty) :
    divLatency ty = if tyBits ty = 8 then 10 else if tyBits ty = 16 then 14 else if tyBits ty = 32 then 22 else 38 := by
  cases ty <;> rfl

/-- The result of div and rem, by the operation f on the integers of the type; a zero divisor, which is then poisoned, gives 0. -/
def divResult (ty : Ty) (f : Int → Int → Int) (x y : Operand) : W64 :=
  if readTy ty y.val = 0 then 0 else wrapTy ty (f (readTy ty x.val) (readTy ty y.val))

/-- div and rem where the divider takes them: the divisor is not zero, or is poisoned. -/
theorem divBody_landed {ty : Ty} {f : Int → Int → Int} {d : Dst} {p : Option Pred} {a b : Src} {s : State} {t u : Nat} {x y : Operand}
    (hr : Ready s p [a, b] t [x, y]) (hy : readTy ty y.val ≠ 0 ∨ y.poi = true) (hd : DstFree s d (x.poi || y.poi))
    (hu : divFrom s.curCore s.idx (tyBits ty) (some y) = some u) :
    Landed s (divBody ty f d p a b s) (fireCycle s.curCore.run (max t u)) (divLatency ty) d (divResult ty f x y) (x.poi || y.poi) := by
  have htakes : readTy ty y.val = 0 → y.poi = true := fun h => hy.resolve_left (not_not_intro h)
  have hbody : divBody ty f d p a b s = land (withDivFree s (fireCycle s.curCore.run (max t u) + divLatency ty))
      (fireCycle s.curCore.run (max t u)) (divLatency ty) d (divResult ty f x y) (x.poi || y.poi) (some x) (some y) := by
    simp only [State.idx] at hu
    simpa [divBody, beginFire_ready hr, opVal, opPoi, hu, anyPoison, withDivFree, divResult] using fun h hp => absurd (htakes h) (by simp [hp])
  rw [hbody]
  refine landed_of_withDivFree (land_landed ?_ _ _ _ _ _ _ _ ?_)
  · simpa [canFire, withDivFree_curCore] using hr.1
  · simpa [DstFree, oTaken, withDivFree_curCore] using hd

/-- A zero divisor without poison is F_DIVZ (R349). -/
theorem divBody_divz {ty : Ty} {f : Int → Int → Int} {d : Dst} {p : Option Pred} {a b : Src} {s : State} {t : Nat} {x y : Operand}
    (hr : Ready s p [a, b] t [x, y]) (hy : readTy ty y.val = 0) (hp : y.poi = false) : Faulted s (divBody ty f d p a b s) t .divz 0 := by
  have hbody : divBody ty f d p a b s = fireFault s t 1 .divz 0 (some x) (some y) := by
    simp [divBody, beginFire_ready hr, opVal, opPoi, hy, hp]
  rw [hbody]
  exact fireFault_faulted hr.1 t 1 .divz 0 _ _

/-- Int.tdiv itself gives 0 for a zero divisor; Int.tmod does not. -/
theorem divResult_tdiv (ty : Ty) (x y : Operand) :
    divResult ty Int.tdiv x y = widen ty (BitVec.ofInt (tyBits ty) (Int.tdiv (intOf ty (low ty x.val)) (intOf ty (low ty y.val)))) := by
  rw [divResult, readTy_eq_intOf, readTy_eq_intOf, wrapTy_eq_widen]
  split
  next h => rw [h, Int.tdiv_zero, BitVec.ofInt_ofNat, widen_zero]
  next => rfl

theorem divResult_tmod (ty : Ty) (x y : Operand) :
    divResult ty Int.tmod x y = widen ty (BitVec.ofInt (tyBits ty)
      (if intOf ty (low ty y.val) = 0 then 0 else Int.tmod (intOf ty (low ty x.val)) (intOf ty (low ty y.val)))) := by
  rw [divResult, readTy_eq_intOf, readTy_eq_intOf, wrapTy_eq_widen]
  split
  next h => rw [BitVec.ofInt_ofNat, widen_zero]
  next => rfl

/- The rows. -/

theorem computes_add (ty : Ty) (d : Dst) (a b : Src) (p : Option Pred) :
    Computes (.add ty d a b p) d p [a, b] 1 (pureOf (fun vs => widen ty (low ty (vs.getD 0 0) + low ty (vs.getD 1 0)))) :=
  computes_intOp (fun _ => rfl) fun vs => by rw [BitVec.ofInt_add, ofInt_argInt, ofInt_argInt]

theorem computes_sub (ty : Ty) (d : Dst) (a b : Src) (p : Option Pred) :
    Computes (.sub ty d a b p) d p [a, b] 1 (pureOf (fun vs => widen ty (low ty (vs.getD 0 0) - low ty (vs.getD 1 0)))) :=
  computes_intOp (fun _ => rfl) fun vs => by
    rw [Int.sub_eq_add_neg, BitVec.ofInt_add, BitVec.ofInt_neg, ofInt_argInt, ofInt_argInt, BitVec.sub_eq_add_neg]

theorem computes_mul (ty : Ty) (d : Dst) (a b : Src) (p : Option Pred) :
    Computes (.mul ty d a b p) d p [a, b] 3 (pureOf (fun vs => widen ty (low ty (vs.getD 0 0) * low ty (vs.getD 1 0)))) :=
  computes_intOp (fun _ => rfl) fun vs => by rw [BitVec.ofInt_mul, ofInt_argInt, ofInt_argInt]

theorem computes_neg (ty : Ty) (d : Dst) (a : Src) (p : Option Pred) :
    Computes (.neg ty d a p) d p [a] 1 (pureOf (fun vs => widen ty (-low ty (vs.getD 0 0)))) :=
  computes_intOp (fun _ => rfl) fun vs => by rw [BitVec.ofInt_neg, ofInt_argInt]

theorem computes_mulh (ty : Ty) (d : Dst) (a b : Src) (p : Option Pred) :
    Computes (.mulh ty d a b p) d p [a, b] 3
      (pureOf (fun vs => widen ty (BitVec.ofInt (tyBits ty) (argInt ty vs 0 * argInt ty vs 1 / 2 ^ tyBits ty)))) :=
  computes_intOp (fun _ => rfl) fun vs => by rw [mulHigh]; norm_cast

theorem computes_adds (ty : Ty) (d : Dst) (a b : Src) (p : Option Pred) :
    Computes (.adds ty d a b p) d p [a, b] 1
      (pureOf (fun vs => widen ty (BitVec.ofInt (tyBits ty) (max (tyMin ty) (min (tyMax ty) (argInt ty vs 0 + argInt ty vs 1)))))) :=
  computes_intOp (fun _ => rfl) fun vs => by rw [clampTy_eq]

theorem computes_subs (ty : Ty) (d : Dst) (a b : Src) (p : Option Pred) :
    Computes (.subs ty d a b p) d p [a, b] 1
      (pureOf (fun vs => widen ty (BitVec.ofInt (tyBits ty) (max (tyMin ty) (min (tyMax ty) (argInt ty vs 0 - argInt ty vs 1)))))) :=
  computes_intOp (fun _ => rfl) fun vs => by rw [clampTy_eq]

theorem computes_min (ty : Ty) (d : Dst) (a b : Src) (p : Option Pred) :
    Computes (.min ty d a b p) d p [a, b] 1 (pureOf (fun vs => widen ty (BitVec.ofInt (tyBits ty) (min (argInt ty vs 0) (argInt ty vs 1))))) :=
  computes_intOp (fun _ => rfl) fun vs => by rw [min_comm, min_def_lt]

theorem computes_max (ty : Ty) (d : Dst) (a b : Src) (p : Option Pred) :
    Computes (.max ty d a b p) d p [a, b] 1 (pureOf (fun vs => widen ty (BitVec.ofInt (tyBits ty) (max (argInt ty vs 0) (argInt ty vs 1))))) :=
  computes_intOp (fun _ => rfl) fun vs => by rw [max_def_lt]

theorem computes_abs (ty : Ty) (d : Dst) (a : Src) (p : Option Pred) :
    Computes (.abs ty d a p) d p [a] 1 (pureOf (fun vs => widen ty (BitVec.ofInt (tyBits ty) (argInt ty vs 0).natAbs))) :=
  computes_intOp (fun _ => rfl) fun vs => by
    congr 1
    split <;> omega

/-- Settles O10: each row by the integer operation it wraps; div and rem by what the divider takes. -/
theorem integerArithmetic : Obligations.IntegerArithmetic := by
  unfold Obligations.IntegerArithmetic
  refine ⟨fun ty d a b p => ⟨computes_add ty d a b p, computes_sub ty d a b p, computes_mul ty d a b p, computes_neg ty d a p,
      computes_mulh ty d a b p, computes_adds ty d a b p, computes_subs ty d a b p,
      computes_min ty d a b p, computes_max ty d a b p, computes_abs ty d a p, rfl, rfl, rfl, rfl, rfl, rfl, rfl, rfl, rfl, rfl, rfl, rfl⟩,
    fun c w i h hlo hhi => decodeAt_intOpcode h (.inl ⟨hlo, hhi⟩), fun ty d a b p s t x y hr => ⟨fun u hm hd hu => ?_, fun hm hp => ?_⟩⟩
  · rw [← readTy_eq_intOf] at hm
    dsimp only
    rw [← divLatency_eq, ← divResult_tdiv, ← divResult_tmod]
    exact ⟨⟨_, rfl, divBody_landed hr hm hd hu⟩, ⟨_, rfl, divBody_landed hr hm hd hu⟩⟩
  · rw [← readTy_eq_intOf] at hm
    exact ⟨⟨_, rfl, divBody_divz hr hm hp⟩, ⟨_, rfl, divBody_divz hr hm hp⟩⟩

end Sys2Proof.Machine

/-! The model's bits, shifts and bit fields, in bit vectors of the type's width (R350). -/

namespace Sys2Proof.Machine

theorem lowBits_eq (ty : Ty) (v : W64) : lowBits ty v = (low ty v).toNat := (BitVec.toNat_setWidth _ _).symm

theorem bitOp_and (ty : Ty) (vs : List W64) :
    bitOp ty (· &&& ·) vs = widen ty (low ty (vs.getD 0 0) &&& low ty (vs.getD 1 0)) := by
  rw [bitOp, lowBits_eq, lowBits_eq, ← BitVec.toNat_and, extTy_toNat]

theorem bitOp_or (ty : Ty) (vs : List W64) :
    bitOp ty (· ||| ·) vs = widen ty (low ty (vs.getD 0 0) ||| low ty (vs.getD 1 0)) := by
  rw [bitOp, lowBits_eq, lowBits_eq, ← BitVec.toNat_or, extTy_toNat]

theorem bitOp_xor (ty : Ty) (vs : List W64) :
    bitOp ty (· ^^^ ·) vs = widen ty (low ty (vs.getD 0 0) ^^^ low ty (vs.getD 1 0)) := by
  rw [bitOp, lowBits_eq, lowBits_eq, ← BitVec.toNat_xor, extTy_toNat]

theorem notBits_eq (ty : Ty) (vs : List W64) : notBits ty vs = widen ty (~~~low ty (vs.getD 0 0)) := by
  rw [notBits, lowBits_eq, ← BitVec.toNat_not, extTy_toNat]

theorem shiftLeft_eq (ty : Ty) (vs : List W64) : shiftLeft ty vs = widen ty (low ty (vs.getD 0 0) <<< (vs.getD 1 0).toNat) := by
  unfold shiftLeft
  dsimp only
  split
  next h => rw [BitVec.shiftLeft_eq_zero h, widen_zero]
  next =>
    rw [lowBits_eq, extTy_eq_widen, ← Nat.shiftLeft_eq]
    rfl

/-- The shift right of an integer of a type, arithmetic where the type is signed. -/
theorem ofInt_ediv_two_pow (ty : Ty) (x : BitVec (tyBits ty)) (s : Nat) :
    BitVec.ofInt (tyBits ty) (intOf ty x / ((2 ^ s : Nat) : Int)) = if tySigned ty then x.sshiftRight s else x >>> s := by
  unfold intOf
  split
  · rw [BitVec.sshiftRight, Int.shiftRight_eq_div_pow]
  · rw [← Int.natCast_ediv, BitVec.ofInt_natCast, ← Nat.shiftRight_eq_div_pow, ← BitVec.toNat_ushiftRight, BitVec.ofNat_toNat, BitVec.setWidth_eq]

theorem intOf_bounds (ty : Ty) (x : BitVec (tyBits ty)) : -2 ^ tyBits ty ≤ intOf ty x ∧ intOf ty x < 2 ^ tyBits ty := by
  have hlt : (x.toNat : Int) < 2 ^ tyBits ty := by exact_mod_cast x.isLt
  unfold intOf
  split
  · rw [BitVec.toInt_eq_toNat_cond]
    push_cast
    split <;> omega
  · omega

/-- Shifted by its width or more, an integer of a type is its sign (R350). -/
theorem intOf_ediv_of_width_le (ty : Ty) (x : BitVec (tyBits ty)) {s : Nat} (h : tyBits ty ≤ s) :
    intOf ty x / ((2 ^ s : Nat) : Int) = if intOf ty x < 0 then -1 else 0 := by
  obtain ⟨hlo, hhi⟩ := intOf_bounds ty x
  have hpow : (2 ^ tyBits ty : Int) ≤ 2 ^ s := pow_le_pow_right₀ (by decide) h
  push_cast
  split
  · rw [Int.ediv_eq_iff_of_pos (by positivity)]
    omega
  · exact Int.ediv_eq_zero_of_lt (by omega) (by omega)

theorem shiftRight_eq (ty : Ty) (vs : List W64) :
    shiftRight ty vs = widen ty (if tySigned ty then (low ty (vs.getD 0 0)).sshiftRight (vs.getD 1 0).toNat
      else low ty (vs.getD 0 0) >>> (vs.getD 1 0).toNat) := by
  rw [← ofInt_ediv_two_pow, ← wrapTy_eq_widen]
  unfold shiftRight
  dsimp only
  rw [readTy_eq_intOf]
  split
  next h =>
    rw [intOf_ediv_of_width_le ty _ h]
    split
    · rfl
    · rw [wrapTy_eq_widen, BitVec.ofInt_ofNat, widen_zero]
  next => rfl

theorem rotLeft_eq (ty : Ty) (vs : List W64) : rotLeft ty vs = widen ty ((low ty (vs.getD 0 0)).rotateLeft (vs.getD 1 0).toNat) := by
  have hs : (vs.getD 1 0).toNat % tyBits ty < tyBits ty := Nat.mod_lt _ (tyBits_pos ty)
  rw [rotLeft, lowBits_eq, ← extTy_toNat, BitVec.toNat_rotateLeft]
  generalize (vs.getD 1 0).toNat % tyBits ty = s at *
  generalize low ty (vs.getD 0 0) = x
  have hhigh : x.toNat * 2 ^ s % 2 ^ tyBits ty = 2 ^ s * (x.toNat % 2 ^ (tyBits ty - s)) := by
    rw [← Nat.mul_mod_mul_left, ← pow_add, Nat.add_sub_cancel' hs.le, Nat.mul_comm]
  have hlow : x.toNat / 2 ^ (tyBits ty - s) < 2 ^ s := by
    rw [Nat.div_lt_iff_lt_mul (by positivity), ← pow_add, Nat.add_sub_cancel' hs.le]
    exact x.isLt
  rw [Nat.shiftLeft_eq, Nat.shiftRight_eq_div_pow, hhigh, Nat.two_pow_add_eq_or_of_lt hlow]

/-- The leading zeros of a field (R350). -/
theorem leadZeros_toNat {n : Nat} (hn : 0 < n) (x : BitVec n) : leadZeros x.toNat n = x.clz.toNat := by
  unfold leadZeros
  split
  next h =>
    have hx : x = 0#n := BitVec.eq_of_toNat_eq (by simpa using h)
    have hclz : x.clz = BitVec.ofNat n n := BitVec.clz_eq_iff_eq_zero.mpr hx
    rw [hclz, BitVec.toNat_ofNat, Nat.mod_eq_of_lt n.lt_two_pow_self]
  next h =>
    have hx : x ≠ 0#n := fun e => h (by simp [e])
    have hlt : x.clz.toNat < n := by
      simpa [BitVec.lt_def, Nat.mod_eq_of_lt n.lt_two_pow_self] using BitVec.clz_lt_iff_ne_zero.mpr hx
    have hlog : Nat.log2 x.toNat = n - 1 - x.clz.toNat := by
      rw [Nat.log2_eq_iff (by simpa using h)]
      refine ⟨BitVec.two_pow_sub_clz_le_toNat_of_ne_zero hn hx, ?_⟩
      rw [show n - 1 - x.clz.toNat + 1 = n - x.clz.toNat by omega]
      exact BitVec.toNat_lt_two_pow_sub_clz
    omega

/-- A count of bits of a type is below half of its range. -/
theorem two_mul_lt_of_le_tyBits (ty : Ty) {k : Nat} (h : k ≤ tyBits ty) : 2 * k < 2 ^ tyBits ty :=
  (Nat.mul_le_mul_left 2 h).trans_lt (by cases ty <;> decide)

theorem clzOf_eq (ty : Ty) (vs : List W64) : clzOf ty vs = BitVec.ofNat 64 (low ty (vs.getD 0 0)).clz.toNat := by
  have hle : (low ty (vs.getD 0 0)).clz.toNat ≤ tyBits ty := by
    simpa [BitVec.le_def, Nat.mod_eq_of_lt (tyBits ty).lt_two_pow_self] using BitVec.clz_le (x := low ty (vs.getD 0 0))
  rw [clzOf, lowBits_eq, leadZeros_toNat (tyBits_pos ty), extTy_of_lt ty (two_mul_lt_of_le_tyBits ty hle)]

theorem nbit_toNat {n : Nat} (x : BitVec n) (i : Nat) : nbit x.toNat i = x.getLsbD i := by
  rw [← BitVec.testBit_toNat, nbit, Nat.testBit_eq_decide_div_mod_eq, Nat.shiftRight_eq_div_pow]
  rfl

theorem popCount_eq (ty : Ty) (vs : List W64) :
    popCount ty vs = BitVec.ofNat 64 ((List.range (tyBits ty)).countP (fun i => (low ty (vs.getD 0 0)).getLsbD i)) := by
  have hle := List.countP_le_length (p := fun i => (low ty (vs.getD 0 0)).getLsbD i) (l := List.range (tyBits ty))
  rw [List.length_range] at hle
  simp only [popCount, lowBits_eq, nbit_toNat, ← List.countP_eq_length_filter]
  exact extTy_of_lt ty (two_mul_lt_of_le_tyBits ty hle)

/- bext. -/

/-- The w bits of x from bit p on, extended to the width of the type. -/
def fieldOf (ty : Ty) (x : BitVec (tyBits ty)) (p w : Nat) : BitVec (tyBits ty) :=
  if tySigned ty then ((x >>> p).setWidth w).signExtend (tyBits ty) else ((x >>> p).setWidth w).setWidth (tyBits ty)

theorem nbits_toNat {n : Nat} (x : BitVec n) (p : Nat) {w : Nat} (hw : 0 < w) :
    nbits x.toNat (p + w - 1) p = ((x >>> p).setWidth w).toNat := by
  rw [nbits, BitVec.toNat_setWidth, BitVec.toNat_ushiftRight, show p + w - 1 + 1 - p = w by omega]

theorem fieldOf_zero_width (ty : Ty) (x : BitVec (tyBits ty)) (p : Nat) : fieldOf ty x p 0 = 0#(tyBits ty) := by
  rw [fieldOf, BitVec.of_length_zero (x := (x >>> p).setWidth 0)]
  split <;> simp [BitVec.signExtend]

theorem bitExtract_eq (ty : Ty) (vs : List W64) :
    bitExtract ty vs = widen ty (fieldOf ty (low ty (vs.getD 0 0)) (vs.getD 1 0).toNat
      (min (vs.getD 2 0).toNat (tyBits ty - (vs.getD 1 0).toNat))) := by
  unfold bitExtract
  dsimp only
  generalize (vs.getD 1 0).toNat = p
  generalize (vs.getD 2 0).toNat = l
  rw [lowBits_eq]
  generalize low ty (vs.getD 0 0) = x
  split
  next h =>
    have hw : min l (tyBits ty - p) = 0 := by
      simp at h
      omega
    rw [hw, fieldOf_zero_width, widen_zero]
  next h =>
    have hw : 0 < min l (tyBits ty - p) := by
      simp at h
      omega
    rw [nbits_toNat x p hw, fieldOf]
    split
    · rw [wrapTy_eq_widen, sextInt_eq_toInt, BitVec.ofNat_toNat, BitVec.setWidth_eq]
      rfl
    · rw [extTy_eq_widen, BitVec.ofNat_toNat]

theorem getLsbD_low {ty : Ty} (v : W64) {i : Nat} (hi : i < tyBits ty) : (low ty v).getLsbD i = v.getLsbD i := by
  simp [low, hi]

/-- The bits of a field that ends within the width. -/
theorem getLsbD_fieldOf (ty : Ty) (v : W64) {p w i : Nat} (hw : w = 0 ∨ p + w ≤ tyBits ty) (hi : i < tyBits ty) :
    (fieldOf ty (low ty v) p w).getLsbD i =
      if w = 0 then false else if i < w then v.getLsbD (p + i) else tySigned ty && v.getLsbD (p + w - 1) := by
  split
  next h => rw [h, fieldOf_zero_width, BitVec.getLsbD_zero]
  next h =>
    have hin : ∀ j < w, ((low ty v >>> p).setWidth w).getLsbD j = v.getLsbD (p + j) := fun j hj => by
      rw [BitVec.getLsbD_setWidth, BitVec.getLsbD_ushiftRight, getLsbD_low v (by omega)]
      simp [hj]
    have hmsb : ((low ty v >>> p).setWidth w).msb = v.getLsbD (p + w - 1) := by
      rw [BitVec.msb_eq_getLsbD_last, hin _ (by omega), show p + (w - 1) = p + w - 1 by omega]
    unfold fieldOf
    generalize (low ty v >>> p).setWidth w = f at hin hmsb
    cases tySigned ty
    · simp only [Bool.false_eq_true, if_false, Bool.false_and, BitVec.getLsbD_setWidth, hi, decide_true, Bool.true_and]
      split
      next hiw => exact hin i hiw
      next hiw => exact BitVec.getLsbD_of_ge f i (by omega)
    · simp only [if_true, BitVec.getLsbD_signExtend, hi, decide_true, Bool.true_and, hmsb]
      split
      next hiw => exact hin i hiw
      next => rfl

/- bins. -/

/-- a with its w bits from bit p on replaced by the low bits of b. -/
def putField (a b p w : Nat) : Nat := 2 ^ p * (2 ^ w * (a / 2 ^ (p + w)) + b % 2 ^ w) + a % 2 ^ p

theorem testBit_putField (a b p w i : Nat) :
    (putField a b p w).testBit i = if p ≤ i ∧ i < p + w then b.testBit (i - p) else a.testBit i := by
  rw [putField, Nat.testBit_two_pow_mul_add _ (Nat.mod_lt _ (by positivity)),
    Nat.testBit_two_pow_mul_add _ (Nat.mod_lt _ (by positivity))]
  by_cases hlow : i < p
  · rw [if_pos hlow, if_neg (by omega), Nat.testBit_mod_two_pow]
    simp [hlow]
  · by_cases hin : i - p < w
    · rw [if_neg hlow, if_pos hin, if_pos (by omega), Nat.testBit_mod_two_pow]
      simp [hin]
    · rw [if_neg hlow, if_neg hin, if_neg (by omega), Nat.testBit_div_two_pow]
      congr 1
      omega

/-- Taking a field out and putting another in its place. -/
theorem sub_field_add_field (a b p w : Nat) : a - a / 2 ^ p % 2 ^ w * 2 ^ p + b % 2 ^ w * 2 ^ p = putField a b p w := by
  have hsplit : a = 2 ^ p * (2 ^ w * (a / 2 ^ (p + w)) + a / 2 ^ p % 2 ^ w) + a % 2 ^ p := by
    rw [pow_add, ← Nat.div_div_eq_div_mul, Nat.div_add_mod, Nat.div_add_mod]
  rw [Nat.mul_add] at hsplit
  rw [putField, Nat.mul_add, Nat.mul_comm _ (2 ^ p), Nat.mul_comm (b % 2 ^ w)]
  omega

/-- An empty field replaces nothing. -/
theorem putField_zero_width (a b p : Nat) : putField a b p 0 = a := by
  simp [putField, Nat.mod_one, Nat.div_add_mod]

theorem bitInsert_eq (ty : Ty) (vs : List W64) :
    bitInsert ty vs = widen ty (BitVec.ofNat (tyBits ty) (putField (low ty (vs.getD 0 0)).toNat (vs.getD 1 0).toNat ((vs.getD 2 0).toNat % 256)
      (min ((vs.getD 2 0).toNat / 256 % 256) (tyBits ty - (vs.getD 2 0).toNat % 256)))) := by
  have hp : nbits (vs.getD 2 0).toNat 7 0 = (vs.getD 2 0).toNat % 256 := rfl
  have hl : nbits (vs.getD 2 0).toNat 15 8 = (vs.getD 2 0).toNat / 256 % 256 := by
    rw [nbits, Nat.shiftRight_eq_div_pow]
    rfl
  unfold bitInsert
  rw [hp, hl, lowBits_eq, ← extTy_eq_widen]
  dsimp only
  generalize (vs.getD 2 0).toNat % 256 = p
  generalize (vs.getD 2 0).toNat / 256 % 256 = l
  split
  next h =>
    have hw : min l (tyBits ty - p) = 0 := by
      simp at h
      omega
    rw [hw, putField_zero_width]
  next h =>
    have hw : p + min l (tyBits ty - p) - 1 + 1 - p = min l (tyBits ty - p) := by
      simp at h
      omega
    rw [nbits, hw, Nat.shiftRight_eq_div_pow, sub_field_add_field]

theorem getLsbD_ofNat_putField (ty : Ty) (x y : W64) (p w : Nat) {i : Nat} (hi : i < tyBits ty) :
    (BitVec.ofNat (tyBits ty) (putField (low ty x).toNat y.toNat p w)).getLsbD i =
      if p ≤ i ∧ i < p + w then y.getLsbD (i - p) else x.getLsbD i := by
  rw [BitVec.getLsbD_ofNat, testBit_putField, BitVec.testBit_toNat, BitVec.testBit_toNat, getLsbD_low x hi]
  simp [hi]

/-- Where a computing instruction of three sources lands. -/
theorem Computes.lands3 {i : Instr} {d : Dst} {p : Option Pred} {a b c : Src} {lat : Nat} {f : List W64 → W64}
    (h : Computes i d p [a, b, c] lat (pureOf f)) {s : State} {t : Nat} {x y z : Operand} (hr : Ready s p [a, b, c] t [x, y, z])
    (hd : DstFree s d (x.poi || y.poi || z.poi)) :
    ∃ s', exec i s = .next s' ∧ Landed s s' t lat d (f [x.val, y.val, z.val]) (x.poi || y.poi || z.poi) := by
  have hpoi : (pureOf f [x, y, z]).2 = (x.poi || y.poi || z.poi) := by simp [pureOf, Bool.or_assoc]
  rw [← hpoi] at hd ⊢
  exact (h s t [x, y, z] hr).1 hd

theorem bext_lands {ty : Ty} {d : Dst} {a b c : Src} {p : Option Pred} {s : State} {t : Nat} {x y z : Operand}
    (hr : Ready s p [a, b, c] t [x, y, z]) (hd : DstFree s d (x.poi || y.poi || z.poi)) :
    ∃ s', exec (.bext ty d a b c p) s = .next s' ∧ Landed s s' t 1 d
      (widen ty (fieldOf ty (low ty x.val) y.val.toNat (min z.val.toNat (tyBits ty - y.val.toNat)))) (x.poi || y.poi || z.poi) :=
  Computes.lands3 (computes_pureOf (fun _ => rfl) (bitExtract_eq ty)) hr hd

theorem bins_lands {ty : Ty} {d : Dst} {a b c : Src} {p : Option Pred} {s : State} {t : Nat} {x y z : Operand}
    (hr : Ready s p [a, b, c] t [x, y, z]) (hd : DstFree s d (x.poi || y.poi || z.poi)) :
    ∃ s', exec (.bins ty d a b c p) s = .next s' ∧ Landed s s' t 1 d
      (widen ty (BitVec.ofNat (tyBits ty) (putField (low ty x.val).toNat y.val.toNat (z.val.toNat % 256)
        (min (z.val.toNat / 256 % 256) (tyBits ty - z.val.toNat % 256))))) (x.poi || y.poi || z.poi) :=
  Computes.lands3 (computes_pureOf (fun _ => rfl) (bitInsert_eq ty)) hr hd

/-- Settles O11: each row by the operation on bit vectors that it is; the fields of bext and bins bit by bit. -/
theorem bitsAndFields : Obligations.BitsAndFields := by
  unfold Obligations.BitsAndFields
  refine ⟨fun ty d a b p => ⟨computes_pureOf (fun _ => rfl) (bitOp_and ty), computes_pureOf (fun _ => rfl) (bitOp_or ty),
      computes_pureOf (fun _ => rfl) (bitOp_xor ty), computes_pureOf (fun _ => rfl) (notBits_eq ty),
      computes_pureOf (fun _ => rfl) (shiftLeft_eq ty), computes_pureOf (fun _ => rfl) (shiftRight_eq ty),
      computes_pureOf (fun _ => rfl) (rotLeft_eq ty), computes_pureOf (fun _ => rfl) (clzOf_eq ty),
      computes_pureOf (fun _ => rfl) (popCount_eq ty), rfl, rfl, rfl, rfl, rfl, rfl, rfl, rfl, rfl⟩,
    fun c w i h hlo hhi => decodeAt_intOpcode h (.inr (.inl ⟨hlo, hhi⟩)), fun ty d a b c p s t x y z hr hd => ⟨?_, ?_, rfl, rfl⟩⟩
  · obtain ⟨s', he, hl⟩ := bext_lands (ty := ty) hr hd
    exact ⟨s', _, he, hl, fun i hi => getLsbD_fieldOf ty x.val (by omega) hi⟩
  · obtain ⟨s', he, hl⟩ := bins_lands (ty := ty) hr hd
    exact ⟨s', _, he, hl, fun i hi => getLsbD_ofNat_putField ty x.val y.val _ _ hi⟩

end Sys2Proof.Machine

/-! Compares and sel (R351). -/

namespace Sys2Proof.Machine

theorem intRel_eq (ty : Ty) (vs : List W64) : intRel ty .eq (vs.getD 0 0) (vs.getD 1 0) = decide (argInt ty vs 0 = argInt ty vs 1) := by
  simp only [intRel, readTy_eq_intOf]
  rfl

theorem intRel_ne (ty : Ty) (vs : List W64) : intRel ty .ne (vs.getD 0 0) (vs.getD 1 0) = decide (argInt ty vs 0 ≠ argInt ty vs 1) := by
  simp only [intRel, readTy_eq_intOf]
  exact decide_not.symm

theorem intRel_lt (ty : Ty) (vs : List W64) : intRel ty .lt (vs.getD 0 0) (vs.getD 1 0) = decide (argInt ty vs 0 < argInt ty vs 1) := by
  simp only [intRel, readTy_eq_intOf]
  rfl

theorem intRel_le (ty : Ty) (vs : List W64) : intRel ty .le (vs.getD 0 0) (vs.getD 1 0) = decide (argInt ty vs 0 ≤ argInt ty vs 1) := by
  simp only [intRel, readTy_eq_intOf]
  rfl

/-- A compare, from the relation of integers that its condition is. -/
theorem computes_compare {i : Instr} {ty : Ty} {c : Cond} {d : Dst} {a b : Src} {p : Option Pred} {R : List W64 → Prop} [DecidablePred R]
    (h : ∀ s, exec i s = .next (compareBody ty c d p a b s)) (e : ∀ vs, intRel ty c (vs.getD 0 0) (vs.getD 1 0) = decide (R vs)) :
    Computes i d p [a, b] 1 (pureOf (fun vs => if R vs then 1 else 0)) :=
  computes_pureOf h (fun vs => by simp only [boolWord, e, decide_eq_true_eq])

theorem selTy_eq (ty : Ty) (v : W64) : selTy ty v = widen ty (low ty v) := by
  rw [selTy, lowBits_eq, extTy_toNat]

theorem computes_sel (ty : Ty) (d : Dst) (a b c : Src) (p : Option Pred) :
    Computes (.sel ty d a b c p) d p [a, b, c] 1 (fun vs =>
      let k := if opVal vs 0 ≠ 0 then 1 else 2
      (widen ty (low ty (opVal vs k)), opPoi vs 0 || opPoi vs k)) := by
  refine computes_congr (computes_of_execVal (f := fun vs =>
      let k := if opVal vs 0 != 0 then 1 else 2
      (selTy ty (opVal vs k), opPoi vs 0 || opPoi vs k)) fun _ => rfl) fun vs => ?_
  simp only [selTy_eq, bne_iff_ne]

/-- Settles O12: a compare by the relation of the integers that its operands are, sel by its chosen operand. -/
theorem compareAndSelect : Obligations.CompareAndSelect := by
  unfold Obligations.CompareAndSelect
  exact fun ty d a b c p => ⟨computes_compare (fun _ => rfl) (intRel_eq ty), computes_compare (fun _ => rfl) (intRel_ne ty),
    computes_compare (fun _ => rfl) (intRel_lt ty), computes_compare (fun _ => rfl) (intRel_le ty), computes_sel ty d a b c p, rfl, rfl, rfl, rfl, rfl,
    fun x w i h => ⟨fun hlo hhi => decodeAt_intOpcode h (.inr (.inr (.inl ⟨hlo, hhi⟩))), decodeAt_sel h⟩⟩

end Sys2Proof.Machine

/-! Constants, addi and lea (R352 to R354). -/

namespace Sys2Proof.Machine

/-- The immediate of addi under its type (R353). -/
theorem ofInt_readInt16 (ty : Ty) (v : BitVec 16) :
    BitVec.ofInt (tyBits ty) (readInt (tySigned ty) 16 v.toNat) = low ty (if tySigned ty then v.signExtend 64 else v.setWidth 64) := by
  have h64 : tyBits ty ≤ 64 := by cases ty <;> decide
  rw [readInt, low]
  split
  · rw [sextInt_eq_toInt, BitVec.ofNat_toNat, BitVec.setWidth_eq]
    refine BitVec.eq_of_getLsbD_eq fun i hi => ?_
    rw [← BitVec.signExtend, BitVec.getLsbD_setWidth, BitVec.getLsbD_signExtend, BitVec.getLsbD_signExtend]
    simp [hi, hi.trans_le h64]
  · rw [BitVec.ofInt_natCast, Nat.mod_eq_of_lt v.isLt, BitVec.ofNat_toNat, BitVec.setWidth_setWidth_of_le _ h64]

theorem leaVal_eq (sc : Nat) (vs : List W64) : leaVal sc vs = vs.getD 0 0 + vs.getD 1 0 <<< sc := by
  refine BitVec.eq_of_toNat_eq ?_
  simp [leaVal, Nat.shiftLeft_eq]

theorem ofNat_mul_two_pow_32 (imm : BitVec 32) : BitVec.ofNat 64 (imm.toNat * 2 ^ 32) = imm.setWidth 64 <<< 32 := by
  refine BitVec.eq_of_toNat_eq ?_
  simp [Nat.shiftLeft_eq]

/-- Settles O13: each constant by its bits, addi and lea by their sums; what the decoder refuses by the reserved bits of each format. -/
theorem constantsAndAddresses : Obligations.ConstantsAndAddresses := by
  unfold Obligations.ConstantsAndAddresses
  exact fun ty d a b p imm v sc => ⟨computes_of_execPure fun _ => rfl, computes_of_execPure fun _ => rfl,
    computes_pureOf (fun _ => rfl) fun _ => ofNat_mul_two_pow_32 imm,
    computes_intOp (fun _ => rfl) fun vs => by rw [BitVec.ofInt_add, ofInt_argInt, ofInt_readInt16],
    computes_pureOf (fun _ => rfl) (leaVal_eq sc.toNat), encL_word _ _ _, encL_word _ _ _, encL_word _ _ _, encI_word _ _ _ _ _ _, rfl,
    fun c w i x l h => ⟨fun hlo hhi hl => decodeAt_constant_rsvd h hlo hhi hl,
      fun hop => ⟨decodeAt_intOpcode h (.inr (.inr (.inr hop))), fun hx => decodeAt_addi_rsvd h hop hx⟩,
      fun hop => ⟨decodeAt_lea h hop, fun hx => decodeAt_lea_rsvd h hop hx⟩⟩⟩

end Sys2Proof.Machine

/-! call and ret (R361). -/

namespace Sys2Proof.Machine

/-- The state t in which the instruction under the cursor names what its block does once it has committed; s tells the acting core. -/
def branching (s t : State) (b : BrAct) : State :=
  t.modCore s.curKey (fun c => { c with run := c.run.setSlot c.run.cursor { c.run.slot c.run.cursor with br := some b } })

/-- Where a result has landed, the instruction has a slot. -/
theorem landed_idx_lt {s t : State} {at_ lat : Nat} {d : Dst} {v : W64} {poi : Bool} (h : Landed s t at_ lat d v poi) :
    s.idx < (t.core s.curKey).run.slots.length := by
  obtain ⟨hf, -⟩ := h
  by_contra hlen
  simp [State.fired, BlockRun.slot, List.getD_eq_getElem?_getD, List.getElem?_eq_none (not_lt.mp hlen)] at hf

/-- An instruction whose result has landed may name a branch besides (R361). -/
theorem landed_branching {s t : State} {at_ lat : Nat} {d : Dst} {v : W64} {poi : Bool} (h : Landed s t at_ lat d v poi) (b : BrAct) :
    Landed s (branching s t b) at_ lat d v poi ∧ Branched s (branching s t b) at_ b := by
  have hidx := landed_idx_lt h
  obtain ⟨hf, hat, hr, hv, hp, hfl, ho, hst, hother, hcore, hrun, hslots, hos⟩ := h
  have hcur : (t.core s.curKey).run.cursor = s.idx := by rw [hrun]; rfl
  have hbr : (branching s t b).core s.curKey =
      { t.core s.curKey with run := (t.core s.curKey).run.setSlot s.idx { s.fired t with br := some b } } := by
    simp [branching, State.modCore, hcur, State.fired]
  have hfired : s.fired (branching s t b) = { s.fired t with br := some b } := by
    rw [State.fired, hbr]
    simp [BlockRun.slot, BlockRun.setSlot, hidx]
  have honly : FiresOnly s (branching s t b) (some d) := by
    refine ⟨by rw [hst]; rfl, fun k hk => (core_setCore_other t _ hk).trans (hother k hk), ?_⟩
    rw [hbr]
    refine ⟨by rw [hcore], by rw [hrun]; rfl, fun j hj => ?_, hos⟩
    exact (List.getElem?_set_ne (Ne.symm hj)).trans (hslots j hj)
  unfold Landed Branched
  rw [hfired, hbr]
  exact ⟨⟨hf, hat, hr, hv, hp, hfl, ho, honly⟩, hf, hat, rfl, hfl⟩

theorem fireBranch_branched {s : State} (h : canFire s = true) (t : Nat) (b : BrAct) (va vb : Option Operand) :
    Branched s (fireBranch s t b va vb) t b ∧ FiresOnly s (fireBranch s t b va vb) none := by
  refine ⟨⟨?_, ?_, ?_, ?_⟩, fireSlot_only s t _ none⟩ <;> simp [fireBranch, fireSlot_fired h, firing]

theorem stepRet_fault {s : State} {a : Src} {t : Nat} {x : Operand} {c : FCode} (hr : Ready s none [a] t [x]) (hbad : targetBad x.val x.poi = some c) :
    Faulted s (stepRet a s) t c 0 := by
  have hstep : stepRet a s = fireFault s t 1 c 0 (some x) none := by
    simp [stepRet, beginFire_ready hr, opVal, opPoi, hbad]
  rw [hstep]
  exact fireFault_faulted hr.1 t 1 c 0 _ _

theorem stepRet_branches {s : State} {a : Src} {t : Nat} {x : Operand} (hr : Ready s none [a] t [x]) (hok : targetBad x.val x.poi = none) :
    Branched s (stepRet a s) t (.goto x.val) ∧ FiresOnly s (stepRet a s) none := by
  have hstep : stepRet a s = fireBranch s t (.goto x.val) (some x) none := by
    simp [stepRet, beginFire_ready hr, opVal, opPoi, hok]
  rw [hstep]
  exact fireBranch_branched hr.1 t _ _ _

theorem stepCall_noncanon {s : State} {d : Dst} {off : BitVec 24} {t : Nat} (hr : Ready s none [] t [])
    (h : canonical (branchTarget s.curCore.run off) 16 = false) : Faulted s (stepCall d off s) t .noncanon 0 := by
  have hstep : stepCall d off s = fireFault s t 1 .noncanon 0 none none := by
    simp [stepCall, beginFire_ready hr, h]
  rw [hstep]
  exact fireFault_faulted hr.1 t 1 .noncanon 0 _ _

theorem stepCall_lands {s : State} {d : Dst} {off : BitVec 24} {t : Nat} (hr : Ready s none [] t [])
    (h : canonical (branchTarget s.curCore.run off) 16 = true) (hd : DstFree s d false) :
    Landed s (stepCall d off s) t 1 d s.curCore.run.nextAddr false ∧
      Branched s (stepCall d off s) t (.goto (branchTarget s.curCore.run off)) := by
  have hstep : stepCall d off s =
      branching s (land s t 1 d s.curCore.run.nextAddr false none none) (.goto (branchTarget s.curCore.run off)) := by
    simp [stepCall, beginFire_ready hr, h, branching]
  rw [hstep]
  exact landed_branching (land_landed hr.1 t 1 d s.curCore.run.nextAddr false none none hd) _

/-- Settles O19: call lands its result and names its target besides, ret checks its target in the order of R361. -/
theorem callAndReturn : Obligations.CallAndReturn := by
  unfold Obligations.CallAndReturn
  refine ⟨fun c w i v d a off => ⟨encJ_word _ _ _, encG_source_word _ _, fun h hop hv => decodeAt_call_rsvd h hop hv⟩,
    fun d off s t hr => ⟨fun hc hd => ⟨_, rfl, stepCall_lands hr hc hd⟩, fun hc => ⟨_, rfl, stepCall_noncanon hr hc⟩⟩,
    fun a s t x hr => ⟨fun hp => ⟨_, rfl, stepRet_fault hr ?_⟩, fun hp hal => ⟨_, rfl, stepRet_fault hr ?_⟩,
      fun hp hal hc => ⟨_, rfl, stepRet_fault hr ?_⟩, fun hp hal hc => ⟨_, rfl, stepRet_branches hr ?_⟩⟩⟩
  · simp [targetBad, hp]
  · simp [targetBad, hp, hal]
  · simp [targetBad, hp, hal, hc]
  · simp [targetBad, hp, hal, hc]

end Sys2Proof.Machine

/-! halt, and the mailbox message that wakes its core (R391). -/

namespace Sys2Proof.Machine

/-- The word of halt. -/
def haltWord : W64 := 0x5800000000000000

/-- The row of halt: no operand, no predicate. -/
def haltRow : OpRow := { fmt := .G, p := false, cls := .branch }

theorem rowOf_haltWord : rowOf (fieldsOf haltWord) = some haltRow := by decide

/-- Every kind of core has the row of halt, so none refuses it as F_ILLOP. -/
theorem illop_haltWord (k : CoreKind) : illop k (fieldsOf haltWord) haltRow = false := by
  cases k <;> decide

theorem privOp_haltWord (k : CoreKind) : privOp k (fieldsOf haltWord) = (k != .lodge) := by
  cases k <;> decide

/-- Away from a Lodge core the second check of R324 refuses halt. -/
theorem decodeAt_haltWord_elsewhere {c : DecCtx} (h : c.kind ≠ .lodge) : decodeAt c haltWord = .error .priv := by
  simp [decodeAt, decodeFields, rowOf_haltWord, illop_haltWord, privOp_haltWord, h]

/-- On a Lodge core halt passes every check: it has no operand and no reserved bit set. -/
theorem decodeAt_haltWord_lodge {c : DecCtx} (h : c.kind = .lodge) : decodeAt c haltWord = .ok .halt := by
  have hdst : dstBad c (fieldsOf haltWord) haltRow = none := rfl
  have hsrcs : srcsBad c (fieldsOf haltWord) haltRow = false := rfl
  have hrsvd : rsvdBad c (fieldsOf haltWord) haltRow = false := rfl
  have hbuild : build (fieldsOf haltWord) = some .halt := by decide
  simp [decodeAt, decodeFields, rowOf_haltWord, illop_haltWord, privOp_haltWord, h, hdst, hsrcs, hrsvd, hbuild]

theorem decodeAt_haltWord (c : DecCtx) : decodeAt c haltWord = if c.kind = .lodge then .ok .halt else .error .priv := by
  split
  case isTrue h => exact decodeAt_haltWord_lodge h
  case isFalse h => exact decodeAt_haltWord_elsewhere h

/-- An instruction without operands that ends its block names what the block does once it has committed, and changes no more. -/
theorem endBranch_branches {s : State} {t : Nat} (hr : Ready s none [] t []) (b : BrAct) :
    Branched s (endBranch b s) t b ∧ FiresOnly s (endBranch b s) none := by
  have hstep : endBranch b s = fireBranch s t b none none := by simp [endBranch, beginFire_ready hr]
  rw [hstep]
  exact fireBranch_branched hr.1 t b none none

/-- No request for pre-emption stops a Lodge core: it belongs to no region. -/
theorem stopAtPoint_lodge (s : State) {k : Nat} (hk : 640 ≤ k) (pp : Bool) : stopAtPoint s k pp = s := by
  simp [stopAtPoint, keyRegion, Nat.not_lt.mpr hk]

/-- A core that no post-commit fault has reached takes none between its blocks. -/
theorem takePost_post_nil {s : State} {k : Nat} (h : (s.core k).post = []) : takePost s k = s := by
  simp [takePost, postDue, h]

/-- The commit of a halt: its core stands halted before the block that follows in section order. -/
theorem stepBlockCommit_lodge_halt {s : State} {core : CoreId} (hk : 640 ≤ coreKey core) (hphase : (s.core (coreKey core)).phase = .ending .halt)
    (houtq : (s.core (coreKey core)).outq = []) (hpost : (s.core (coreKey core)).post = []) :
    stepBlockCommit core s = s.modCore (coreKey core) (fun c => { c with phase := .halted c.run.nextAddr }) := by
  have hpost' : ((takeEffect s (coreKey core) .halt).core (coreKey core)).post = [] := by
    simp [takeEffect, State.modCore_eq, hpost]
  calc stepBlockCommit core s = takePost (takeEffect s (coreKey core) .halt) (coreKey core) := by
        simp [stepBlockCommit, hphase, houtq, stopAtPoint_lodge _ hk]
    _ = takeEffect s (coreKey core) .halt := takePost_post_nil hpost'
    _ = s.modCore (coreKey core) (fun c => { c with phase := .halted c.run.nextAddr }) := rfl

/-- The oldest mailbox message leaves the inputs for its mailbox and wakes the core that owns it, whether that core halted in its code or in a
block that a trap has interrupted. -/
theorem stepMailboxMessage_cons {s : State} {c : Nat} {cs : List Nat} (h : s.inputs.mailbox = c :: cs) :
    stepMailboxMessage s =
      State.modCore { s with inputs := { s.inputs with mailbox := cs }, mailbox := s.mailbox ++ [c] } (640 + c % 8) (fun x =>
        { x with phase := wake x.phase, trapped := x.trapped.map (fun t => { t with resume := wake t.resume }) }) := by
  simp [stepMailboxMessage, h]

/-- A core that has not halted is not moved by a message. -/
theorem wake_of_not_halted {p : Phase} (h : ∀ a, p ≠ .halted a) : wake p = p := by
  cases p
  case halted a => exact absurd rfl (h a)
  all_goals rfl

/-- Settles O58: the second check of R324 tells where halt decodes; fired, it names the halt that its commit performs, and a mailbox message
turns the halted phase into the start of the next block. -/
theorem haltAndMailbox : Obligations.HaltAndMailbox := by
  unfold Obligations.HaltAndMailbox
  exact ⟨decodeAt_haltWord, fun s t hr => ⟨_, rfl, endBranch_branches hr .halt⟩,
    fun s core hk hphase houtq hpost => congrArg Host.Outcome.next (stepBlockCommit_lodge_halt hk hphase houtq hpost),
    fun s c cs h => congrArg Host.Outcome.next (stepMailboxMessage_cons h),
    fun a => rfl, fun p hp => wake_of_not_halted hp⟩

end Sys2Proof.Machine
